-- ==== Sys2Proof/Word.lean ====
section
/-! DEFINITION. Word.lean: the words of the machine (R6, R7) and the sparse tables that hold everything numbered. -/

namespace Sys2Proof

/-- A 64-bit scalar register value (R19). -/
abbrev Word := BitVec 64

/-- The smallest addressable unit (R6). -/
abbrev Byte := BitVec 8

/-- A byte with its poison mark (R382). -/
abbrev PByte := Byte × Bool

/-- A table of things numbered by a natural number: keys strictly rising, no entry equal to the value an
unlisted key reads as. -/
abbrev Tab (α : Type) := List (Nat × α)

/-- The entry listed for a key, if one is. -/
def Tab.find {α : Type} : Tab α → Nat → Option α
  | [], _ => none
  | (k', v) :: t, k => if k' = k then some v else Tab.find t k

/-- The value of a key; an unlisted key reads as `d`. -/
def Tab.get {α : Type} (d : α) (t : Tab α) (k : Nat) : α := (t.find k).getD d

/-- The table without the entry of a key. -/
def Tab.del {α : Type} : Tab α → Nat → Tab α
  | [], _ => []
  | (k', v) :: t, k => if k' = k then Tab.del t k else (k', v) :: Tab.del t k

/-- The table with an entry for a key, in its place. -/
def Tab.put {α : Type} : Tab α → Nat → α → Tab α
  | [], k, v => [(k, v)]
  | (k', v') :: t, k, v =>
    if k' = k then (k, v) :: t else if k < k' then (k, v) :: (k', v') :: t else (k', v') :: Tab.put t k v

/-- Writing a value; the value an unlisted key reads as is not listed. -/
def Tab.set {α : Type} [DecidableEq α] (d : α) (t : Tab α) (k : Nat) (v : α) : Tab α :=
  if v = d then t.del k else t.put k v

/-- The keys rise strictly from `lo` on and no entry is `d`. -/
def Tab.wfFrom {α : Type} [DecidableEq α] (d : α) : Nat → Tab α → Bool
  | _, [] => true
  | lo, (k, v) :: t => decide (lo ≤ k) && decide (v ≠ d) && Tab.wfFrom d (k + 1) t

/-- The canonical form of a table. -/
def Tab.wf {α : Type} [DecidableEq α] (d : α) (t : Tab α) : Bool := Tab.wfFrom d 0 t

/-- The low `n` bits of a word as a two's-complement integer (SExt of R83). -/
def sext (x n : Nat) : Int :=
  let y := x % 2 ^ n
  if 2 * y < 2 ^ n then (y : Int) else (y : Int) - (2 ^ n : Nat)

/-- Wrap64 of R83. -/
def wrap64 (v : Int) : Word := BitVec.ofInt 64 v

/-- A bit slice x[lo + n - 1 : lo] as an unsigned value (R40). -/
def bits (x lo n : Nat) : Nat := x / 2 ^ lo % 2 ^ n

end Sys2Proof
end

