-- ==== Sys2Proof/Config.lean ====
section
/-! DEFINITION. Config.lean: what the spec leaves to the implementation (values with no body: nothing in Lean can
evaluate them), and the fixed extents of the package (R1, R13, R19). -/

namespace Sys2Proof.Config

/-- R173: for an inexact F32 result of VRCP, VRSQ, VEXP2, VLOG2, VTANH, VSIN or VCOS (member code 0-7, operand bits),
whether the bound of larger magnitude is delivered. The choice is fixed per operand and otherwise open (log 8). -/
opaque specialPicksLarger : Nat → Nat → Bool

/-- The signature of the device identity key over an attestation report (R441, log 9). -/
opaque attestationSign : List Byte → List Byte

/-- The key whose digest is fused in the package (R409), and the digest of the firmware it runs (R441), which the spec does
not give (log 9). -/
opaque rootKey : List Byte
opaque firmwareDigest : BitVec 512

/-- What an ingest record holds between the end of its frame and its rounded length, by place in the ring, which R439 leaves
open (log 22). -/
opaque ingestPad : Nat → Byte

/-- Where PNEW and an accepted arrival place a parcel among the free room of a heap, which R151 leaves open, as a function
of the handle (log 10). -/
opaque heapPick : Nat → Nat

/-- The home slice at a peer (package, its context) of a granule of 256 bytes of its address space, which the peer's
translation decides (R312, R314, log 16). -/
opaque peerHome : Nat → Nat → Nat → Nat

/-- Whether the far end has a free position for a lane to a peer on a line, when the lease agent asks for the nth time (R391,
log 64). -/
opaque farFree : Nat → Nat → Nat → Bool

/-- The lane, HBM4, die-to-die, PCIe and Ethernet clocks in kHz, which R426 calls fixed and does not give (log 11). -/
opaque fixedClocks : List Nat

/-- The row of HBM4 that holds a physical address, and the address at which a row begins, which R442 does not give (log 79). -/
opaque hbmRow : Nat → Nat
opaque hbmRowBase : Nat → Nat

/-- 3 MiB of SRAM in each tile (R19). -/
def sramBytes : Nat := 3145728

/-- 512 GiB of HBM4 on a four-die package (R1). -/
def hbmBytes : Nat := 549755813888

/-- 1 GiB of weight store on each die (R16). -/
def weightBytes : Nat := 1073741824

/-- Entries of one engine queue (R19). -/
def queueEntries : Nat := 32

/-- Entries of a partition's device queue, and how many the supervisor and host sources may occupy (R324). -/
def deviceQueue : Nat := 64
def deviceQueueOpen : Nat := 56

end Sys2Proof.Config
end

