-- ==== Sys2Proof/Syntax.lean ====
section
/-! DEFINITION. Syntax.lean: the instruction words of the opcode map (R69-R73), one constructor for each row of the opcode
table, and the events of the machine that the same table lists, one constructor each with what the event brings from
outside as its arguments. Register numbers, codes and immediates are the fields of R69; coded fields are named values. -/

namespace Sys2Proof

/-- The guard of a guarded format: executes iff P(p) xor n (R68). -/
structure Guard where
  n : Bool
  p : BitVec 3
  deriving DecidableEq, Repr

/-- Element types, codes of R43. -/
inductive Ty where
  | i8 | ui8 | i16 | ui16 | i32 | ui32 | f32 | bf16 | f16 | e4m3 | e5m2 | ci8 | ci16 | cb4 | i4 | ci4
  deriving DecidableEq, Repr

/-- Rounding modes of R53. -/
inductive Rnd where
  | rne | rz | rdn | rup | rna | sr
  deriving DecidableEq, Repr

/-- Scalar conditions of R70. -/
inductive SCond where
  | eq | ne | lt | ge | ltu | geu
  deriving DecidableEq, Repr

/-- Vector conditions of R70. -/
inductive VCond where
  | eq | ne | lt | le | gt | ge
  deriving DecidableEq, Repr

/-- Scopes of R70, R25. -/
inductive Scope where
  | task | tile | block | die | package | pod | system
  deriving DecidableEq, Repr

/-- The order field of an AMO (R70). -/
inductive Order where
  | relaxed | acquire | release | acqRel
  deriving DecidableEq, Repr

/-- The kind of a FENCE (R133). -/
inductive FKind where
  | acq | rel | acqRel | sc
  deriving DecidableEq, Repr

/-- Access sizes of PLD and PST (R70). -/
inductive Size where
  | b8 | h16 | w32 | d64
  deriving DecidableEq, Repr

/-- The width of an AMO or VAMO (R70). -/
inductive Wd where
  | w32 | d64
  deriving DecidableEq, Repr

/-- Kinds of accumulator (R192). -/
inductive AKind where
  | f32 | i32 | cpx
  deriving DecidableEq, Repr

/-- The engines, with the codes of a DEP token (R70). -/
inductive Eng where
  | v | m | c | l
  deriving DecidableEq, Repr

/-- Address spaces of CVTA and ISIN (R112). -/
inductive Space where
  | loc | block | cluster | weight | parcel | global
  deriving DecidableEq, Repr

/-- Registers written by REGISTER_WRITE: those of the management interface with no event of their own (R9). -/
inductive MReg where
  | pwrRamp | pwrFloor | tripReason | termMax | commonPool (slice : Nat)
  | droopCnt (block : Nat) | slotMiss (tile : Nat) | qos (ctx port : Nat) | rxBad (port : Nat)
  | flowTab (port n : Nat) | flowBase (port flow : Nat) | flowSize (port flow : Nat) | flowCtx (port flow : Nat)
  | flowClass (port flow : Nat) | flowConsA (port flow : Nat) | flowCntA (port flow : Nat)
  | flowHiwm (port flow : Nat) | flowLowm (port flow : Nat)
  | partDesc (num : Nat) | sliceWays (num slice : Nat) | wshareBase (num die : Nat) | wshareSize (num die : Nat)
  | peerTmo (ctx : Nat) | nodeWd (ctx : Nat) | hangWd (ctx : Nat) | quota (ctx : Nat)
  deriving DecidableEq, Repr

/-- The context record of R348. -/
structure CtxRec where
  ptroot : Word := 0
  ttbase : Word := 0
  ttlen : BitVec 32 := 0
  part : Byte := 0xFF
  kennel : Word := 0
  klen : Word := 0
  heap : Word := 0
  heaplen : Word := 0
  pdir : Word := 0
  parcnt : Word := 0
  peertmo : BitVec 32 := 0
  nodewd : Byte := 0
  hangwd : Byte := 0
  quota : BitVec 16 := 0
  tvec0 : Word := 0
  pairtab : Word := 0
  deriving DecidableEq, Repr

/-- A parcel on offer between two contexts (R154): who posted which handle to whom, and its length. -/
structure Offer where
  srcPkg : Nat
  srcCtx : Nat
  dstPkg : Nat
  dstCtx : Nat
  handle : Word
  len : Nat
  deriving DecidableEq, Repr

/-- What a request from another package asks for (R234). -/
inductive PeerOp where
  | read (n : Nat)
  | write (bytes : List PByte)
  | amo (op : Nat) (width : Wd) (v expect : Word)
  | counterAdd (n : Nat)
  deriving DecidableEq, Repr

/-- What another package answers to a request of this one (R234): the bytes read or the old value, or the cause of the
fault that it reports. -/
inductive PeerAns where
  | ok (bytes : List PByte)
  | bad (cause : Nat)
  deriving DecidableEq, Repr

/-- A request that arrives from another package: its package, the context it names there and here, and the address. -/
structure PeerReq where
  srcPkg : Nat
  srcCtx : Nat
  dstCtx : Nat
  sup : Bool
  addr : Word
  op : PeerOp
  deriving DecidableEq, Repr

/-- One 256-bit beat of a fabric port with its marks (R289). -/
structure Beat where
  data : BitVec 256
  fof : Bool
  lof : Bool
  err : Bool
  deriving DecidableEq, Repr

/-- A frame from an Ethernet MAC: its bytes, whether the FCS holds, the PCP of its VLAN tag (0 when untagged), the UDP
destination port (none when it is not UDP), the arrival time in ns (R437, R439). -/
structure EthFrame where
  bytes : List Byte
  fcsOk : Bool
  pcp : Nat
  udp : Option Nat
  time : Word
  deriving DecidableEq, Repr

/-- What a far end says at a revoke-cycle boundary (R391, R392): the lines of its pair that it can free, the lines that it
takes for ASKs of its own, and the lines that it drops, given back or as donors. -/
structure FarOffer where
  peer : Nat
  lines : List Nat
  takes : List Nat
  drops : List Nat
  deriving DecidableEq, Repr

/-- The end of the verification of a region's image (R411): the region, and whether the check of the key slot was made `early`, while
the slots were as at the request (R414). -/
structure VerifyEnd where
  region : Nat
  early : Bool
  deriving DecidableEq, Repr

/-- The end of a retune (R393, R401): the line, and whether its lane is lit. -/
structure RetuneEnd where
  line : Nat
  ok : Bool
  deriving DecidableEq, Repr

/-- A loss of lanes of one pair (R398): the lines, the cause with which the far end detects it, 0 where it does not, and the
target acknowledgements that were lost with them, counted from the last. -/
structure LossSeen where
  lines : List Nat
  far : Nat
  again : List Nat
  deriving DecidableEq, Repr

/-- What loses its light in the cycle of a REVOKE_CYCLE (R402), by peer. -/
abbrev CycleLosses := List (Nat × LossSeen)

/-- The failure of laser module m (R398): the peers that detect it too, and the acknowledgements lost, with their peers. -/
structure ModuleLoss where
  m : Nat
  far : List Nat
  again : List (Nat × Nat)
  deriving DecidableEq, Repr

/-- The lines of laser module m are lit again (R399), at this package with `own`, and at the peers named. -/
structure ModuleLit where
  m : Nat
  own : Bool
  peers : List Nat
  deriving DecidableEq, Repr

/-- The line on which a flit's bad CRC was met; as for LossSeen where that loses the lane (R397, R398). -/
structure FlitLine where
  line : Nat
  far : Nat
  again : List Nat
  deriving DecidableEq, Repr

/-- The firmware that power-up finds, with its signature (R440). -/
structure Firmware where
  image : List Byte
  sig : List Byte
  deriving DecidableEq, Repr

/-- A cumulative acknowledgement, with `bad` together with the report of a bad CRC (R397). -/
structure LinkAck where
  seq : BitVec 24
  bad : Bool
  deriving DecidableEq, Repr

/-- The instructions and events of the opcode table. -/
inductive Instr where
  | add (g : Guard) (d : BitVec 5) (a : BitVec 5) (b : BitVec 5)
  | sub (g : Guard) (d : BitVec 5) (a : BitVec 5) (b : BitVec 5)
  | mul (g : Guard) (d : BitVec 5) (a : BitVec 5) (b : BitVec 5)
  | mulh (g : Guard) (d : BitVec 5) (a : BitVec 5) (b : BitVec 5)
  | mulhu (g : Guard) (d : BitVec 5) (a : BitVec 5) (b : BitVec 5)
  | div (g : Guard) (d : BitVec 5) (a : BitVec 5) (b : BitVec 5)
  | divu (g : Guard) (d : BitVec 5) (a : BitVec 5) (b : BitVec 5)
  | rem (g : Guard) (d : BitVec 5) (a : BitVec 5) (b : BitVec 5)
  | remu (g : Guard) (d : BitVec 5) (a : BitVec 5) (b : BitVec 5)
  | andS (g : Guard) (d : BitVec 5) (a : BitVec 5) (b : BitVec 5)
  | orS (g : Guard) (d : BitVec 5) (a : BitVec 5) (b : BitVec 5)
  | xorS (g : Guard) (d : BitVec 5) (a : BitVec 5) (b : BitVec 5)
  | andn (g : Guard) (d : BitVec 5) (a : BitVec 5) (b : BitVec 5)
  | shl (g : Guard) (d : BitVec 5) (a : BitVec 5) (b : BitVec 5)
  | shr (g : Guard) (d : BitVec 5) (a : BitVec 5) (b : BitVec 5)
  | sar (g : Guard) (d : BitVec 5) (a : BitVec 5) (b : BitVec 5)
  | rotr (g : Guard) (d : BitVec 5) (a : BitVec 5) (b : BitVec 5)
  | minS (g : Guard) (d : BitVec 5) (a : BitVec 5) (b : BitVec 5)
  | maxS (g : Guard) (d : BitVec 5) (a : BitVec 5) (b : BitVec 5)
  | minu (g : Guard) (d : BitVec 5) (a : BitVec 5) (b : BitVec 5)
  | maxu (g : Guard) (d : BitVec 5) (a : BitVec 5) (b : BitVec 5)
  | clz (g : Guard) (d : BitVec 5) (a : BitVec 5)
  | ctz (g : Guard) (d : BitVec 5) (a : BitVec 5)
  | popc (g : Guard) (d : BitVec 5) (a : BitVec 5)
  | sextb (g : Guard) (d : BitVec 5) (a : BitVec 5)
  | sexth (g : Guard) (d : BitVec 5) (a : BitVec 5)
  | sextw (g : Guard) (d : BitVec 5) (a : BitVec 5)
  | zextb (g : Guard) (d : BitVec 5) (a : BitVec 5)
  | zexth (g : Guard) (d : BitVec 5) (a : BitVec 5)
  | zextw (g : Guard) (d : BitVec 5) (a : BitVec 5)
  | sel (g : Guard) (d : BitVec 5) (a : BitVec 5) (b : BitVec 5)
  | addi (g : Guard) (d : BitVec 5) (a : BitVec 5) (i : BitVec 12)
  | andi (g : Guard) (d : BitVec 5) (a : BitVec 5) (i : BitVec 12)
  | ori (g : Guard) (d : BitVec 5) (a : BitVec 5) (i : BitVec 12)
  | xori (g : Guard) (d : BitVec 5) (a : BitVec 5) (i : BitVec 12)
  | shli (g : Guard) (d : BitVec 5) (a : BitVec 5) (m : BitVec 6)
  | shri (g : Guard) (d : BitVec 5) (a : BitVec 5) (m : BitVec 6)
  | sari (g : Guard) (d : BitVec 5) (a : BitVec 5) (m : BitVec 6)
  | rotri (g : Guard) (d : BitVec 5) (a : BitVec 5) (m : BitVec 6)
  | lih (d : BitVec 5) (i : BitVec 21)
  | apc (d : BitVec 5) (i : BitVec 21)
  | cmp (g : Guard) (q : BitVec 3) (a : BitVec 5) (b : BitVec 5) (c : SCond)
  | cmpi (g : Guard) (q : BitVec 3) (c : SCond) (a : BitVec 5) (i : BitVec 11)
  | pand (g : Guard) (q : BitVec 3) (x : BitVec 3) (y : BitVec 3)
  | por (g : Guard) (q : BitVec 3) (x : BitVec 3) (y : BitVec 3)
  | pxor (g : Guard) (q : BitVec 3) (x : BitVec 3) (y : BitVec 3)
  | pandn (g : Guard) (q : BitVec 3) (x : BitVec 3) (y : BitVec 3)
  | pnot (g : Guard) (q : BitVec 3) (x : BitVec 3)
  | pmov (g : Guard) (q : BitVec 3) (x : BitVec 3)
  | pset (g : Guard) (q : BitVec 3)
  | pbr (t : BitVec 2) (i : BitVec 24)
  | br (g : Guard) (t : BitVec 2)
  | brl (g : Guard) (t : BitVec 2)
  | pbrr (g : Guard) (t : BitVec 2) (a : BitVec 5)
  | nop (g : Guard)
  | mfs (g : Guard) (d : BitVec 5) (s : BitVec 10)
  | mts (g : Guard) (d : BitVec 5) (s : BitVec 10)
  | trap (g : Guard) (a : BitVec 5)
  | rte (g : Guard)
  | yield (g : Guard)
  | tfence (g : Guard)
  | drain (g : Guard)
  | twait (g : Guard) (d : BitVec 5) (e : Eng)
  | cvta (g : Guard) (d : BitVec 5) (a : BitVec 5) (b : Space)
  | isin (g : Guard) (d : BitVec 5) (a : BitVec 5) (b : Space)
  | halt (g : Guard)
  | rgnLoad (g : Guard) (d : BitVec 5) (a : BitVec 5) (b : BitVec 5)
  | rgnStat (g : Guard) (d : BitVec 5) (a : BitVec 5)
  | rgnBind (g : Guard) (d : BitVec 5) (a : BitVec 5) (b : BitVec 5)
  | ldb (g : Guard) (d : BitVec 5) (a : BitVec 5) (i : BitVec 9)
  | ldh (g : Guard) (d : BitVec 5) (a : BitVec 5) (i : BitVec 9)
  | ldw (g : Guard) (d : BitVec 5) (a : BitVec 5) (i : BitVec 9)
  | ldd (g : Guard) (d : BitVec 5) (a : BitVec 5) (i : BitVec 9)
  | ldbu (g : Guard) (d : BitVec 5) (a : BitVec 5) (i : BitVec 9)
  | ldhu (g : Guard) (d : BitVec 5) (a : BitVec 5) (i : BitVec 9)
  | ldwu (g : Guard) (d : BitVec 5) (a : BitVec 5) (i : BitVec 9)
  | stb (g : Guard) (d : BitVec 5) (a : BitVec 5) (i : BitVec 9)
  | sth (g : Guard) (d : BitVec 5) (a : BitVec 5) (i : BitVec 9)
  | stw (g : Guard) (d : BitVec 5) (a : BitVec 5) (i : BitVec 9)
  | std (g : Guard) (d : BitVec 5) (a : BitVec 5) (i : BitVec 9)
  | ldaW (g : Guard) (d : BitVec 5) (a : BitVec 5) (s : Scope)
  | ldaD (g : Guard) (d : BitVec 5) (a : BitVec 5) (s : Scope)
  | strW (g : Guard) (d : BitVec 5) (a : BitVec 5) (s : Scope)
  | strD (g : Guard) (d : BitVec 5) (a : BitVec 5) (s : Scope)
  | amoAdd (s : Scope) (o : Order) (d : BitVec 5) (a : BitVec 5) (b : BitVec 5) (w : Wd)
  | amoAnd (s : Scope) (o : Order) (d : BitVec 5) (a : BitVec 5) (b : BitVec 5) (w : Wd)
  | amoOr (s : Scope) (o : Order) (d : BitVec 5) (a : BitVec 5) (b : BitVec 5) (w : Wd)
  | amoXor (s : Scope) (o : Order) (d : BitVec 5) (a : BitVec 5) (b : BitVec 5) (w : Wd)
  | amoMin (s : Scope) (o : Order) (d : BitVec 5) (a : BitVec 5) (b : BitVec 5) (w : Wd)
  | amoMax (s : Scope) (o : Order) (d : BitVec 5) (a : BitVec 5) (b : BitVec 5) (w : Wd)
  | amoMinu (s : Scope) (o : Order) (d : BitVec 5) (a : BitVec 5) (b : BitVec 5) (w : Wd)
  | amoMaxu (s : Scope) (o : Order) (d : BitVec 5) (a : BitVec 5) (b : BitVec 5) (w : Wd)
  | amoSwp (s : Scope) (o : Order) (d : BitVec 5) (a : BitVec 5) (b : BitVec 5) (w : Wd)
  | amoCas (s : Scope) (o : Order) (d : BitVec 5) (a : BitVec 5) (b : BitVec 5) (w : Wd)
  | fence (g : Guard) (s : Scope) (k : FKind)
  | sbar (g : Guard) (a : BitVec 5)
  | waitc (g : Guard) (s : Scope) (a : BitVec 5) (b : BitVec 5)
  | tspawn (g : Guard) (d : BitVec 5) (a : BitVec 5) (b : BitVec 5)
  | texit (g : Guard)
  | exit (g : Guard)
  | recv (g : Guard) (d : BitVec 5) (a : BitVec 5)
  | send (g : Guard) (d : BitVec 5) (a : BitVec 5) (b : BitVec 5)
  | launch (g : Guard) (d : BitVec 5) (a : BitVec 5)
  | bind (g : Guard) (d : BitVec 5) (a : BitVec 5)
  | dqpush (g : Guard) (d : BitVec 5) (a : BitVec 5)
  | dqpop (g : Guard) (d : BitVec 5)
  | dqsteal (g : Guard) (d : BitVec 5) (a : BitVec 5)
  | dqlen (g : Guard) (d : BitVec 5)
  | pld (g : Guard) (d : BitVec 5) (a : BitVec 5) (b : BitVec 5) (z : Size)
  | pst (g : Guard) (d : BitVec 5) (a : BitVec 5) (b : BitVec 5) (z : Size)
  | pldr (g : Guard) (d : BitVec 5) (a : BitVec 5) (b : BitVec 5)
  | pstr (g : Guard) (d : BitVec 5) (a : BitVec 5) (b : BitVec 5)
  | pnew (g : Guard) (d : BitVec 5) (a : BitVec 5)
  | pfree (g : Guard) (a : BitVec 5)
  | plen (g : Guard) (d : BitVec 5) (a : BitVec 5)
  | pstat (g : Guard) (d : BitVec 5) (a : BitVec 5)
  | pmap (g : Guard) (d : BitVec 5) (a : BitVec 5)
  | punmap (g : Guard) (a : BitVec 5)
  | post (d : BitVec 5) (a : BitVec 5) (b : BitVec 5)
  | precv (g : Guard) (d : BitVec 5)
  | vadd (d : BitVec 5) (a : BitVec 5) (b : BitVec 5) (m : BitVec 3) (t : Ty)
  | vsub (d : BitVec 5) (a : BitVec 5) (b : BitVec 5) (m : BitVec 3) (t : Ty)
  | vmul (d : BitVec 5) (a : BitVec 5) (b : BitVec 5) (m : BitVec 3) (t : Ty)
  | vmad (d : BitVec 5) (a : BitVec 5) (b : BitVec 5) (m : BitVec 3) (t : Ty)
  | vmsb (d : BitVec 5) (a : BitVec 5) (b : BitVec 5) (m : BitVec 3) (t : Ty)
  | vabs (d : BitVec 5) (a : BitVec 5) (m : BitVec 3) (t : Ty)
  | vneg (d : BitVec 5) (a : BitVec 5) (m : BitVec 3) (t : Ty)
  | vmin (d : BitVec 5) (a : BitVec 5) (b : BitVec 5) (m : BitVec 3) (t : Ty)
  | vmax (d : BitVec 5) (a : BitVec 5) (b : BitVec 5) (m : BitVec 3) (t : Ty)
  | vadds (d : BitVec 5) (a : BitVec 5) (b : BitVec 5) (m : BitVec 3) (t : Ty)
  | vsubs (d : BitVec 5) (a : BitVec 5) (b : BitVec 5) (m : BitVec 3) (t : Ty)
  | vmulhi (d : BitVec 5) (a : BitVec 5) (b : BitVec 5) (m : BitVec 3) (t : Ty)
  | vand (d : BitVec 5) (a : BitVec 5) (b : BitVec 5) (m : BitVec 3) (t : Ty)
  | vor (d : BitVec 5) (a : BitVec 5) (b : BitVec 5) (m : BitVec 3) (t : Ty)
  | vxor (d : BitVec 5) (a : BitVec 5) (b : BitVec 5) (m : BitVec 3) (t : Ty)
  | vnot (d : BitVec 5) (a : BitVec 5) (m : BitVec 3) (t : Ty)
  | vshl (d : BitVec 5) (a : BitVec 5) (b : BitVec 5) (m : BitVec 3) (t : Ty)
  | vshr (d : BitVec 5) (a : BitVec 5) (b : BitVec 5) (m : BitVec 3) (t : Ty)
  | vsar (d : BitVec 5) (a : BitVec 5) (b : BitVec 5) (m : BitVec 3) (t : Ty)
  | vclz (d : BitVec 5) (a : BitVec 5) (m : BitVec 3) (t : Ty)
  | vpopc (d : BitVec 5) (a : BitVec 5) (m : BitVec 3) (t : Ty)
  | vcmp (d : BitVec 3) (a : BitVec 5) (b : BitVec 5) (m : BitVec 3) (c : VCond) (t : Ty)
  | vcvt (d : BitVec 5) (a : BitVec 5) (u : Ty) (m : BitVec 3) (s : BitVec 1) (r : Rnd) (t : Ty)
  | vrcp (d : BitVec 5) (a : BitVec 5) (m : BitVec 3) (t : Ty)
  | vrsq (d : BitVec 5) (a : BitVec 5) (m : BitVec 3) (t : Ty)
  | vsqrt (d : BitVec 5) (a : BitVec 5) (m : BitVec 3) (t : Ty)
  | vexp2 (d : BitVec 5) (a : BitVec 5) (m : BitVec 3) (t : Ty)
  | vlog2 (d : BitVec 5) (a : BitVec 5) (m : BitVec 3) (t : Ty)
  | vtanh (d : BitVec 5) (a : BitVec 5) (m : BitVec 3) (t : Ty)
  | vsin (d : BitVec 5) (a : BitVec 5) (m : BitVec 3) (t : Ty)
  | vcos (d : BitVec 5) (a : BitVec 5) (m : BitVec 3) (t : Ty)
  | vredadd (d : BitVec 5) (a : BitVec 5) (m : BitVec 3) (t : Ty)
  | vredmax (d : BitVec 5) (a : BitVec 5) (m : BitVec 3) (t : Ty)
  | vredmin (d : BitVec 5) (a : BitVec 5) (m : BitVec 3) (t : Ty)
  | vredor (d : BitVec 5) (a : BitVec 5) (m : BitVec 3) (t : Ty)
  | vredand (d : BitVec 5) (a : BitVec 5) (m : BitVec 3) (t : Ty)
  | vscan (d : BitVec 5) (a : BitVec 5) (m : BitVec 3) (t : Ty)
  | vperm (d : BitVec 5) (a : BitVec 5) (b : BitVec 5) (m : BitVec 3) (t : Ty)
  | vbcast (d : BitVec 5) (a : BitVec 5) (m : BitVec 3) (t : Ty)
  | viota (d : BitVec 5) (m : BitVec 3) (t : Ty)
  | vslide (d : BitVec 5) (a : BitVec 5) (b : BitVec 5) (m : BitVec 3) (t : Ty)
  | vsel (d : BitVec 5) (a : BitVec 5) (b : BitVec 5) (m : BitVec 3) (t : Ty)
  | vmovs (d : BitVec 5) (a : BitVec 5) (b : BitVec 5) (t : Ty)
  | vext (d : BitVec 5) (a : BitVec 5) (b : BitVec 5) (t : Ty)
  | vcmul (d : BitVec 5) (a : BitVec 5) (b : BitVec 5) (m : BitVec 3) (t : Ty)
  | vconj (d : BitVec 5) (a : BitVec 5) (m : BitVec 3) (t : Ty)
  | mand (d : BitVec 3) (a : BitVec 3) (b : BitVec 3) (t : Ty)
  | mor (d : BitVec 3) (a : BitVec 3) (b : BitVec 3) (t : Ty)
  | mxor (d : BitVec 3) (a : BitVec 3) (b : BitVec 3) (t : Ty)
  | mnot (d : BitVec 3) (a : BitVec 3) (t : Ty)
  | mpop (d : BitVec 5) (a : BitVec 3) (m : BitVec 3) (t : Ty)
  | vany (d : BitVec 3) (a : BitVec 3) (m : BitVec 3) (t : Ty)
  | vall (d : BitVec 3) (a : BitVec 3) (m : BitVec 3) (t : Ty)
  | vld (v : BitVec 5) (a : BitVec 5) (m : BitVec 3) (t : Ty)
  | vlds (v : BitVec 5) (a : BitVec 5) (x : BitVec 5) (m : BitVec 3) (t : Ty)
  | vgath (v : BitVec 5) (a : BitVec 5) (x : BitVec 5) (m : BitVec 3) (t : Ty)
  | vst (v : BitVec 5) (a : BitVec 5) (m : BitVec 3) (t : Ty)
  | vsts (v : BitVec 5) (a : BitVec 5) (x : BitVec 5) (m : BitVec 3) (t : Ty)
  | vscat (v : BitVec 5) (a : BitVec 5) (x : BitVec 5) (m : BitVec 3) (t : Ty)
  | vamoAdd (v : BitVec 5) (i : BitVec 5) (a : BitVec 5) (m : BitVec 3) (s : Scope) (w : Wd)
  | vamoOr (v : BitVec 5) (i : BitVec 5) (a : BitVec 5) (m : BitVec 3) (s : Scope) (w : Wd)
  | vamoAnd (v : BitVec 5) (i : BitVec 5) (a : BitVec 5) (m : BitVec 3) (s : Scope) (w : Wd)
  | vamoXor (v : BitVec 5) (i : BitVec 5) (a : BitVec 5) (m : BitVec 3) (s : Scope) (w : Wd)
  | vamoMin (v : BitVec 5) (i : BitVec 5) (a : BitVec 5) (m : BitVec 3) (s : Scope) (w : Wd)
  | vamoMax (v : BitVec 5) (i : BitVec 5) (a : BitVec 5) (m : BitVec 3) (s : Scope) (w : Wd)
  | vpop (v : BitVec 5) (b : BitVec 4)
  | vpush (v : BitVec 5) (b : BitVec 4)
  | vpeek (v : BitVec 5) (b : BitVec 4)
  | mldw (a : BitVec 5) (t : Ty) (y : BitVec 4) (p : BitVec 1)
  | mswp
  | mtag (a : BitVec 5)
  | mmul (e : BitVec 4) (b : BitVec 5) (x : BitVec 4) (t : Ty) (r : BitVec 2) (p : BitVec 1)
  | mmulz (e : BitVec 4) (b : BitVec 5) (x : BitVec 4) (t : Ty) (r : BitVec 2) (p : BitVec 1)
  | mrel (x : BitVec 4)
  | mzero (x : BitVec 4) (k : AKind)
  | mstat (d : BitVec 5) (x : BitVec 4) (p : BitVec 1)
  | mlda (e : BitVec 4) (b : BitVec 5) (x : BitVec 4) (k : AKind)
  | mrd (o : BitVec 1) (e : BitVec 4) (b : BitVec 5) (x : BitVec 4) (t : Ty) (r : Rnd)
  | mrds (o : BitVec 1) (e : BitVec 4) (b : BitVec 5) (x : BitVec 4) (t : Ty) (r : Rnd)
  | sbdef (e : BitVec 4) (a : BitVec 5) (b : BitVec 5)
  | stdef (e : BitVec 3) (a : BitVec 5) (b : BitVec 5)
  | stdim (e : BitVec 3) (a : BitVec 5) (b : BitVec 5)
  | stpos (e : BitVec 3) (a : BitVec 5)
  | strst (e : BitVec 3)
  | copy (s : BitVec 5) (d : BitVec 5) (a : BitVec 5) (b : BitVec 5)
  | copym (s : BitVec 5) (d : BitVec 4) (a : BitVec 5) (b : BitVec 5)
  | cqnt (s : BitVec 5) (d : BitVec 5) (a : BitVec 5) (b : BitVec 5)
  | cexp (s : BitVec 5) (d : BitVec 5) (a : BitVec 5) (b : BitVec 5)
  | ccvt (s : BitVec 5) (d : BitVec 5) (a : BitVec 5) (b : BitVec 5)
  | cfill (d : BitVec 5) (a : BitVec 5) (b : BitVec 5)
  | rld (a : BitVec 5) (b : BitVec 5) (c : BitVec 5) (s : Scope)
  | rst (a : BitVec 5) (b : BitVec 5) (c : BitVec 5) (s : Scope)
  | ramo (a : BitVec 5) (b : BitVec 5) (c : BitVec 5) (s : Scope) (f : BitVec 3)
  | rfence (s : Scope)
  | lcnt (a : BitVec 5)
  | leaseAsk (a : BitVec 5) (b : BitVec 5) (c : BitVec 5)
  | leaseGive (a : BitVec 5) (b : BitVec 5)
  | leaseStat (a : BitVec 5) (b : BitVec 5)
  | fctl (a : BitVec 5) (b : BitVec 5)
  | fstat (a : BitVec 5) (b : BitVec 5)
  | dep (g : Guard) (x : BitVec 7) (y : BitVec 7) (z : BitVec 7)
  | vwinWrite (v : Word)
  | srseedWrite (v : Word)
  | rmodeWrite (v : Word)
  | leaseqRead (d : BitVec 5)
  | registerWrite (r : MReg) (v : Word)
  | sequencerResultLanding (tile task k : Nat)
  | engineQueueHeadIssue (tile : Nat) (e : Eng) (budget : Nat)
  | engineFaultDelivery (tile : Nat)
  | arrayRowExit (tile : Nat)
  | planeLoadComplete (tile plane : Nat)
  | streamBufferFire (tile : Nat) (e : Eng) (k : Nat)
  | copyPieceLand (tile : Nat)
  | copyCounterAdd (tile : Nat)
  | copymFollowOnFill (tile : Nat)
  | remoteRequestArrival (k : Nat)
  | remoteResponseLanding (k : Nat) (ans : PeerAns)
  | writeAckLanding (k : Nat) (ans : PeerAns)
  | rstCounterMessage (k : Nat)
  | crossPackageRequest (q : PeerReq)
  | sendArrival (k : Nat)
  | dqstealArrival (k : Nat)
  | waitcWake (loc : Nat)
  | flitOutOfRectangle (tile ctx : Nat)
  | parcelOffer (o : Offer)
  | parcelLastByteLands (o : Offer) (bytes : List PByte)
  | parcelAcknowledgement (o : Offer)
  | hostSubmissionIntake (ctx queue : Nat)
  | castOn (part : Nat)
  | stitchDispatch (part : Nat)
  | stitchStart (tile : Nat)
  | nodeComplete (part slot node : Nat)
  | graphComplete (part slot : Nat)
  | widthChange (part slot : Nat)
  | nodeWatchdogExpiry (part slot node : Nat)
  | sliceEnd (part : Nat)
  | bindOffTokenHop (part : Nat)
  | tileSwitch (tile : Nat)
  | graceExpiry (part : Nat)
  | contextResume (ctx : Nat)
  | hangWatchdogExpiry (ctx : Nat)
  | lateFlagRaise (ctx tile task : Nat) (f : BitVec 8)
  | partitionCreate (num : Nat) (v : Word)
  | partitionResize (num : Nat) (v : Word)
  | partitionDelete (num : Nat)
  | widthCapWrite (num cap : Nat)
  | vfEnable (n : Nat)
  | contextBind (n : Nat) (rec : CtxRec)
  | contextUnbind (n : Nat)
  | scheduleEntryWrite (num idx : Nat) (v : BitVec 32)
  | shootdownRequest (ctx lo hi : Nat)
  | forcedPreemptRequest (ctx : Nat)
  | contextRemoveRequest (ctx : Nat)
  | functionLevelReset (n : Nat)
  | submissionDoorbellWrite (n q : Nat) (prod : BitVec 32)
  | consumerDoorbellWrite (n : Nat) (events : Bool) (cons : BitVec 32)
  | queueConfigWrite (n q : Nat) (isBase : Bool) (v : Word)
  | msixTestWrite (n vec : Nat)
  | attestationRequest (nonce : BitVec 512)
  | supervisorImageInstall (num slot : Nat) (image sig : List Byte)
  | keySlotInstall (slot : Nat) (key sig : List Byte)
  | keySlotRevoke (slot : Nat)
  | regionVerifyDone (v : VerifyEnd)
  | regionQuiesced (region : Nat)
  | regionProgramDone (region : Nat)
  | portBindingApply (region port : Nat)
  | sidebandDelivery (region port : Nat)
  | podBringUp (id : BitVec 8) (members : List Nat)
  | revokeCycle (offers : List FarOffer) (dark : CycleLosses)
  | laneRetuneDone (peer : Nat) (r : RetuneEnd)
  | lossOfLight (peer : Nat) (l : LossSeen)
  | elsFailure (e : ModuleLoss)
  | farEndLossReport (peer : Nat) (l : LossSeen)
  | elsRelit (e : ModuleLit)
  | flitReceive (peer : Nat) (seq : BitVec 24) (crcOk : Bool) (l : FlitLine)
  | linkAckTimer (peer : Nat)
  | linkAckReceive (peer : Nat) (ack : LinkAck)
  | replayTimeout (peer : Nat)
  | peerTimeout (ctx peer : Nat)
  | ethFrameReceive (port : Nat) (frame : EthFrame)
  | glueClassifyAnswer (port flow : Nat)
  | glueClassifyTimeout (port : Nat)
  | pauseRenewal (port flow : Nat)
  | glueWrite (port : Nat) (v : Word)
  | clkplanWrite (v : Word)
  | clockGlideStep
  | spurListWrite (n : Nat) (v : Word)
  | thermcfgWrite (v : Word)
  | powerWindow (watts : Nat)
  | qosRefill (port : Nat)
  | weightRefreshWindow (phase : Nat)
  | thermalWarn (temp sensor : Nat)
  | thermalThrottle (temp sensor : Nat)
  | throttleClear
  | thermalHalt (temp sensor : Nat)
  | thermalHaltClear
  | thermalCut (temp sensor : Nat)
  | droopDetect (block : Nat)
  | droopStretchEnd (block : Nat)
  | blockIdle (block : Nat)
  | blockHoldExpiry (block : Nat)
  | blockWakeRequest (block : Nat)
  | blockWakeGrant
  | blockWakeComplete (block : Nat)
  | eccCorrection (loc : Nat) (uncorrectable : Bool)
  | hbmRowRepair (row : Nat)
  | l2TagParityError (slice way : Nat)
  | powerUp (fw : Firmware)
  | frameCrossing (region port : Nat) (beat : Beat)
  | parcelOfferAnswer (o : Offer) (status : Nat)
  | forcedSaveDone (ctx : Nat)
  | vfDisable (n : Nat)
  | thermWarnClear
  | supplyFault
  deriving DecidableEq, Repr

/-- The engine a word is pushed to, if it is an engine word (R72). -/
def Instr.engine? : Instr → Option Eng
  | .vadd .. | .vsub .. | .vmul .. | .vmad .. | .vmsb .. | .vabs .. => some .v
  | .vneg .. | .vmin .. | .vmax .. | .vadds .. | .vsubs .. | .vmulhi .. => some .v
  | .vand .. | .vor .. | .vxor .. | .vnot .. | .vshl .. | .vshr .. => some .v
  | .vsar .. | .vclz .. | .vpopc .. | .vcmp .. | .vcvt .. | .vrcp .. => some .v
  | .vrsq .. | .vsqrt .. | .vexp2 .. | .vlog2 .. | .vtanh .. | .vsin .. => some .v
  | .vcos .. | .vredadd .. | .vredmax .. | .vredmin .. | .vredor .. | .vredand .. => some .v
  | .vscan .. | .vperm .. | .vbcast .. | .viota .. | .vslide .. | .vsel .. => some .v
  | .vmovs .. | .vext .. | .vcmul .. | .vconj .. | .mand .. | .mor .. => some .v
  | .mxor .. | .mnot .. | .mpop .. | .vany .. | .vall .. | .vld .. => some .v
  | .vlds .. | .vgath .. | .vst .. | .vsts .. | .vscat .. | .vamoAdd .. => some .v
  | .vamoOr .. | .vamoAnd .. | .vamoXor .. | .vamoMin .. | .vamoMax .. | .vpop .. => some .v
  | .vpush .. | .vpeek .. => some .v
  | .mldw .. | .mswp .. | .mtag .. | .mmul .. | .mmulz .. | .mrel .. => some .m
  | .mzero .. | .mstat .. | .mlda .. | .mrd .. | .mrds .. => some .m
  | .sbdef .. | .stdef .. | .stdim .. | .stpos .. | .strst .. | .copy .. => some .c
  | .copym .. | .cqnt .. | .cexp .. | .ccvt .. | .cfill .. => some .c
  | .post .. | .rld .. | .rst .. | .ramo .. | .rfence .. | .lcnt .. => some .l
  | .leaseAsk .. | .leaseGive .. | .leaseStat .. | .fctl .. | .fstat .. => some .l
  | _ => none

/-- The events of the opcode table, which no word encodes. -/
def Instr.isEvent : Instr → Bool
  | .vwinWrite .. | .srseedWrite .. | .rmodeWrite .. | .leaseqRead .. | .registerWrite .. | .sequencerResultLanding .. => true
  | .engineQueueHeadIssue .. | .engineFaultDelivery .. | .arrayRowExit .. | .planeLoadComplete .. | .streamBufferFire .. | .copyPieceLand .. => true
  | .copyCounterAdd .. | .copymFollowOnFill .. | .remoteRequestArrival .. | .remoteResponseLanding .. | .writeAckLanding .. | .rstCounterMessage .. => true
  | .crossPackageRequest .. | .sendArrival .. | .dqstealArrival .. | .waitcWake .. | .flitOutOfRectangle .. | .parcelOffer .. => true
  | .parcelLastByteLands .. | .parcelAcknowledgement .. | .hostSubmissionIntake .. | .castOn .. | .stitchDispatch .. | .stitchStart .. => true
  | .nodeComplete .. | .graphComplete .. | .widthChange .. | .nodeWatchdogExpiry .. | .sliceEnd .. | .bindOffTokenHop .. => true
  | .tileSwitch .. | .graceExpiry .. | .contextResume .. | .hangWatchdogExpiry .. | .lateFlagRaise .. | .partitionCreate .. => true
  | .partitionResize .. | .partitionDelete .. | .widthCapWrite .. | .vfEnable .. | .contextBind .. | .contextUnbind .. => true
  | .scheduleEntryWrite .. | .shootdownRequest .. | .forcedPreemptRequest .. | .contextRemoveRequest .. | .functionLevelReset .. | .submissionDoorbellWrite .. => true
  | .consumerDoorbellWrite .. | .queueConfigWrite .. | .msixTestWrite .. | .attestationRequest .. | .supervisorImageInstall .. | .keySlotInstall .. => true
  | .keySlotRevoke .. | .regionVerifyDone .. | .regionQuiesced .. | .regionProgramDone .. | .portBindingApply .. | .sidebandDelivery .. => true
  | .podBringUp .. | .revokeCycle .. | .laneRetuneDone .. | .lossOfLight .. | .elsFailure .. | .farEndLossReport .. => true
  | .elsRelit .. | .flitReceive .. | .linkAckTimer .. | .linkAckReceive .. | .replayTimeout .. | .peerTimeout .. => true
  | .ethFrameReceive .. | .glueClassifyAnswer .. | .glueClassifyTimeout .. | .pauseRenewal .. | .glueWrite .. | .clkplanWrite .. => true
  | .clockGlideStep .. | .spurListWrite .. | .thermcfgWrite .. | .powerWindow .. | .qosRefill .. | .weightRefreshWindow .. => true
  | .thermalWarn .. | .thermalThrottle .. | .throttleClear .. | .thermalHalt .. | .thermalHaltClear .. | .thermalCut .. => true
  | .droopDetect .. | .droopStretchEnd .. | .blockIdle .. | .blockHoldExpiry .. | .blockWakeRequest .. | .blockWakeGrant .. => true
  | .blockWakeComplete .. | .eccCorrection .. | .hbmRowRepair .. | .l2TagParityError .. | .powerUp .. | .frameCrossing .. => true
  | .parcelOfferAnswer .. | .forcedSaveDone .. | .vfDisable .. | .thermWarnClear .. | .supplyFault .. => true
  | _ => false

/-- The branch-class words of R76. -/
def Instr.branchClass : Instr → Bool
  | .br .. | .brl .. | .trap .. | .rte .. | .exit .. | .texit .. | .halt .. => true
  | _ => false

end Sys2Proof
end

