-- ==== Sys2Proof/WellFormed.lean ====
section
/-! DEFINITION. WellFormed.lean: which instructions exist (R43, R53, R68, R70, R71, R79 and the entries' own corner
tables). A word whose fields make an instruction that is not well formed is not an instruction. -/

namespace Sys2Proof

/-- INT of R168. -/
def Ty.isInt : Ty → Bool
  | .i8 | .ui8 | .i16 | .ui16 | .i32 | .ui32 => true
  | _ => false

/-- FLT of R168. -/
def Ty.isFlt : Ty → Bool
  | .f32 | .bf16 | .f16 => true
  | _ => false

/-- CPX of R168. -/
def Ty.isCpx : Ty → Bool
  | .ci4 | .ci8 | .ci16 => true
  | _ => false

/-- Bits per element (R43). -/
def Ty.ew : Ty → Nat
  | .i4 | .cb4 => 4
  | .i8 | .ui8 | .e4m3 | .e5m2 | .ci4 => 8
  | .i16 | .ui16 | .bf16 | .f16 | .ci8 => 16
  | .i32 | .ui32 | .f32 | .ci16 => 32

/-- Elements of a vector register (R161). -/
def Ty.count (t : Ty) : Nat := 4096 / t.ew

/-- The weight formats of R192. -/
def Ty.isWeight : Ty → Bool
  | .e4m3 | .e5m2 | .bf16 | .f16 | .cb4 | .i8 | .ui8 | .i4 | .ci8 | .ci4 => true
  | _ => false

/-- The activation types of R192. -/
def Ty.isActivation : Ty → Bool
  | .e4m3 | .e5m2 | .bf16 | .f16 | .i8 | .ui8 | .i4 | .ci8 | .ci4 => true
  | _ => false

/-- The guard encoding gn = 1, gp = 0 is illegal (R68). -/
def Guard.wf (g : Guard) : Bool := !(g.n && g.p == 0)

/-- The special-register numbers that R81 and R104 assign. -/
def sregKnown (n : Nat) : Bool :=
  n ≤ 6 || n == 0x10 || n == 0x11 || (0x20 ≤ n && n ≤ 0x24) || n == 0x30 || (0x40 ≤ n && n ≤ 0x44) ||
  (0x50 ≤ n && n ≤ 0x53) || n == 0x60 || n == 0x61 || n == 0x70 || (0x100 ≤ n && n ≤ 0x105)

/-- Special registers that are RO at every level (R81, R79). -/
def sregReadOnly (n : Nat) : Bool :=
  n ≤ 6 || n == 0x10 || n == 0x11 || n == 0x20 || n == 0x61 || n == 0x70

/-- Special registers whose USER access is none (R81, R104). -/
def sregSupervisor (n : Nat) : Bool := (0x40 ≤ n && n ≤ 0x44) || (0x100 ≤ n && n ≤ 0x105)

/-- Special registers whose USER access is RO and whose SUPERVISOR access is RW (R81). -/
def sregUserReads (n : Nat) : Bool := (0x50 ≤ n && n ≤ 0x53) || n == 0x60

/-- An endpoint code that may be a source (R214). -/
def endpointSrc (n : Nat) : Bool := n ≤ 7 || n == 10 || n == 11 || 16 ≤ n

/-- An endpoint code that may be a destination (R214). -/
def endpointDst (n : Nat) : Bool := n ≤ 9 || 16 ≤ n

/-- The types of VCVT: neither is CB4, and both or neither are complex (R171). -/
def cvtTypes (t u : Ty) : Bool := t != .cb4 && u != .cb4 && (t.isCpx == u.isCpx)

/-- VPERM's and the indexed forms' 16- and 32-bit types (R176, R180). -/
def Ty.isWide (t : Ty) : Bool := t.ew == 16 || t.ew == 32

/-- The instructions of the machine. An event is well formed as it stands. -/
def Instr.wf : Instr → Bool
  | .add g _ _ _ => g.wf
  | .sub g _ _ _ => g.wf
  | .mul g _ _ _ => g.wf
  | .mulh g _ _ _ => g.wf
  | .mulhu g _ _ _ => g.wf
  | .div g _ _ _ => g.wf
  | .divu g _ _ _ => g.wf
  | .rem g _ _ _ => g.wf
  | .remu g _ _ _ => g.wf
  | .andS g _ _ _ => g.wf
  | .orS g _ _ _ => g.wf
  | .xorS g _ _ _ => g.wf
  | .andn g _ _ _ => g.wf
  | .shl g _ _ _ => g.wf
  | .shr g _ _ _ => g.wf
  | .sar g _ _ _ => g.wf
  | .rotr g _ _ _ => g.wf
  | .minS g _ _ _ => g.wf
  | .maxS g _ _ _ => g.wf
  | .minu g _ _ _ => g.wf
  | .maxu g _ _ _ => g.wf
  | .clz g _ _ => g.wf
  | .ctz g _ _ => g.wf
  | .popc g _ _ => g.wf
  | .sextb g _ _ => g.wf
  | .sexth g _ _ => g.wf
  | .sextw g _ _ => g.wf
  | .zextb g _ _ => g.wf
  | .zexth g _ _ => g.wf
  | .zextw g _ _ => g.wf
  | .sel g _ _ _ => g.wf
  | .addi g _ _ _ => g.wf
  | .andi g _ _ _ => g.wf
  | .ori g _ _ _ => g.wf
  | .xori g _ _ _ => g.wf
  | .shli g _ _ _ => g.wf
  | .shri g _ _ _ => g.wf
  | .sari g _ _ _ => g.wf
  | .rotri g _ _ _ => g.wf
  | .cmp g q _ _ _ => g.wf && q != 0
  | .cmpi g q _ _ _ => g.wf && q != 0
  | .pand g q _ _ => g.wf && q != 0
  | .por g q _ _ => g.wf && q != 0
  | .pxor g q _ _ => g.wf && q != 0
  | .pandn g q _ _ => g.wf && q != 0
  | .pnot g q _ => g.wf && q != 0
  | .pmov g q _ => g.wf && q != 0
  | .pset g q => g.wf && q != 0
  | .br g _ => g.wf
  | .brl g _ => g.wf
  | .pbrr g _ _ => g.wf
  | .nop g => g.wf
  | .mfs g _ s => g.wf && sregKnown s.toNat
  | .mts g _ s => g.wf && sregKnown s.toNat && !sregReadOnly s.toNat
  | .trap g _ => g.wf
  | .rte g => g.wf
  | .yield g => g.wf
  | .tfence g => g.wf
  | .drain g => g.wf
  | .twait g d _ => g.wf && d != 0
  | .cvta g _ _ b => g.wf && b != .global
  | .isin g _ _ _ => g.wf
  | .halt g => g.wf
  | .rgnLoad g _ _ _ => g.wf
  | .rgnStat g _ _ => g.wf
  | .rgnBind g _ _ _ => g.wf
  | .ldb g _ _ _ => g.wf
  | .ldh g _ _ _ => g.wf
  | .ldw g _ _ _ => g.wf
  | .ldd g _ _ _ => g.wf
  | .ldbu g _ _ _ => g.wf
  | .ldhu g _ _ _ => g.wf
  | .ldwu g _ _ _ => g.wf
  | .stb g _ _ _ => g.wf
  | .sth g _ _ _ => g.wf
  | .stw g _ _ _ => g.wf
  | .std g _ _ _ => g.wf
  | .ldaW g _ _ _ => g.wf
  | .ldaD g _ _ _ => g.wf
  | .strW g _ _ _ => g.wf
  | .strD g _ _ _ => g.wf
  | .fence g _ _ => g.wf
  | .sbar g _ => g.wf
  | .waitc g _ _ _ => g.wf
  | .tspawn g _ _ _ => g.wf
  | .texit g => g.wf
  | .exit g => g.wf
  | .recv g _ _ => g.wf
  | .send g _ _ _ => g.wf
  | .launch g _ _ => g.wf
  | .bind g _ _ => g.wf
  | .dqpush g _ _ => g.wf
  | .dqpop g _ => g.wf
  | .dqsteal g _ _ => g.wf
  | .dqlen g _ => g.wf
  | .pld g _ _ _ _ => g.wf
  | .pst g _ _ _ _ => g.wf
  | .pldr g _ _ _ => g.wf
  | .pstr g _ _ _ => g.wf
  | .pnew g _ _ => g.wf
  | .pfree g _ => g.wf
  | .plen g _ _ => g.wf
  | .pstat g _ _ => g.wf
  | .pmap g _ _ => g.wf
  | .punmap g _ => g.wf
  | .precv g _ => g.wf
  | .vadd _ _ _ _ t => (t.isInt || t.isFlt || t.isCpx)
  | .vsub _ _ _ _ t => (t.isInt || t.isFlt || t.isCpx)
  | .vmul _ _ _ _ t => (t.isInt || t.isFlt)
  | .vmad _ _ _ _ t => (t.isInt || t.isFlt)
  | .vmsb _ _ _ _ t => (t.isInt || t.isFlt)
  | .vabs _ _ _ t => (t.isInt || t.isFlt)
  | .vneg _ _ _ t => (t.isInt || t.isFlt || t.isCpx)
  | .vmin _ _ _ _ t => (t.isInt || t.isFlt)
  | .vmax _ _ _ _ t => (t.isInt || t.isFlt)
  | .vadds _ _ _ _ t => (t.isInt || t.isCpx)
  | .vsubs _ _ _ _ t => (t.isInt || t.isCpx)
  | .vmulhi _ _ _ _ t => (t.isInt)
  | .vand _ _ _ _ t => t.isInt
  | .vor _ _ _ _ t => t.isInt
  | .vxor _ _ _ _ t => t.isInt
  | .vnot _ _ _ t => t.isInt
  | .vshl _ _ _ _ t => t.isInt
  | .vshr _ _ _ _ t => t.isInt
  | .vsar _ _ _ _ t => t.isInt
  | .vclz _ _ _ t => t.isInt
  | .vpopc _ _ _ t => t.isInt
  | .vcmp _ _ _ _ c t => (t.isInt || t.isFlt || (t.isCpx && (c == .eq || c == .ne)))
  | .vcvt _ _ u _ _ _ t => cvtTypes t u
  | .vrcp _ _ _ t => t.isFlt
  | .vrsq _ _ _ t => t.isFlt
  | .vsqrt _ _ _ t => t.isFlt
  | .vexp2 _ _ _ t => t.isFlt
  | .vlog2 _ _ _ t => t.isFlt
  | .vtanh _ _ _ t => t.isFlt
  | .vsin _ _ _ t => t.isFlt
  | .vcos _ _ _ t => t.isFlt
  | .vredadd _ _ _ t => (t.isInt || t.isFlt || t.isCpx)
  | .vredmax _ _ _ t => (t.isInt || t.isFlt)
  | .vredmin _ _ _ t => (t.isInt || t.isFlt)
  | .vredor _ _ _ t => (t.isInt)
  | .vredand _ _ _ t => (t.isInt)
  | .vscan _ _ _ t => (t.isInt || t.isFlt || t.isCpx)
  | .vperm _ _ _ _ t => t.isWide
  | .vbcast _ _ _ t => t != .cb4
  | .viota _ _ t => t.isInt
  | .vslide _ _ _ _ t => t != .cb4
  | .vsel _ _ _ _ t => t != .cb4
  | .vmovs _ _ _ t => t != .cb4
  | .vext _ _ _ t => t != .cb4
  | .vcmul _ _ _ _ t => t.isCpx
  | .vconj _ _ _ t => t.isCpx
  | .mand _ _ _ t => t != .cb4
  | .mor _ _ _ t => t != .cb4
  | .mxor _ _ _ t => t != .cb4
  | .mnot _ _ t => t != .cb4
  | .mpop _ _ _ t => t != .cb4
  | .vany d _ _ t => d != 0 && t != .cb4
  | .vall d _ _ t => d != 0 && t != .cb4
  | .vld _ _ _ t => t != .cb4
  | .vlds _ _ _ _ t => t != .cb4 && t != .i4
  | .vgath v _ x _ t => t.isWide && v != x
  | .vst _ _ _ t => t != .cb4
  | .vsts _ _ _ _ t => t != .cb4 && t != .i4
  | .vscat _ _ _ _ t => t.isWide
  | .mldw _ t y _ => t.isWeight && (t != .cb4 || y == 7 || y == 15)
  | .mmul _ _ _ t r _ => t.isActivation && ((t.isFlt || t == .e4m3 || t == .e5m2) || r == 0)
  | .mmulz _ _ _ t r _ => t.isActivation && ((t.isFlt || t == .e4m3 || t == .e5m2) || r == 0)
  | .mstat _ x p => (p == 0 || x.toNat ≤ 1)
  | .mrd _ _ _ _ t _ => t != .cb4
  | .mrds _ _ _ _ t _ => t != .cb4
  | .copy s d _ _ => endpointSrc s.toNat && endpointDst d.toNat
  | .copym s _ _ _ => endpointSrc s.toNat
  | .cqnt s d _ _ => endpointSrc s.toNat && endpointDst d.toNat && s != 10 && s != 11
  | .cexp s d _ _ => endpointSrc s.toNat && endpointDst d.toNat
  | .ccvt s d _ _ => endpointSrc s.toNat && endpointDst d.toNat
  | .cfill d _ _ => endpointDst d.toNat
  | .dep g _ _ _ => g.wf
  | _ => true

end Sys2Proof
end

