-- ==== Sys2Proof/Decode.lean ====
section
/-! DEFINITION. Decode.lean: from a 32-bit word to an instruction (R66, R69-R73, R79), total on any word, and after it the
encoder written from the same tables. Fields are read here once. -/

namespace Sys2Proof

/-- The field of a word that starts at bit `lo` and is `n` bits wide (R7, R69). -/
def fld (w lo n : Nat) : Nat := w / 2 ^ lo % 2 ^ n

/-- A field as a bit vector. -/
def bfld (w lo n : Nat) : BitVec n := BitVec.ofNat n (w / 2 ^ lo)

/-- The guard field: gn at bit 25, gp at bits 24-22 (R68). -/
def gfld (w : Nat) : Guard := ⟨fld w 25 1 == 1, bfld w 22 3⟩

/-- The value of a coded field (R43); a code that is not assigned has none. -/
def Ty.ofCode : Nat → Option Ty
  | 0 => some .i8
  | 1 => some .ui8
  | 2 => some .i16
  | 3 => some .ui16
  | 4 => some .i32
  | 5 => some .ui32
  | 6 => some .f32
  | 7 => some .bf16
  | 8 => some .f16
  | 9 => some .e4m3
  | 10 => some .e5m2
  | 11 => some .ci8
  | 12 => some .ci16
  | 13 => some .cb4
  | 14 => some .i4
  | 15 => some .ci4
  | _ => none

/-- The code of the value (R43). -/
def Ty.code : Ty → Nat
  | .i8 => 0
  | .ui8 => 1
  | .i16 => 2
  | .ui16 => 3
  | .i32 => 4
  | .ui32 => 5
  | .f32 => 6
  | .bf16 => 7
  | .f16 => 8
  | .e4m3 => 9
  | .e5m2 => 10
  | .ci8 => 11
  | .ci16 => 12
  | .cb4 => 13
  | .i4 => 14
  | .ci4 => 15

/-- The value of a coded field (R53); a code that is not assigned has none. -/
def Rnd.ofCode : Nat → Option Rnd
  | 0 => some .rne
  | 1 => some .rz
  | 2 => some .rdn
  | 3 => some .rup
  | 4 => some .rna
  | 5 => some .sr
  | _ => none

/-- The code of the value (R53). -/
def Rnd.code : Rnd → Nat
  | .rne => 0
  | .rz => 1
  | .rdn => 2
  | .rup => 3
  | .rna => 4
  | .sr => 5

/-- The value of a coded field (R70); a code that is not assigned has none. -/
def SCond.ofCode : Nat → Option SCond
  | 0 => some .eq
  | 1 => some .ne
  | 2 => some .lt
  | 3 => some .ge
  | 4 => some .ltu
  | 5 => some .geu
  | _ => none

/-- The code of the value (R70). -/
def SCond.code : SCond → Nat
  | .eq => 0
  | .ne => 1
  | .lt => 2
  | .ge => 3
  | .ltu => 4
  | .geu => 5

/-- The value of a coded field (R70); a code that is not assigned has none. -/
def VCond.ofCode : Nat → Option VCond
  | 0 => some .eq
  | 1 => some .ne
  | 2 => some .lt
  | 3 => some .le
  | 4 => some .gt
  | 5 => some .ge
  | _ => none

/-- The code of the value (R70). -/
def VCond.code : VCond → Nat
  | .eq => 0
  | .ne => 1
  | .lt => 2
  | .le => 3
  | .gt => 4
  | .ge => 5

/-- The value of a coded field (R70); a code that is not assigned has none. -/
def Scope.ofCode : Nat → Option Scope
  | 0 => some .task
  | 1 => some .tile
  | 2 => some .block
  | 3 => some .die
  | 4 => some .package
  | 5 => some .pod
  | 6 => some .system
  | _ => none

/-- The code of the value (R70). -/
def Scope.code : Scope → Nat
  | .task => 0
  | .tile => 1
  | .block => 2
  | .die => 3
  | .package => 4
  | .pod => 5
  | .system => 6

/-- The value of a coded field (R70); a code that is not assigned has none. -/
def Order.ofCode : Nat → Option Order
  | 0 => some .relaxed
  | 1 => some .acquire
  | 2 => some .release
  | 3 => some .acqRel
  | _ => none

/-- The code of the value (R70). -/
def Order.code : Order → Nat
  | .relaxed => 0
  | .acquire => 1
  | .release => 2
  | .acqRel => 3

/-- The value of a coded field (R70); a code that is not assigned has none. -/
def FKind.ofCode : Nat → Option FKind
  | 0 => some .acq
  | 1 => some .rel
  | 2 => some .acqRel
  | 3 => some .sc
  | _ => none

/-- The code of the value (R70). -/
def FKind.code : FKind → Nat
  | .acq => 0
  | .rel => 1
  | .acqRel => 2
  | .sc => 3

/-- The value of a coded field (R70); a code that is not assigned has none. -/
def Size.ofCode : Nat → Option Size
  | 0 => some .b8
  | 1 => some .h16
  | 2 => some .w32
  | 3 => some .d64
  | _ => none

/-- The code of the value (R70). -/
def Size.code : Size → Nat
  | .b8 => 0
  | .h16 => 1
  | .w32 => 2
  | .d64 => 3

/-- The value of a coded field (R70); a code that is not assigned has none. -/
def Wd.ofCode : Nat → Option Wd
  | 0 => some .w32
  | 1 => some .d64
  | _ => none

/-- The code of the value (R70). -/
def Wd.code : Wd → Nat
  | .w32 => 0
  | .d64 => 1

/-- The value of a coded field (R206); a code that is not assigned has none. -/
def AKind.ofCode : Nat → Option AKind
  | 0 => some .f32
  | 1 => some .i32
  | 2 => some .cpx
  | _ => none

/-- The code of the value (R206). -/
def AKind.code : AKind → Nat
  | .f32 => 0
  | .i32 => 1
  | .cpx => 2

/-- The value of a coded field (R70); a code that is not assigned has none. -/
def Eng.ofCode : Nat → Option Eng
  | 0 => some .v
  | 1 => some .m
  | 2 => some .c
  | 3 => some .l
  | _ => none

/-- The code of the value (R70). -/
def Eng.code : Eng → Nat
  | .v => 0
  | .m => 1
  | .c => 2
  | .l => 3

/-- The value of a coded field (R112); a code that is not assigned has none. -/
def Space.ofCode : Nat → Option Space
  | 0 => some .loc
  | 1 => some .block
  | 2 => some .cluster
  | 3 => some .weight
  | 4 => some .parcel
  | 5 => some .global
  | _ => none

/-- The code of the value (R112). -/
def Space.code : Space → Nat
  | .loc => 0
  | .block => 1
  | .cluster => 2
  | .weight => 3
  | .parcel => 4
  | .global => 5

/-- Major 0x01 by its function field (R72). -/
def decode01 (w : Nat) : Option Instr :=
  match fld w 0 7 with
  | 0 => some (.add (gfld w) (bfld w 17 5) (bfld w 12 5) (bfld w 7 5))
  | 1 => some (.sub (gfld w) (bfld w 17 5) (bfld w 12 5) (bfld w 7 5))
  | 2 => some (.mul (gfld w) (bfld w 17 5) (bfld w 12 5) (bfld w 7 5))
  | 3 => some (.mulh (gfld w) (bfld w 17 5) (bfld w 12 5) (bfld w 7 5))
  | 4 => some (.mulhu (gfld w) (bfld w 17 5) (bfld w 12 5) (bfld w 7 5))
  | 5 => some (.div (gfld w) (bfld w 17 5) (bfld w 12 5) (bfld w 7 5))
  | 6 => some (.divu (gfld w) (bfld w 17 5) (bfld w 12 5) (bfld w 7 5))
  | 7 => some (.rem (gfld w) (bfld w 17 5) (bfld w 12 5) (bfld w 7 5))
  | 8 => some (.remu (gfld w) (bfld w 17 5) (bfld w 12 5) (bfld w 7 5))
  | 9 => some (.andS (gfld w) (bfld w 17 5) (bfld w 12 5) (bfld w 7 5))
  | 10 => some (.orS (gfld w) (bfld w 17 5) (bfld w 12 5) (bfld w 7 5))
  | 11 => some (.xorS (gfld w) (bfld w 17 5) (bfld w 12 5) (bfld w 7 5))
  | 12 => some (.andn (gfld w) (bfld w 17 5) (bfld w 12 5) (bfld w 7 5))
  | 13 => some (.shl (gfld w) (bfld w 17 5) (bfld w 12 5) (bfld w 7 5))
  | 14 => some (.shr (gfld w) (bfld w 17 5) (bfld w 12 5) (bfld w 7 5))
  | 15 => some (.sar (gfld w) (bfld w 17 5) (bfld w 12 5) (bfld w 7 5))
  | 16 => some (.rotr (gfld w) (bfld w 17 5) (bfld w 12 5) (bfld w 7 5))
  | 17 => some (.minS (gfld w) (bfld w 17 5) (bfld w 12 5) (bfld w 7 5))
  | 18 => some (.maxS (gfld w) (bfld w 17 5) (bfld w 12 5) (bfld w 7 5))
  | 19 => some (.minu (gfld w) (bfld w 17 5) (bfld w 12 5) (bfld w 7 5))
  | 20 => some (.maxu (gfld w) (bfld w 17 5) (bfld w 12 5) (bfld w 7 5))
  | 21 => if fld w 7 5 == 0 then some (.clz (gfld w) (bfld w 17 5) (bfld w 12 5)) else none
  | 22 => if fld w 7 5 == 0 then some (.ctz (gfld w) (bfld w 17 5) (bfld w 12 5)) else none
  | 23 => if fld w 7 5 == 0 then some (.popc (gfld w) (bfld w 17 5) (bfld w 12 5)) else none
  | 24 => if fld w 7 5 == 0 then some (.sextb (gfld w) (bfld w 17 5) (bfld w 12 5)) else none
  | 25 => if fld w 7 5 == 0 then some (.sexth (gfld w) (bfld w 17 5) (bfld w 12 5)) else none
  | 26 => if fld w 7 5 == 0 then some (.sextw (gfld w) (bfld w 17 5) (bfld w 12 5)) else none
  | 27 => if fld w 7 5 == 0 then some (.zextb (gfld w) (bfld w 17 5) (bfld w 12 5)) else none
  | 28 => if fld w 7 5 == 0 then some (.zexth (gfld w) (bfld w 17 5) (bfld w 12 5)) else none
  | 29 => if fld w 7 5 == 0 then some (.zextw (gfld w) (bfld w 17 5) (bfld w 12 5)) else none
  | 30 => some (.sel (gfld w) (bfld w 17 5) (bfld w 12 5) (bfld w 7 5))
  | _ => none

/-- Major 0x06 by its function field (R72). -/
def decode06 (w : Nat) : Option Instr :=
  match fld w 10 2 with
  | 0 => if fld w 6 4 == 0 then some (.shli (gfld w) (bfld w 17 5) (bfld w 12 5) (bfld w 0 6)) else none
  | 1 => if fld w 6 4 == 0 then some (.shri (gfld w) (bfld w 17 5) (bfld w 12 5) (bfld w 0 6)) else none
  | 2 => if fld w 6 4 == 0 then some (.sari (gfld w) (bfld w 17 5) (bfld w 12 5) (bfld w 0 6)) else none
  | 3 => if fld w 6 4 == 0 then some (.rotri (gfld w) (bfld w 17 5) (bfld w 12 5) (bfld w 0 6)) else none
  | _ => none

/-- Major 0x0B by its function field (R72). -/
def decode0B (w : Nat) : Option Instr :=
  match fld w 0 3 with
  | 0 => if fld w 3 10 == 0 then some (.pand (gfld w) (bfld w 19 3) (bfld w 16 3) (bfld w 13 3)) else none
  | 1 => if fld w 3 10 == 0 then some (.por (gfld w) (bfld w 19 3) (bfld w 16 3) (bfld w 13 3)) else none
  | 2 => if fld w 3 10 == 0 then some (.pxor (gfld w) (bfld w 19 3) (bfld w 16 3) (bfld w 13 3)) else none
  | 3 => if fld w 3 10 == 0 then some (.pandn (gfld w) (bfld w 19 3) (bfld w 16 3) (bfld w 13 3)) else none
  | 4 => if fld w 3 13 == 0 then some (.pnot (gfld w) (bfld w 19 3) (bfld w 16 3)) else none
  | 5 => if fld w 3 13 == 0 then some (.pmov (gfld w) (bfld w 19 3) (bfld w 16 3)) else none
  | 6 => if fld w 3 16 == 0 then some (.pset (gfld w) (bfld w 19 3)) else none
  | _ => none

/-- Major 0x0D by its function field (R72). -/
def decode0D (w : Nat) : Option Instr :=
  match fld w 19 1 with
  | 0 => if fld w 0 19 == 0 then some (.br (gfld w) (bfld w 20 2)) else none
  | 1 => if fld w 0 19 == 0 then some (.brl (gfld w) (bfld w 20 2)) else none
  | _ => none

/-- Major 0x0F by its function field (R72). -/
def decode0F (w : Nat) : Option Instr :=
  match fld w 0 7 with
  | 0 => if fld w 7 15 == 0 then some (.nop (gfld w)) else none
  | 1 => some (.mfs (gfld w) (bfld w 17 5) (bfld w 7 10))
  | 2 => some (.mts (gfld w) (bfld w 17 5) (bfld w 7 10))
  | 3 => if fld w 7 5 == 0 && fld w 17 5 == 0 then some (.trap (gfld w) (bfld w 12 5)) else none
  | 4 => if fld w 7 15 == 0 then some (.rte (gfld w)) else none
  | 5 => if fld w 7 15 == 0 then some (.yield (gfld w)) else none
  | 6 => if fld w 7 15 == 0 then some (.tfence (gfld w)) else none
  | 7 => if fld w 7 15 == 0 then some (.drain (gfld w)) else none
  | 8 => if fld w 7 5 == 0 && fld w 14 3 == 0 then (Eng.ofCode (fld w 12 2)).map fun ev => .twait (gfld w) (bfld w 17 5) ev else none
  | 9 => (Space.ofCode (fld w 7 5)).map fun bv => .cvta (gfld w) (bfld w 17 5) (bfld w 12 5) bv
  | 10 => (Space.ofCode (fld w 7 5)).map fun bv => .isin (gfld w) (bfld w 17 5) (bfld w 12 5) bv
  | 11 => if fld w 7 15 == 0 then some (.halt (gfld w)) else none
  | _ => none

/-- Major 0x19 by its function field (R72). -/
def decode19 (w : Nat) : Option Instr :=
  match fld w 0 7 with
  | 0 => some (.rgnLoad (gfld w) (bfld w 17 5) (bfld w 12 5) (bfld w 7 5))
  | 1 => if fld w 7 5 == 0 then some (.rgnStat (gfld w) (bfld w 17 5) (bfld w 12 5)) else none
  | 2 => some (.rgnBind (gfld w) (bfld w 17 5) (bfld w 12 5) (bfld w 7 5))
  | _ => none

/-- Major 0x10 by its function field (R72). -/
def decode10 (w : Nat) : Option Instr :=
  match fld w 9 3 with
  | 0 => some (.ldb (gfld w) (bfld w 17 5) (bfld w 12 5) (bfld w 0 9))
  | 1 => some (.ldh (gfld w) (bfld w 17 5) (bfld w 12 5) (bfld w 0 9))
  | 2 => some (.ldw (gfld w) (bfld w 17 5) (bfld w 12 5) (bfld w 0 9))
  | 3 => some (.ldd (gfld w) (bfld w 17 5) (bfld w 12 5) (bfld w 0 9))
  | 4 => some (.ldbu (gfld w) (bfld w 17 5) (bfld w 12 5) (bfld w 0 9))
  | 5 => some (.ldhu (gfld w) (bfld w 17 5) (bfld w 12 5) (bfld w 0 9))
  | 6 => some (.ldwu (gfld w) (bfld w 17 5) (bfld w 12 5) (bfld w 0 9))
  | _ => none

/-- Major 0x11 by its function field (R72). -/
def decode11 (w : Nat) : Option Instr :=
  match fld w 9 3 with
  | 0 => some (.stb (gfld w) (bfld w 17 5) (bfld w 12 5) (bfld w 0 9))
  | 1 => some (.sth (gfld w) (bfld w 17 5) (bfld w 12 5) (bfld w 0 9))
  | 2 => some (.stw (gfld w) (bfld w 17 5) (bfld w 12 5) (bfld w 0 9))
  | 3 => some (.std (gfld w) (bfld w 17 5) (bfld w 12 5) (bfld w 0 9))
  | _ => none

/-- Major 0x12 by its function field (R72). -/
def decode12 (w : Nat) : Option Instr :=
  match fld w 9 3 with
  | 0 => if fld w 0 6 == 0 then (Scope.ofCode (fld w 6 3)).map fun sv => .ldaW (gfld w) (bfld w 17 5) (bfld w 12 5) sv else none
  | 1 => if fld w 0 6 == 0 then (Scope.ofCode (fld w 6 3)).map fun sv => .ldaD (gfld w) (bfld w 17 5) (bfld w 12 5) sv else none
  | 2 => if fld w 0 6 == 0 then (Scope.ofCode (fld w 6 3)).map fun sv => .strW (gfld w) (bfld w 17 5) (bfld w 12 5) sv else none
  | 3 => if fld w 0 6 == 0 then (Scope.ofCode (fld w 6 3)).map fun sv => .strD (gfld w) (bfld w 17 5) (bfld w 12 5) sv else none
  | _ => none

/-- Major 0x13 by its function field (R72). -/
def decode13 (w : Nat) : Option Instr :=
  match fld w 2 4 with
  | 0 => if fld w 0 1 == 0 then (Scope.ofCode (fld w 23 3)).bind fun sv => (Order.ofCode (fld w 21 2)).bind fun ov => (Wd.ofCode (fld w 1 1)).map fun wv => .amoAdd sv ov (bfld w 16 5) (bfld w 11 5) (bfld w 6 5) wv else none
  | 1 => if fld w 0 1 == 0 then (Scope.ofCode (fld w 23 3)).bind fun sv => (Order.ofCode (fld w 21 2)).bind fun ov => (Wd.ofCode (fld w 1 1)).map fun wv => .amoAnd sv ov (bfld w 16 5) (bfld w 11 5) (bfld w 6 5) wv else none
  | 2 => if fld w 0 1 == 0 then (Scope.ofCode (fld w 23 3)).bind fun sv => (Order.ofCode (fld w 21 2)).bind fun ov => (Wd.ofCode (fld w 1 1)).map fun wv => .amoOr sv ov (bfld w 16 5) (bfld w 11 5) (bfld w 6 5) wv else none
  | 3 => if fld w 0 1 == 0 then (Scope.ofCode (fld w 23 3)).bind fun sv => (Order.ofCode (fld w 21 2)).bind fun ov => (Wd.ofCode (fld w 1 1)).map fun wv => .amoXor sv ov (bfld w 16 5) (bfld w 11 5) (bfld w 6 5) wv else none
  | 4 => if fld w 0 1 == 0 then (Scope.ofCode (fld w 23 3)).bind fun sv => (Order.ofCode (fld w 21 2)).bind fun ov => (Wd.ofCode (fld w 1 1)).map fun wv => .amoMin sv ov (bfld w 16 5) (bfld w 11 5) (bfld w 6 5) wv else none
  | 5 => if fld w 0 1 == 0 then (Scope.ofCode (fld w 23 3)).bind fun sv => (Order.ofCode (fld w 21 2)).bind fun ov => (Wd.ofCode (fld w 1 1)).map fun wv => .amoMax sv ov (bfld w 16 5) (bfld w 11 5) (bfld w 6 5) wv else none
  | 6 => if fld w 0 1 == 0 then (Scope.ofCode (fld w 23 3)).bind fun sv => (Order.ofCode (fld w 21 2)).bind fun ov => (Wd.ofCode (fld w 1 1)).map fun wv => .amoMinu sv ov (bfld w 16 5) (bfld w 11 5) (bfld w 6 5) wv else none
  | 7 => if fld w 0 1 == 0 then (Scope.ofCode (fld w 23 3)).bind fun sv => (Order.ofCode (fld w 21 2)).bind fun ov => (Wd.ofCode (fld w 1 1)).map fun wv => .amoMaxu sv ov (bfld w 16 5) (bfld w 11 5) (bfld w 6 5) wv else none
  | 8 => if fld w 0 1 == 0 then (Scope.ofCode (fld w 23 3)).bind fun sv => (Order.ofCode (fld w 21 2)).bind fun ov => (Wd.ofCode (fld w 1 1)).map fun wv => .amoSwp sv ov (bfld w 16 5) (bfld w 11 5) (bfld w 6 5) wv else none
  | 9 => if fld w 0 1 == 0 then (Scope.ofCode (fld w 23 3)).bind fun sv => (Order.ofCode (fld w 21 2)).bind fun ov => (Wd.ofCode (fld w 1 1)).map fun wv => .amoCas sv ov (bfld w 16 5) (bfld w 11 5) (bfld w 6 5) wv else none
  | _ => none

/-- Major 0x14 by its function field (R72). -/
def decode14 (w : Nat) : Option Instr :=
  match fld w 5 2 with
  | 0 => if fld w 0 5 == 0 && fld w 7 10 == 0 then (Scope.ofCode (fld w 19 3)).bind fun sv => (FKind.ofCode (fld w 17 2)).map fun kv => .fence (gfld w) sv kv else none
  | 1 => if fld w 0 5 == 0 && fld w 7 5 == 0 && fld w 17 5 == 0 then some (.sbar (gfld w) (bfld w 12 5)) else none
  | 2 => if fld w 0 5 == 0 && fld w 17 2 == 0 then (Scope.ofCode (fld w 19 3)).map fun sv => .waitc (gfld w) sv (bfld w 12 5) (bfld w 7 5) else none
  | _ => none

/-- Major 0x15 by its function field (R72). -/
def decode15 (w : Nat) : Option Instr :=
  match fld w 0 7 with
  | 0 => some (.tspawn (gfld w) (bfld w 17 5) (bfld w 12 5) (bfld w 7 5))
  | 1 => if fld w 7 15 == 0 then some (.texit (gfld w)) else none
  | 2 => if fld w 7 15 == 0 then some (.exit (gfld w)) else none
  | 3 => if fld w 7 5 == 0 then some (.recv (gfld w) (bfld w 17 5) (bfld w 12 5)) else none
  | 4 => some (.send (gfld w) (bfld w 17 5) (bfld w 12 5) (bfld w 7 5))
  | 5 => if fld w 7 5 == 0 then some (.launch (gfld w) (bfld w 17 5) (bfld w 12 5)) else none
  | 6 => if fld w 7 5 == 0 then some (.bind (gfld w) (bfld w 17 5) (bfld w 12 5)) else none
  | _ => none

/-- Major 0x16 by its function field (R72). -/
def decode16 (w : Nat) : Option Instr :=
  match fld w 0 7 with
  | 0 => if fld w 7 5 == 0 then some (.dqpush (gfld w) (bfld w 17 5) (bfld w 12 5)) else none
  | 1 => if fld w 7 10 == 0 then some (.dqpop (gfld w) (bfld w 17 5)) else none
  | 2 => if fld w 7 5 == 0 then some (.dqsteal (gfld w) (bfld w 17 5) (bfld w 12 5)) else none
  | 3 => if fld w 7 10 == 0 then some (.dqlen (gfld w) (bfld w 17 5)) else none
  | _ => none

/-- Major 0x17 by its function field (R72). -/
def decode17 (w : Nat) : Option Instr :=
  match fld w 3 2 with
  | 0 => if fld w 0 3 == 0 then (Size.ofCode (fld w 5 2)).map fun zv => .pld (gfld w) (bfld w 17 5) (bfld w 12 5) (bfld w 7 5) zv else none
  | 1 => if fld w 0 3 == 0 then (Size.ofCode (fld w 5 2)).map fun zv => .pst (gfld w) (bfld w 17 5) (bfld w 12 5) (bfld w 7 5) zv else none
  | 2 => if fld w 0 3 == 0 && fld w 5 2 == 2 then some (.pldr (gfld w) (bfld w 17 5) (bfld w 12 5) (bfld w 7 5)) else none
  | 3 => if fld w 0 3 == 0 && fld w 5 2 == 2 then some (.pstr (gfld w) (bfld w 17 5) (bfld w 12 5) (bfld w 7 5)) else none
  | _ => none

/-- Major 0x18 by its function field (R72). -/
def decode18 (w : Nat) : Option Instr :=
  match fld w 0 7 with
  | 0 => if fld w 7 5 == 0 then some (.pnew (gfld w) (bfld w 17 5) (bfld w 12 5)) else none
  | 1 => if fld w 7 5 == 0 && fld w 17 5 == 0 then some (.pfree (gfld w) (bfld w 12 5)) else none
  | 2 => if fld w 7 5 == 0 then some (.plen (gfld w) (bfld w 17 5) (bfld w 12 5)) else none
  | 3 => if fld w 7 5 == 0 then some (.pstat (gfld w) (bfld w 17 5) (bfld w 12 5)) else none
  | 4 => if fld w 7 5 == 0 then some (.pmap (gfld w) (bfld w 17 5) (bfld w 12 5)) else none
  | 5 => if fld w 7 5 == 0 && fld w 17 5 == 0 then some (.punmap (gfld w) (bfld w 12 5)) else none
  | 6 => if fld w 22 4 == 0 then some (.post (bfld w 17 5) (bfld w 12 5) (bfld w 7 5)) else none
  | 7 => if fld w 7 10 == 0 then some (.precv (gfld w) (bfld w 17 5)) else none
  | _ => none

/-- Major 0x20 by its function field (R72). -/
def decode20 (w : Nat) : Option Instr :=
  match fld w 4 4 with
  | 0 => (Ty.ofCode (fld w 0 4)).map fun tv => .vadd (bfld w 21 5) (bfld w 16 5) (bfld w 11 5) (bfld w 8 3) tv
  | 1 => (Ty.ofCode (fld w 0 4)).map fun tv => .vsub (bfld w 21 5) (bfld w 16 5) (bfld w 11 5) (bfld w 8 3) tv
  | 2 => (Ty.ofCode (fld w 0 4)).map fun tv => .vmul (bfld w 21 5) (bfld w 16 5) (bfld w 11 5) (bfld w 8 3) tv
  | 3 => (Ty.ofCode (fld w 0 4)).map fun tv => .vmad (bfld w 21 5) (bfld w 16 5) (bfld w 11 5) (bfld w 8 3) tv
  | 4 => (Ty.ofCode (fld w 0 4)).map fun tv => .vmsb (bfld w 21 5) (bfld w 16 5) (bfld w 11 5) (bfld w 8 3) tv
  | 5 => if fld w 11 5 == 0 then (Ty.ofCode (fld w 0 4)).map fun tv => .vabs (bfld w 21 5) (bfld w 16 5) (bfld w 8 3) tv else none
  | 6 => if fld w 11 5 == 0 then (Ty.ofCode (fld w 0 4)).map fun tv => .vneg (bfld w 21 5) (bfld w 16 5) (bfld w 8 3) tv else none
  | 7 => (Ty.ofCode (fld w 0 4)).map fun tv => .vmin (bfld w 21 5) (bfld w 16 5) (bfld w 11 5) (bfld w 8 3) tv
  | 8 => (Ty.ofCode (fld w 0 4)).map fun tv => .vmax (bfld w 21 5) (bfld w 16 5) (bfld w 11 5) (bfld w 8 3) tv
  | 9 => (Ty.ofCode (fld w 0 4)).map fun tv => .vadds (bfld w 21 5) (bfld w 16 5) (bfld w 11 5) (bfld w 8 3) tv
  | 10 => (Ty.ofCode (fld w 0 4)).map fun tv => .vsubs (bfld w 21 5) (bfld w 16 5) (bfld w 11 5) (bfld w 8 3) tv
  | 11 => (Ty.ofCode (fld w 0 4)).map fun tv => .vmulhi (bfld w 21 5) (bfld w 16 5) (bfld w 11 5) (bfld w 8 3) tv
  | _ => none

/-- Major 0x21 by its function field (R72). -/
def decode21 (w : Nat) : Option Instr :=
  match fld w 4 4 with
  | 0 => (Ty.ofCode (fld w 0 4)).map fun tv => .vand (bfld w 21 5) (bfld w 16 5) (bfld w 11 5) (bfld w 8 3) tv
  | 1 => (Ty.ofCode (fld w 0 4)).map fun tv => .vor (bfld w 21 5) (bfld w 16 5) (bfld w 11 5) (bfld w 8 3) tv
  | 2 => (Ty.ofCode (fld w 0 4)).map fun tv => .vxor (bfld w 21 5) (bfld w 16 5) (bfld w 11 5) (bfld w 8 3) tv
  | 3 => if fld w 11 5 == 0 then (Ty.ofCode (fld w 0 4)).map fun tv => .vnot (bfld w 21 5) (bfld w 16 5) (bfld w 8 3) tv else none
  | 4 => (Ty.ofCode (fld w 0 4)).map fun tv => .vshl (bfld w 21 5) (bfld w 16 5) (bfld w 11 5) (bfld w 8 3) tv
  | 5 => (Ty.ofCode (fld w 0 4)).map fun tv => .vshr (bfld w 21 5) (bfld w 16 5) (bfld w 11 5) (bfld w 8 3) tv
  | 6 => (Ty.ofCode (fld w 0 4)).map fun tv => .vsar (bfld w 21 5) (bfld w 16 5) (bfld w 11 5) (bfld w 8 3) tv
  | 7 => if fld w 11 5 == 0 then (Ty.ofCode (fld w 0 4)).map fun tv => .vclz (bfld w 21 5) (bfld w 16 5) (bfld w 8 3) tv else none
  | 8 => if fld w 11 5 == 0 then (Ty.ofCode (fld w 0 4)).map fun tv => .vpopc (bfld w 21 5) (bfld w 16 5) (bfld w 8 3) tv else none
  | _ => none

/-- Major 0x24 by its function field (R72). -/
def decode24 (w : Nat) : Option Instr :=
  match fld w 4 4 with
  | 0 => if fld w 11 5 == 0 then (Ty.ofCode (fld w 0 4)).map fun tv => .vrcp (bfld w 21 5) (bfld w 16 5) (bfld w 8 3) tv else none
  | 1 => if fld w 11 5 == 0 then (Ty.ofCode (fld w 0 4)).map fun tv => .vrsq (bfld w 21 5) (bfld w 16 5) (bfld w 8 3) tv else none
  | 2 => if fld w 11 5 == 0 then (Ty.ofCode (fld w 0 4)).map fun tv => .vsqrt (bfld w 21 5) (bfld w 16 5) (bfld w 8 3) tv else none
  | 3 => if fld w 11 5 == 0 then (Ty.ofCode (fld w 0 4)).map fun tv => .vexp2 (bfld w 21 5) (bfld w 16 5) (bfld w 8 3) tv else none
  | 4 => if fld w 11 5 == 0 then (Ty.ofCode (fld w 0 4)).map fun tv => .vlog2 (bfld w 21 5) (bfld w 16 5) (bfld w 8 3) tv else none
  | 5 => if fld w 11 5 == 0 then (Ty.ofCode (fld w 0 4)).map fun tv => .vtanh (bfld w 21 5) (bfld w 16 5) (bfld w 8 3) tv else none
  | 6 => if fld w 11 5 == 0 then (Ty.ofCode (fld w 0 4)).map fun tv => .vsin (bfld w 21 5) (bfld w 16 5) (bfld w 8 3) tv else none
  | 7 => if fld w 11 5 == 0 then (Ty.ofCode (fld w 0 4)).map fun tv => .vcos (bfld w 21 5) (bfld w 16 5) (bfld w 8 3) tv else none
  | _ => none

/-- Major 0x25 by its function field (R72). -/
def decode25 (w : Nat) : Option Instr :=
  match fld w 4 4 with
  | 0 => if fld w 11 5 == 0 then (Ty.ofCode (fld w 0 4)).map fun tv => .vredadd (bfld w 21 5) (bfld w 16 5) (bfld w 8 3) tv else none
  | 1 => if fld w 11 5 == 0 then (Ty.ofCode (fld w 0 4)).map fun tv => .vredmax (bfld w 21 5) (bfld w 16 5) (bfld w 8 3) tv else none
  | 2 => if fld w 11 5 == 0 then (Ty.ofCode (fld w 0 4)).map fun tv => .vredmin (bfld w 21 5) (bfld w 16 5) (bfld w 8 3) tv else none
  | 3 => if fld w 11 5 == 0 then (Ty.ofCode (fld w 0 4)).map fun tv => .vredor (bfld w 21 5) (bfld w 16 5) (bfld w 8 3) tv else none
  | 4 => if fld w 11 5 == 0 then (Ty.ofCode (fld w 0 4)).map fun tv => .vredand (bfld w 21 5) (bfld w 16 5) (bfld w 8 3) tv else none
  | 5 => if fld w 11 5 == 0 then (Ty.ofCode (fld w 0 4)).map fun tv => .vscan (bfld w 21 5) (bfld w 16 5) (bfld w 8 3) tv else none
  | _ => none

/-- Major 0x26 by its function field (R72). -/
def decode26 (w : Nat) : Option Instr :=
  match fld w 4 4 with
  | 0 => (Ty.ofCode (fld w 0 4)).map fun tv => .vperm (bfld w 21 5) (bfld w 16 5) (bfld w 11 5) (bfld w 8 3) tv
  | 1 => if fld w 11 5 == 0 then (Ty.ofCode (fld w 0 4)).map fun tv => .vbcast (bfld w 21 5) (bfld w 16 5) (bfld w 8 3) tv else none
  | 2 => if fld w 11 10 == 0 then (Ty.ofCode (fld w 0 4)).map fun tv => .viota (bfld w 21 5) (bfld w 8 3) tv else none
  | 3 => (Ty.ofCode (fld w 0 4)).map fun tv => .vslide (bfld w 21 5) (bfld w 16 5) (bfld w 11 5) (bfld w 8 3) tv
  | 4 => (Ty.ofCode (fld w 0 4)).map fun tv => .vsel (bfld w 21 5) (bfld w 16 5) (bfld w 11 5) (bfld w 8 3) tv
  | 5 => if fld w 8 3 == 0 then (Ty.ofCode (fld w 0 4)).map fun tv => .vmovs (bfld w 21 5) (bfld w 16 5) (bfld w 11 5) tv else none
  | 6 => if fld w 8 3 == 0 then (Ty.ofCode (fld w 0 4)).map fun tv => .vext (bfld w 21 5) (bfld w 16 5) (bfld w 11 5) tv else none
  | 7 => (Ty.ofCode (fld w 0 4)).map fun tv => .vcmul (bfld w 21 5) (bfld w 16 5) (bfld w 11 5) (bfld w 8 3) tv
  | 8 => if fld w 11 5 == 0 then (Ty.ofCode (fld w 0 4)).map fun tv => .vconj (bfld w 21 5) (bfld w 16 5) (bfld w 8 3) tv else none
  | _ => none

/-- Major 0x27 by its function field (R72). -/
def decode27 (w : Nat) : Option Instr :=
  match fld w 4 4 with
  | 0 => if fld w 8 3 == 0 && fld w 14 2 == 0 && fld w 19 2 == 0 && fld w 24 2 == 0 then (Ty.ofCode (fld w 0 4)).map fun tv => .mand (bfld w 21 3) (bfld w 16 3) (bfld w 11 3) tv else none
  | 1 => if fld w 8 3 == 0 && fld w 14 2 == 0 && fld w 19 2 == 0 && fld w 24 2 == 0 then (Ty.ofCode (fld w 0 4)).map fun tv => .mor (bfld w 21 3) (bfld w 16 3) (bfld w 11 3) tv else none
  | 2 => if fld w 8 3 == 0 && fld w 14 2 == 0 && fld w 19 2 == 0 && fld w 24 2 == 0 then (Ty.ofCode (fld w 0 4)).map fun tv => .mxor (bfld w 21 3) (bfld w 16 3) (bfld w 11 3) tv else none
  | 3 => if fld w 8 8 == 0 && fld w 19 2 == 0 && fld w 24 2 == 0 then (Ty.ofCode (fld w 0 4)).map fun tv => .mnot (bfld w 21 3) (bfld w 16 3) tv else none
  | 4 => if fld w 11 5 == 0 && fld w 19 2 == 0 then (Ty.ofCode (fld w 0 4)).map fun tv => .mpop (bfld w 21 5) (bfld w 16 3) (bfld w 8 3) tv else none
  | 5 => if fld w 11 5 == 0 && fld w 19 2 == 0 && fld w 24 2 == 0 then (Ty.ofCode (fld w 0 4)).map fun tv => .vany (bfld w 21 3) (bfld w 16 3) (bfld w 8 3) tv else none
  | 6 => if fld w 11 5 == 0 && fld w 19 2 == 0 && fld w 24 2 == 0 then (Ty.ofCode (fld w 0 4)).map fun tv => .vall (bfld w 21 3) (bfld w 16 3) (bfld w 8 3) tv else none
  | _ => none

/-- Major 0x28 by its function field (R72). -/
def decode28 (w : Nat) : Option Instr :=
  match fld w 4 4 with
  | 0 => if fld w 11 5 == 0 then (Ty.ofCode (fld w 0 4)).map fun tv => .vld (bfld w 21 5) (bfld w 16 5) (bfld w 8 3) tv else none
  | 1 => (Ty.ofCode (fld w 0 4)).map fun tv => .vlds (bfld w 21 5) (bfld w 16 5) (bfld w 11 5) (bfld w 8 3) tv
  | 2 => (Ty.ofCode (fld w 0 4)).map fun tv => .vgath (bfld w 21 5) (bfld w 16 5) (bfld w 11 5) (bfld w 8 3) tv
  | _ => none

/-- Major 0x29 by its function field (R72). -/
def decode29 (w : Nat) : Option Instr :=
  match fld w 4 4 with
  | 0 => if fld w 11 5 == 0 then (Ty.ofCode (fld w 0 4)).map fun tv => .vst (bfld w 21 5) (bfld w 16 5) (bfld w 8 3) tv else none
  | 1 => (Ty.ofCode (fld w 0 4)).map fun tv => .vsts (bfld w 21 5) (bfld w 16 5) (bfld w 11 5) (bfld w 8 3) tv
  | 2 => (Ty.ofCode (fld w 0 4)).map fun tv => .vscat (bfld w 21 5) (bfld w 16 5) (bfld w 11 5) (bfld w 8 3) tv
  | _ => none

/-- Major 0x2A by its function field (R72). -/
def decode2A (w : Nat) : Option Instr :=
  match fld w 5 3 with
  | 0 => (Scope.ofCode (fld w 2 3)).bind fun sv => (Wd.ofCode (fld w 0 2)).map fun wv => .vamoAdd (bfld w 21 5) (bfld w 16 5) (bfld w 11 5) (bfld w 8 3) sv wv
  | 1 => (Scope.ofCode (fld w 2 3)).bind fun sv => (Wd.ofCode (fld w 0 2)).map fun wv => .vamoOr (bfld w 21 5) (bfld w 16 5) (bfld w 11 5) (bfld w 8 3) sv wv
  | 2 => (Scope.ofCode (fld w 2 3)).bind fun sv => (Wd.ofCode (fld w 0 2)).map fun wv => .vamoAnd (bfld w 21 5) (bfld w 16 5) (bfld w 11 5) (bfld w 8 3) sv wv
  | 3 => (Scope.ofCode (fld w 2 3)).bind fun sv => (Wd.ofCode (fld w 0 2)).map fun wv => .vamoXor (bfld w 21 5) (bfld w 16 5) (bfld w 11 5) (bfld w 8 3) sv wv
  | 4 => (Scope.ofCode (fld w 2 3)).bind fun sv => (Wd.ofCode (fld w 0 2)).map fun wv => .vamoMin (bfld w 21 5) (bfld w 16 5) (bfld w 11 5) (bfld w 8 3) sv wv
  | 5 => (Scope.ofCode (fld w 2 3)).bind fun sv => (Wd.ofCode (fld w 0 2)).map fun wv => .vamoMax (bfld w 21 5) (bfld w 16 5) (bfld w 11 5) (bfld w 8 3) sv wv
  | _ => none

/-- Major 0x2B by its function field (R72). -/
def decode2B (w : Nat) : Option Instr :=
  match fld w 4 4 with
  | 0 => if fld w 0 4 == 0 && fld w 8 9 == 0 then some (.vpop (bfld w 21 5) (bfld w 17 4)) else none
  | 1 => if fld w 0 4 == 0 && fld w 8 9 == 0 then some (.vpush (bfld w 21 5) (bfld w 17 4)) else none
  | 2 => if fld w 0 4 == 0 && fld w 8 9 == 0 then some (.vpeek (bfld w 21 5) (bfld w 17 4)) else none
  | _ => none

/-- Major 0x30 by its function field (R72). -/
def decode30 (w : Nat) : Option Instr :=
  match fld w 21 5 with
  | 0 => if fld w 1 2 == 0 && fld w 11 5 == 0 then (Ty.ofCode (fld w 7 4)).map fun tv => .mldw (bfld w 16 5) tv (bfld w 3 4) (bfld w 0 1) else none
  | 1 => if fld w 0 21 == 0 then some (.mswp) else none
  | 2 => if fld w 0 16 == 0 then some (.mtag (bfld w 16 5)) else none
  | _ => none

/-- Major 0x31 by its function field (R72). -/
def decode31 (w : Nat) : Option Instr :=
  match fld w 21 5 with
  | 0 => if fld w 20 1 == 0 then (Ty.ofCode (fld w 3 4)).map fun tv => .mmul (bfld w 16 4) (bfld w 11 5) (bfld w 7 4) tv (bfld w 1 2) (bfld w 0 1) else none
  | 1 => if fld w 20 1 == 0 then (Ty.ofCode (fld w 3 4)).map fun tv => .mmulz (bfld w 16 4) (bfld w 11 5) (bfld w 7 4) tv (bfld w 1 2) (bfld w 0 1) else none
  | _ => none

/-- Major 0x32 by its function field (R72). -/
def decode32 (w : Nat) : Option Instr :=
  match fld w 21 5 with
  | 0 => if fld w 0 7 == 0 && fld w 11 10 == 0 then some (.mrel (bfld w 7 4)) else none
  | 1 => if fld w 3 4 == 0 && fld w 11 10 == 0 then (AKind.ofCode (fld w 0 3)).map fun kv => .mzero (bfld w 7 4) kv else none
  | 2 => if fld w 1 6 == 0 && fld w 11 5 == 0 then some (.mstat (bfld w 16 5) (bfld w 7 4) (bfld w 0 1)) else none
  | 3 => if fld w 3 4 == 0 && fld w 20 1 == 0 then (AKind.ofCode (fld w 0 3)).map fun kv => .mlda (bfld w 16 4) (bfld w 11 5) (bfld w 7 4) kv else none
  | _ => none

/-- Major 0x33 by its function field (R72). -/
def decode33 (w : Nat) : Option Instr :=
  match fld w 21 5 with
  | 0 => (Ty.ofCode (fld w 3 4)).bind fun tv => (Rnd.ofCode (fld w 0 3)).map fun rv => .mrd (bfld w 20 1) (bfld w 16 4) (bfld w 11 5) (bfld w 7 4) tv rv
  | 1 => (Ty.ofCode (fld w 3 4)).bind fun tv => (Rnd.ofCode (fld w 0 3)).map fun rv => .mrds (bfld w 20 1) (bfld w 16 4) (bfld w 11 5) (bfld w 7 4) tv rv
  | _ => none

/-- Major 0x36 by its function field (R72). -/
def decode36 (w : Nat) : Option Instr :=
  match fld w 21 5 with
  | 0 => if fld w 0 1 == 0 && fld w 15 6 == 1 then some (.sbdef (bfld w 11 4) (bfld w 6 5) (bfld w 1 5)) else none
  | 1 => if fld w 0 1 == 0 && fld w 14 7 == 0 then some (.stdef (bfld w 11 3) (bfld w 6 5) (bfld w 1 5)) else none
  | 2 => if fld w 0 1 == 0 && fld w 14 7 == 0 then some (.stdim (bfld w 11 3) (bfld w 6 5) (bfld w 1 5)) else none
  | 3 => if fld w 0 6 == 0 && fld w 14 7 == 0 then some (.stpos (bfld w 11 3) (bfld w 6 5)) else none
  | 4 => if fld w 0 11 == 0 && fld w 14 7 == 0 then some (.strst (bfld w 11 3)) else none
  | _ => none

/-- Major 0x37 by its function field (R72). -/
def decode37 (w : Nat) : Option Instr :=
  match fld w 21 5 with
  | 0 => if fld w 0 1 == 0 then some (.copy (bfld w 16 5) (bfld w 11 5) (bfld w 6 5) (bfld w 1 5)) else none
  | 1 => if fld w 0 1 == 0 && fld w 15 1 == 1 then some (.copym (bfld w 16 5) (bfld w 11 4) (bfld w 6 5) (bfld w 1 5)) else none
  | _ => none

/-- Major 0x38 by its function field (R72). -/
def decode38 (w : Nat) : Option Instr :=
  match fld w 21 5 with
  | 0 => if fld w 0 1 == 0 then some (.cqnt (bfld w 16 5) (bfld w 11 5) (bfld w 6 5) (bfld w 1 5)) else none
  | 1 => if fld w 0 1 == 0 then some (.cexp (bfld w 16 5) (bfld w 11 5) (bfld w 6 5) (bfld w 1 5)) else none
  | 2 => if fld w 0 1 == 0 then some (.ccvt (bfld w 16 5) (bfld w 11 5) (bfld w 6 5) (bfld w 1 5)) else none
  | 3 => if fld w 0 1 == 0 && fld w 16 5 == 0 then some (.cfill (bfld w 11 5) (bfld w 6 5) (bfld w 1 5)) else none
  | _ => none

/-- Major 0x3A by its function field (R72). -/
def decode3A (w : Nat) : Option Instr :=
  match fld w 21 5 with
  | 0 => if fld w 0 3 == 0 then (Scope.ofCode (fld w 3 3)).map fun sv => .rld (bfld w 16 5) (bfld w 11 5) (bfld w 6 5) sv else none
  | 1 => if fld w 0 3 == 0 then (Scope.ofCode (fld w 3 3)).map fun sv => .rst (bfld w 16 5) (bfld w 11 5) (bfld w 6 5) sv else none
  | 2 => (Scope.ofCode (fld w 3 3)).map fun sv => .ramo (bfld w 16 5) (bfld w 11 5) (bfld w 6 5) sv (bfld w 0 3)
  | 3 => if fld w 0 3 == 0 && fld w 6 15 == 0 then (Scope.ofCode (fld w 3 3)).map fun sv => .rfence sv else none
  | 4 => if fld w 0 16 == 0 then some (.lcnt (bfld w 16 5)) else none
  | _ => none

/-- Major 0x3B by its function field (R72). -/
def decode3B (w : Nat) : Option Instr :=
  match fld w 21 5 with
  | 0 => if fld w 0 6 == 0 then some (.leaseAsk (bfld w 16 5) (bfld w 11 5) (bfld w 6 5)) else none
  | 1 => if fld w 0 11 == 0 then some (.leaseGive (bfld w 16 5) (bfld w 11 5)) else none
  | 2 => if fld w 0 11 == 0 then some (.leaseStat (bfld w 16 5) (bfld w 11 5)) else none
  | _ => none

/-- Major 0x3C by its function field (R72). -/
def decode3C (w : Nat) : Option Instr :=
  match fld w 21 5 with
  | 0 => if fld w 0 11 == 0 then some (.fctl (bfld w 16 5) (bfld w 11 5)) else none
  | 1 => if fld w 0 11 == 0 then some (.fstat (bfld w 16 5) (bfld w 11 5)) else none
  | _ => none

/-- The instruction of a word by its major opcode, before the checks of R70, R71 and the entries (R72). -/
def decodeRaw (w : Nat) : Option Instr :=
  match fld w 26 6 with
  | 1 => decode01 w
  | 2 => some (.addi (gfld w) (bfld w 17 5) (bfld w 12 5) (bfld w 0 12))
  | 3 => some (.andi (gfld w) (bfld w 17 5) (bfld w 12 5) (bfld w 0 12))
  | 4 => some (.ori (gfld w) (bfld w 17 5) (bfld w 12 5) (bfld w 0 12))
  | 5 => some (.xori (gfld w) (bfld w 17 5) (bfld w 12 5) (bfld w 0 12))
  | 6 => decode06 w
  | 7 => some (.lih (bfld w 21 5) (bfld w 0 21))
  | 8 => some (.apc (bfld w 21 5) (bfld w 0 21))
  | 9 => if fld w 0 4 == 0 && fld w 17 2 == 0 then (SCond.ofCode (fld w 4 3)).map fun cv => .cmp (gfld w) (bfld w 19 3) (bfld w 12 5) (bfld w 7 5) cv else none
  | 10 => (SCond.ofCode (fld w 16 3)).map fun cv => .cmpi (gfld w) (bfld w 19 3) cv (bfld w 11 5) (bfld w 0 11)
  | 11 => decode0B w
  | 12 => some (.pbr (bfld w 24 2) (bfld w 0 24))
  | 13 => decode0D w
  | 14 => if fld w 0 12 == 0 && fld w 19 3 == 0 then some (.pbrr (gfld w) (bfld w 17 2) (bfld w 12 5)) else none
  | 15 => decode0F w
  | 25 => decode19 w
  | 16 => decode10 w
  | 17 => decode11 w
  | 18 => decode12 w
  | 19 => decode13 w
  | 20 => decode14 w
  | 21 => decode15 w
  | 22 => decode16 w
  | 23 => decode17 w
  | 24 => decode18 w
  | 32 => decode20 w
  | 33 => decode21 w
  | 34 => if fld w 24 2 == 0 then (VCond.ofCode (fld w 4 4)).bind fun cv => (Ty.ofCode (fld w 0 4)).map fun tv => .vcmp (bfld w 21 3) (bfld w 16 5) (bfld w 11 5) (bfld w 8 3) cv tv else none
  | 35 => if fld w 15 1 == 0 then (Ty.ofCode (fld w 11 4)).bind fun uv => (Rnd.ofCode (fld w 4 3)).bind fun rv => (Ty.ofCode (fld w 0 4)).map fun tv => .vcvt (bfld w 21 5) (bfld w 16 5) uv (bfld w 8 3) (bfld w 7 1) rv tv else none
  | 36 => decode24 w
  | 37 => decode25 w
  | 38 => decode26 w
  | 39 => decode27 w
  | 40 => decode28 w
  | 41 => decode29 w
  | 42 => decode2A w
  | 43 => decode2B w
  | 48 => decode30 w
  | 49 => decode31 w
  | 50 => decode32 w
  | 51 => decode33 w
  | 54 => decode36 w
  | 55 => decode37 w
  | 56 => decode38 w
  | 58 => decode3A w
  | 59 => decode3B w
  | 60 => decode3C w
  | 62 => if fld w 21 1 == 0 then some (.dep (gfld w) (bfld w 14 7) (bfld w 7 7) (bfld w 0 7)) else none
  | _ => none

/-- The instruction of a 32-bit word; none for every word that R79 lists by itself (pairs are checked at issue). -/
def decode (w : Nat) : Option Instr := (decodeRaw w).filter Instr.wf

/-- A 32-bit word from four bytes, the first at the lowest address (R66). -/
def wordOfBytes (b0 b1 b2 b3 : Byte) : Nat := b0.toNat + 256 * b1.toNat + 65536 * b2.toNat + 16777216 * b3.toNat

/-- The decoder on bytes: the instruction that the first four bytes hold, with the rest; none where they hold none. -/
def decodeBytes : List Byte → Option (Instr × List Byte)
  | b0 :: b1 :: b2 :: b3 :: rest => (decode (wordOfBytes b0 b1 b2 b3)).map fun i => (i, rest)
  | _ => none

/-- The little-endian bytes of a number (R6). -/
def bytesOf : Nat → Nat → List Byte
  | 0, _ => []
  | n + 1, x => BitVec.ofNat 8 x :: bytesOf n (x / 256)

/-- The instruction that the decoder reads from bits numbered as the opcode table numbers them. Every instruction is one
word of 32 bits; the words of a unit after the first are zero. -/
def decodeTableWord (nbits w : Nat) : Option Instr :=
  if nbits ≤ 32 && w < 2 ^ nbits then (decodeBytes (bytesOf 4 w)).map fun p => p.1 else none

/-- The guard field of a word (R68). -/
def Guard.enc (g : Guard) : Nat := (if g.n then 33554432 else 0) + g.p.toNat * 4194304

/-- The word of an instruction (R69, R72); an event has none and encodes to 0. -/
def encode : Instr → Nat
  | .add g d a b => 0x04000000 + g.enc + d.toNat * 131072 + a.toNat * 4096 + b.toNat * 128
  | .sub g d a b => 0x04000001 + g.enc + d.toNat * 131072 + a.toNat * 4096 + b.toNat * 128
  | .mul g d a b => 0x04000002 + g.enc + d.toNat * 131072 + a.toNat * 4096 + b.toNat * 128
  | .mulh g d a b => 0x04000003 + g.enc + d.toNat * 131072 + a.toNat * 4096 + b.toNat * 128
  | .mulhu g d a b => 0x04000004 + g.enc + d.toNat * 131072 + a.toNat * 4096 + b.toNat * 128
  | .div g d a b => 0x04000005 + g.enc + d.toNat * 131072 + a.toNat * 4096 + b.toNat * 128
  | .divu g d a b => 0x04000006 + g.enc + d.toNat * 131072 + a.toNat * 4096 + b.toNat * 128
  | .rem g d a b => 0x04000007 + g.enc + d.toNat * 131072 + a.toNat * 4096 + b.toNat * 128
  | .remu g d a b => 0x04000008 + g.enc + d.toNat * 131072 + a.toNat * 4096 + b.toNat * 128
  | .andS g d a b => 0x04000009 + g.enc + d.toNat * 131072 + a.toNat * 4096 + b.toNat * 128
  | .orS g d a b => 0x0400000A + g.enc + d.toNat * 131072 + a.toNat * 4096 + b.toNat * 128
  | .xorS g d a b => 0x0400000B + g.enc + d.toNat * 131072 + a.toNat * 4096 + b.toNat * 128
  | .andn g d a b => 0x0400000C + g.enc + d.toNat * 131072 + a.toNat * 4096 + b.toNat * 128
  | .shl g d a b => 0x0400000D + g.enc + d.toNat * 131072 + a.toNat * 4096 + b.toNat * 128
  | .shr g d a b => 0x0400000E + g.enc + d.toNat * 131072 + a.toNat * 4096 + b.toNat * 128
  | .sar g d a b => 0x0400000F + g.enc + d.toNat * 131072 + a.toNat * 4096 + b.toNat * 128
  | .rotr g d a b => 0x04000010 + g.enc + d.toNat * 131072 + a.toNat * 4096 + b.toNat * 128
  | .minS g d a b => 0x04000011 + g.enc + d.toNat * 131072 + a.toNat * 4096 + b.toNat * 128
  | .maxS g d a b => 0x04000012 + g.enc + d.toNat * 131072 + a.toNat * 4096 + b.toNat * 128
  | .minu g d a b => 0x04000013 + g.enc + d.toNat * 131072 + a.toNat * 4096 + b.toNat * 128
  | .maxu g d a b => 0x04000014 + g.enc + d.toNat * 131072 + a.toNat * 4096 + b.toNat * 128
  | .clz g d a => 0x04000015 + g.enc + d.toNat * 131072 + a.toNat * 4096
  | .ctz g d a => 0x04000016 + g.enc + d.toNat * 131072 + a.toNat * 4096
  | .popc g d a => 0x04000017 + g.enc + d.toNat * 131072 + a.toNat * 4096
  | .sextb g d a => 0x04000018 + g.enc + d.toNat * 131072 + a.toNat * 4096
  | .sexth g d a => 0x04000019 + g.enc + d.toNat * 131072 + a.toNat * 4096
  | .sextw g d a => 0x0400001A + g.enc + d.toNat * 131072 + a.toNat * 4096
  | .zextb g d a => 0x0400001B + g.enc + d.toNat * 131072 + a.toNat * 4096
  | .zexth g d a => 0x0400001C + g.enc + d.toNat * 131072 + a.toNat * 4096
  | .zextw g d a => 0x0400001D + g.enc + d.toNat * 131072 + a.toNat * 4096
  | .sel g d a b => 0x0400001E + g.enc + d.toNat * 131072 + a.toNat * 4096 + b.toNat * 128
  | .addi g d a i => 0x08000000 + g.enc + d.toNat * 131072 + a.toNat * 4096 + i.toNat * 1
  | .andi g d a i => 0x0C000000 + g.enc + d.toNat * 131072 + a.toNat * 4096 + i.toNat * 1
  | .ori g d a i => 0x10000000 + g.enc + d.toNat * 131072 + a.toNat * 4096 + i.toNat * 1
  | .xori g d a i => 0x14000000 + g.enc + d.toNat * 131072 + a.toNat * 4096 + i.toNat * 1
  | .shli g d a m => 0x18000000 + g.enc + d.toNat * 131072 + a.toNat * 4096 + m.toNat * 1
  | .shri g d a m => 0x18000400 + g.enc + d.toNat * 131072 + a.toNat * 4096 + m.toNat * 1
  | .sari g d a m => 0x18000800 + g.enc + d.toNat * 131072 + a.toNat * 4096 + m.toNat * 1
  | .rotri g d a m => 0x18000C00 + g.enc + d.toNat * 131072 + a.toNat * 4096 + m.toNat * 1
  | .lih d i => 0x1C000000 + d.toNat * 2097152 + i.toNat * 1
  | .apc d i => 0x20000000 + d.toNat * 2097152 + i.toNat * 1
  | .cmp g q a b c => 0x24000000 + g.enc + q.toNat * 524288 + a.toNat * 4096 + b.toNat * 128 + c.code * 16
  | .cmpi g q c a i => 0x28000000 + g.enc + q.toNat * 524288 + c.code * 65536 + a.toNat * 2048 + i.toNat * 1
  | .pand g q x y => 0x2C000000 + g.enc + q.toNat * 524288 + x.toNat * 65536 + y.toNat * 8192
  | .por g q x y => 0x2C000001 + g.enc + q.toNat * 524288 + x.toNat * 65536 + y.toNat * 8192
  | .pxor g q x y => 0x2C000002 + g.enc + q.toNat * 524288 + x.toNat * 65536 + y.toNat * 8192
  | .pandn g q x y => 0x2C000003 + g.enc + q.toNat * 524288 + x.toNat * 65536 + y.toNat * 8192
  | .pnot g q x => 0x2C000004 + g.enc + q.toNat * 524288 + x.toNat * 65536
  | .pmov g q x => 0x2C000005 + g.enc + q.toNat * 524288 + x.toNat * 65536
  | .pset g q => 0x2C000006 + g.enc + q.toNat * 524288
  | .pbr t i => 0x30000000 + t.toNat * 16777216 + i.toNat * 1
  | .br g t => 0x34000000 + g.enc + t.toNat * 1048576
  | .brl g t => 0x34080000 + g.enc + t.toNat * 1048576
  | .pbrr g t a => 0x38000000 + g.enc + t.toNat * 131072 + a.toNat * 4096
  | .nop g => 0x3C000000 + g.enc
  | .mfs g d s => 0x3C000001 + g.enc + d.toNat * 131072 + s.toNat * 128
  | .mts g d s => 0x3C000002 + g.enc + d.toNat * 131072 + s.toNat * 128
  | .trap g a => 0x3C000003 + g.enc + a.toNat * 4096
  | .rte g => 0x3C000004 + g.enc
  | .yield g => 0x3C000005 + g.enc
  | .tfence g => 0x3C000006 + g.enc
  | .drain g => 0x3C000007 + g.enc
  | .twait g d e => 0x3C000008 + g.enc + d.toNat * 131072 + e.code * 4096
  | .cvta g d a b => 0x3C000009 + g.enc + d.toNat * 131072 + a.toNat * 4096 + b.code * 128
  | .isin g d a b => 0x3C00000A + g.enc + d.toNat * 131072 + a.toNat * 4096 + b.code * 128
  | .halt g => 0x3C00000B + g.enc
  | .rgnLoad g d a b => 0x64000000 + g.enc + d.toNat * 131072 + a.toNat * 4096 + b.toNat * 128
  | .rgnStat g d a => 0x64000001 + g.enc + d.toNat * 131072 + a.toNat * 4096
  | .rgnBind g d a b => 0x64000002 + g.enc + d.toNat * 131072 + a.toNat * 4096 + b.toNat * 128
  | .ldb g d a i => 0x40000000 + g.enc + d.toNat * 131072 + a.toNat * 4096 + i.toNat * 1
  | .ldh g d a i => 0x40000200 + g.enc + d.toNat * 131072 + a.toNat * 4096 + i.toNat * 1
  | .ldw g d a i => 0x40000400 + g.enc + d.toNat * 131072 + a.toNat * 4096 + i.toNat * 1
  | .ldd g d a i => 0x40000600 + g.enc + d.toNat * 131072 + a.toNat * 4096 + i.toNat * 1
  | .ldbu g d a i => 0x40000800 + g.enc + d.toNat * 131072 + a.toNat * 4096 + i.toNat * 1
  | .ldhu g d a i => 0x40000A00 + g.enc + d.toNat * 131072 + a.toNat * 4096 + i.toNat * 1
  | .ldwu g d a i => 0x40000C00 + g.enc + d.toNat * 131072 + a.toNat * 4096 + i.toNat * 1
  | .stb g d a i => 0x44000000 + g.enc + d.toNat * 131072 + a.toNat * 4096 + i.toNat * 1
  | .sth g d a i => 0x44000200 + g.enc + d.toNat * 131072 + a.toNat * 4096 + i.toNat * 1
  | .stw g d a i => 0x44000400 + g.enc + d.toNat * 131072 + a.toNat * 4096 + i.toNat * 1
  | .std g d a i => 0x44000600 + g.enc + d.toNat * 131072 + a.toNat * 4096 + i.toNat * 1
  | .ldaW g d a s => 0x48000000 + g.enc + d.toNat * 131072 + a.toNat * 4096 + s.code * 64
  | .ldaD g d a s => 0x48000200 + g.enc + d.toNat * 131072 + a.toNat * 4096 + s.code * 64
  | .strW g d a s => 0x48000400 + g.enc + d.toNat * 131072 + a.toNat * 4096 + s.code * 64
  | .strD g d a s => 0x48000600 + g.enc + d.toNat * 131072 + a.toNat * 4096 + s.code * 64
  | .amoAdd s o d a b w => 0x4C000000 + s.code * 8388608 + o.code * 2097152 + d.toNat * 65536 + a.toNat * 2048 + b.toNat * 64 + w.code * 2
  | .amoAnd s o d a b w => 0x4C000004 + s.code * 8388608 + o.code * 2097152 + d.toNat * 65536 + a.toNat * 2048 + b.toNat * 64 + w.code * 2
  | .amoOr s o d a b w => 0x4C000008 + s.code * 8388608 + o.code * 2097152 + d.toNat * 65536 + a.toNat * 2048 + b.toNat * 64 + w.code * 2
  | .amoXor s o d a b w => 0x4C00000C + s.code * 8388608 + o.code * 2097152 + d.toNat * 65536 + a.toNat * 2048 + b.toNat * 64 + w.code * 2
  | .amoMin s o d a b w => 0x4C000010 + s.code * 8388608 + o.code * 2097152 + d.toNat * 65536 + a.toNat * 2048 + b.toNat * 64 + w.code * 2
  | .amoMax s o d a b w => 0x4C000014 + s.code * 8388608 + o.code * 2097152 + d.toNat * 65536 + a.toNat * 2048 + b.toNat * 64 + w.code * 2
  | .amoMinu s o d a b w => 0x4C000018 + s.code * 8388608 + o.code * 2097152 + d.toNat * 65536 + a.toNat * 2048 + b.toNat * 64 + w.code * 2
  | .amoMaxu s o d a b w => 0x4C00001C + s.code * 8388608 + o.code * 2097152 + d.toNat * 65536 + a.toNat * 2048 + b.toNat * 64 + w.code * 2
  | .amoSwp s o d a b w => 0x4C000020 + s.code * 8388608 + o.code * 2097152 + d.toNat * 65536 + a.toNat * 2048 + b.toNat * 64 + w.code * 2
  | .amoCas s o d a b w => 0x4C000024 + s.code * 8388608 + o.code * 2097152 + d.toNat * 65536 + a.toNat * 2048 + b.toNat * 64 + w.code * 2
  | .fence g s k => 0x50000000 + g.enc + s.code * 524288 + k.code * 131072
  | .sbar g a => 0x50000020 + g.enc + a.toNat * 4096
  | .waitc g s a b => 0x50000040 + g.enc + s.code * 524288 + a.toNat * 4096 + b.toNat * 128
  | .tspawn g d a b => 0x54000000 + g.enc + d.toNat * 131072 + a.toNat * 4096 + b.toNat * 128
  | .texit g => 0x54000001 + g.enc
  | .exit g => 0x54000002 + g.enc
  | .recv g d a => 0x54000003 + g.enc + d.toNat * 131072 + a.toNat * 4096
  | .send g d a b => 0x54000004 + g.enc + d.toNat * 131072 + a.toNat * 4096 + b.toNat * 128
  | .launch g d a => 0x54000005 + g.enc + d.toNat * 131072 + a.toNat * 4096
  | .bind g d a => 0x54000006 + g.enc + d.toNat * 131072 + a.toNat * 4096
  | .dqpush g d a => 0x58000000 + g.enc + d.toNat * 131072 + a.toNat * 4096
  | .dqpop g d => 0x58000001 + g.enc + d.toNat * 131072
  | .dqsteal g d a => 0x58000002 + g.enc + d.toNat * 131072 + a.toNat * 4096
  | .dqlen g d => 0x58000003 + g.enc + d.toNat * 131072
  | .pld g d a b z => 0x5C000000 + g.enc + d.toNat * 131072 + a.toNat * 4096 + b.toNat * 128 + z.code * 32
  | .pst g d a b z => 0x5C000008 + g.enc + d.toNat * 131072 + a.toNat * 4096 + b.toNat * 128 + z.code * 32
  | .pldr g d a b => 0x5C000050 + g.enc + d.toNat * 131072 + a.toNat * 4096 + b.toNat * 128
  | .pstr g d a b => 0x5C000058 + g.enc + d.toNat * 131072 + a.toNat * 4096 + b.toNat * 128
  | .pnew g d a => 0x60000000 + g.enc + d.toNat * 131072 + a.toNat * 4096
  | .pfree g a => 0x60000001 + g.enc + a.toNat * 4096
  | .plen g d a => 0x60000002 + g.enc + d.toNat * 131072 + a.toNat * 4096
  | .pstat g d a => 0x60000003 + g.enc + d.toNat * 131072 + a.toNat * 4096
  | .pmap g d a => 0x60000004 + g.enc + d.toNat * 131072 + a.toNat * 4096
  | .punmap g a => 0x60000005 + g.enc + a.toNat * 4096
  | .post d a b => 0x60000006 + d.toNat * 131072 + a.toNat * 4096 + b.toNat * 128
  | .precv g d => 0x60000007 + g.enc + d.toNat * 131072
  | .vadd d a b m t => 0x80000000 + d.toNat * 2097152 + a.toNat * 65536 + b.toNat * 2048 + m.toNat * 256 + t.code * 1
  | .vsub d a b m t => 0x80000010 + d.toNat * 2097152 + a.toNat * 65536 + b.toNat * 2048 + m.toNat * 256 + t.code * 1
  | .vmul d a b m t => 0x80000020 + d.toNat * 2097152 + a.toNat * 65536 + b.toNat * 2048 + m.toNat * 256 + t.code * 1
  | .vmad d a b m t => 0x80000030 + d.toNat * 2097152 + a.toNat * 65536 + b.toNat * 2048 + m.toNat * 256 + t.code * 1
  | .vmsb d a b m t => 0x80000040 + d.toNat * 2097152 + a.toNat * 65536 + b.toNat * 2048 + m.toNat * 256 + t.code * 1
  | .vabs d a m t => 0x80000050 + d.toNat * 2097152 + a.toNat * 65536 + m.toNat * 256 + t.code * 1
  | .vneg d a m t => 0x80000060 + d.toNat * 2097152 + a.toNat * 65536 + m.toNat * 256 + t.code * 1
  | .vmin d a b m t => 0x80000070 + d.toNat * 2097152 + a.toNat * 65536 + b.toNat * 2048 + m.toNat * 256 + t.code * 1
  | .vmax d a b m t => 0x80000080 + d.toNat * 2097152 + a.toNat * 65536 + b.toNat * 2048 + m.toNat * 256 + t.code * 1
  | .vadds d a b m t => 0x80000090 + d.toNat * 2097152 + a.toNat * 65536 + b.toNat * 2048 + m.toNat * 256 + t.code * 1
  | .vsubs d a b m t => 0x800000A0 + d.toNat * 2097152 + a.toNat * 65536 + b.toNat * 2048 + m.toNat * 256 + t.code * 1
  | .vmulhi d a b m t => 0x800000B0 + d.toNat * 2097152 + a.toNat * 65536 + b.toNat * 2048 + m.toNat * 256 + t.code * 1
  | .vand d a b m t => 0x84000000 + d.toNat * 2097152 + a.toNat * 65536 + b.toNat * 2048 + m.toNat * 256 + t.code * 1
  | .vor d a b m t => 0x84000010 + d.toNat * 2097152 + a.toNat * 65536 + b.toNat * 2048 + m.toNat * 256 + t.code * 1
  | .vxor d a b m t => 0x84000020 + d.toNat * 2097152 + a.toNat * 65536 + b.toNat * 2048 + m.toNat * 256 + t.code * 1
  | .vnot d a m t => 0x84000030 + d.toNat * 2097152 + a.toNat * 65536 + m.toNat * 256 + t.code * 1
  | .vshl d a b m t => 0x84000040 + d.toNat * 2097152 + a.toNat * 65536 + b.toNat * 2048 + m.toNat * 256 + t.code * 1
  | .vshr d a b m t => 0x84000050 + d.toNat * 2097152 + a.toNat * 65536 + b.toNat * 2048 + m.toNat * 256 + t.code * 1
  | .vsar d a b m t => 0x84000060 + d.toNat * 2097152 + a.toNat * 65536 + b.toNat * 2048 + m.toNat * 256 + t.code * 1
  | .vclz d a m t => 0x84000070 + d.toNat * 2097152 + a.toNat * 65536 + m.toNat * 256 + t.code * 1
  | .vpopc d a m t => 0x84000080 + d.toNat * 2097152 + a.toNat * 65536 + m.toNat * 256 + t.code * 1
  | .vcmp d a b m c t => 0x88000000 + d.toNat * 2097152 + a.toNat * 65536 + b.toNat * 2048 + m.toNat * 256 + c.code * 16 + t.code * 1
  | .vcvt d a u m s r t => 0x8C000000 + d.toNat * 2097152 + a.toNat * 65536 + u.code * 2048 + m.toNat * 256 + s.toNat * 128 + r.code * 16 + t.code * 1
  | .vrcp d a m t => 0x90000000 + d.toNat * 2097152 + a.toNat * 65536 + m.toNat * 256 + t.code * 1
  | .vrsq d a m t => 0x90000010 + d.toNat * 2097152 + a.toNat * 65536 + m.toNat * 256 + t.code * 1
  | .vsqrt d a m t => 0x90000020 + d.toNat * 2097152 + a.toNat * 65536 + m.toNat * 256 + t.code * 1
  | .vexp2 d a m t => 0x90000030 + d.toNat * 2097152 + a.toNat * 65536 + m.toNat * 256 + t.code * 1
  | .vlog2 d a m t => 0x90000040 + d.toNat * 2097152 + a.toNat * 65536 + m.toNat * 256 + t.code * 1
  | .vtanh d a m t => 0x90000050 + d.toNat * 2097152 + a.toNat * 65536 + m.toNat * 256 + t.code * 1
  | .vsin d a m t => 0x90000060 + d.toNat * 2097152 + a.toNat * 65536 + m.toNat * 256 + t.code * 1
  | .vcos d a m t => 0x90000070 + d.toNat * 2097152 + a.toNat * 65536 + m.toNat * 256 + t.code * 1
  | .vredadd d a m t => 0x94000000 + d.toNat * 2097152 + a.toNat * 65536 + m.toNat * 256 + t.code * 1
  | .vredmax d a m t => 0x94000010 + d.toNat * 2097152 + a.toNat * 65536 + m.toNat * 256 + t.code * 1
  | .vredmin d a m t => 0x94000020 + d.toNat * 2097152 + a.toNat * 65536 + m.toNat * 256 + t.code * 1
  | .vredor d a m t => 0x94000030 + d.toNat * 2097152 + a.toNat * 65536 + m.toNat * 256 + t.code * 1
  | .vredand d a m t => 0x94000040 + d.toNat * 2097152 + a.toNat * 65536 + m.toNat * 256 + t.code * 1
  | .vscan d a m t => 0x94000050 + d.toNat * 2097152 + a.toNat * 65536 + m.toNat * 256 + t.code * 1
  | .vperm d a b m t => 0x98000000 + d.toNat * 2097152 + a.toNat * 65536 + b.toNat * 2048 + m.toNat * 256 + t.code * 1
  | .vbcast d a m t => 0x98000010 + d.toNat * 2097152 + a.toNat * 65536 + m.toNat * 256 + t.code * 1
  | .viota d m t => 0x98000020 + d.toNat * 2097152 + m.toNat * 256 + t.code * 1
  | .vslide d a b m t => 0x98000030 + d.toNat * 2097152 + a.toNat * 65536 + b.toNat * 2048 + m.toNat * 256 + t.code * 1
  | .vsel d a b m t => 0x98000040 + d.toNat * 2097152 + a.toNat * 65536 + b.toNat * 2048 + m.toNat * 256 + t.code * 1
  | .vmovs d a b t => 0x98000050 + d.toNat * 2097152 + a.toNat * 65536 + b.toNat * 2048 + t.code * 1
  | .vext d a b t => 0x98000060 + d.toNat * 2097152 + a.toNat * 65536 + b.toNat * 2048 + t.code * 1
  | .vcmul d a b m t => 0x98000070 + d.toNat * 2097152 + a.toNat * 65536 + b.toNat * 2048 + m.toNat * 256 + t.code * 1
  | .vconj d a m t => 0x98000080 + d.toNat * 2097152 + a.toNat * 65536 + m.toNat * 256 + t.code * 1
  | .mand d a b t => 0x9C000000 + d.toNat * 2097152 + a.toNat * 65536 + b.toNat * 2048 + t.code * 1
  | .mor d a b t => 0x9C000010 + d.toNat * 2097152 + a.toNat * 65536 + b.toNat * 2048 + t.code * 1
  | .mxor d a b t => 0x9C000020 + d.toNat * 2097152 + a.toNat * 65536 + b.toNat * 2048 + t.code * 1
  | .mnot d a t => 0x9C000030 + d.toNat * 2097152 + a.toNat * 65536 + t.code * 1
  | .mpop d a m t => 0x9C000040 + d.toNat * 2097152 + a.toNat * 65536 + m.toNat * 256 + t.code * 1
  | .vany d a m t => 0x9C000050 + d.toNat * 2097152 + a.toNat * 65536 + m.toNat * 256 + t.code * 1
  | .vall d a m t => 0x9C000060 + d.toNat * 2097152 + a.toNat * 65536 + m.toNat * 256 + t.code * 1
  | .vld v a m t => 0xA0000000 + v.toNat * 2097152 + a.toNat * 65536 + m.toNat * 256 + t.code * 1
  | .vlds v a x m t => 0xA0000010 + v.toNat * 2097152 + a.toNat * 65536 + x.toNat * 2048 + m.toNat * 256 + t.code * 1
  | .vgath v a x m t => 0xA0000020 + v.toNat * 2097152 + a.toNat * 65536 + x.toNat * 2048 + m.toNat * 256 + t.code * 1
  | .vst v a m t => 0xA4000000 + v.toNat * 2097152 + a.toNat * 65536 + m.toNat * 256 + t.code * 1
  | .vsts v a x m t => 0xA4000010 + v.toNat * 2097152 + a.toNat * 65536 + x.toNat * 2048 + m.toNat * 256 + t.code * 1
  | .vscat v a x m t => 0xA4000020 + v.toNat * 2097152 + a.toNat * 65536 + x.toNat * 2048 + m.toNat * 256 + t.code * 1
  | .vamoAdd v i a m s w => 0xA8000000 + v.toNat * 2097152 + i.toNat * 65536 + a.toNat * 2048 + m.toNat * 256 + s.code * 4 + w.code * 1
  | .vamoOr v i a m s w => 0xA8000020 + v.toNat * 2097152 + i.toNat * 65536 + a.toNat * 2048 + m.toNat * 256 + s.code * 4 + w.code * 1
  | .vamoAnd v i a m s w => 0xA8000040 + v.toNat * 2097152 + i.toNat * 65536 + a.toNat * 2048 + m.toNat * 256 + s.code * 4 + w.code * 1
  | .vamoXor v i a m s w => 0xA8000060 + v.toNat * 2097152 + i.toNat * 65536 + a.toNat * 2048 + m.toNat * 256 + s.code * 4 + w.code * 1
  | .vamoMin v i a m s w => 0xA8000080 + v.toNat * 2097152 + i.toNat * 65536 + a.toNat * 2048 + m.toNat * 256 + s.code * 4 + w.code * 1
  | .vamoMax v i a m s w => 0xA80000A0 + v.toNat * 2097152 + i.toNat * 65536 + a.toNat * 2048 + m.toNat * 256 + s.code * 4 + w.code * 1
  | .vpop v b => 0xAC000000 + v.toNat * 2097152 + b.toNat * 131072
  | .vpush v b => 0xAC000010 + v.toNat * 2097152 + b.toNat * 131072
  | .vpeek v b => 0xAC000020 + v.toNat * 2097152 + b.toNat * 131072
  | .mldw a t y p => 0xC0000000 + a.toNat * 65536 + t.code * 128 + y.toNat * 8 + p.toNat * 1
  | .mswp => 0xC0200000
  | .mtag a => 0xC0400000 + a.toNat * 65536
  | .mmul e b x t r p => 0xC4000000 + e.toNat * 65536 + b.toNat * 2048 + x.toNat * 128 + t.code * 8 + r.toNat * 2 + p.toNat * 1
  | .mmulz e b x t r p => 0xC4200000 + e.toNat * 65536 + b.toNat * 2048 + x.toNat * 128 + t.code * 8 + r.toNat * 2 + p.toNat * 1
  | .mrel x => 0xC8000000 + x.toNat * 128
  | .mzero x k => 0xC8200000 + x.toNat * 128 + k.code * 1
  | .mstat d x p => 0xC8400000 + d.toNat * 65536 + x.toNat * 128 + p.toNat * 1
  | .mlda e b x k => 0xC8600000 + e.toNat * 65536 + b.toNat * 2048 + x.toNat * 128 + k.code * 1
  | .mrd o e b x t r => 0xCC000000 + o.toNat * 1048576 + e.toNat * 65536 + b.toNat * 2048 + x.toNat * 128 + t.code * 8 + r.code * 1
  | .mrds o e b x t r => 0xCC200000 + o.toNat * 1048576 + e.toNat * 65536 + b.toNat * 2048 + x.toNat * 128 + t.code * 8 + r.code * 1
  | .sbdef e a b => 0xD8008000 + e.toNat * 2048 + a.toNat * 64 + b.toNat * 2
  | .stdef e a b => 0xD8200000 + e.toNat * 2048 + a.toNat * 64 + b.toNat * 2
  | .stdim e a b => 0xD8400000 + e.toNat * 2048 + a.toNat * 64 + b.toNat * 2
  | .stpos e a => 0xD8600000 + e.toNat * 2048 + a.toNat * 64
  | .strst e => 0xD8800000 + e.toNat * 2048
  | .copy s d a b => 0xDC000000 + s.toNat * 65536 + d.toNat * 2048 + a.toNat * 64 + b.toNat * 2
  | .copym s d a b => 0xDC208000 + s.toNat * 65536 + d.toNat * 2048 + a.toNat * 64 + b.toNat * 2
  | .cqnt s d a b => 0xE0000000 + s.toNat * 65536 + d.toNat * 2048 + a.toNat * 64 + b.toNat * 2
  | .cexp s d a b => 0xE0200000 + s.toNat * 65536 + d.toNat * 2048 + a.toNat * 64 + b.toNat * 2
  | .ccvt s d a b => 0xE0400000 + s.toNat * 65536 + d.toNat * 2048 + a.toNat * 64 + b.toNat * 2
  | .cfill d a b => 0xE0600000 + d.toNat * 2048 + a.toNat * 64 + b.toNat * 2
  | .rld a b c s => 0xE8000000 + a.toNat * 65536 + b.toNat * 2048 + c.toNat * 64 + s.code * 8
  | .rst a b c s => 0xE8200000 + a.toNat * 65536 + b.toNat * 2048 + c.toNat * 64 + s.code * 8
  | .ramo a b c s f => 0xE8400000 + a.toNat * 65536 + b.toNat * 2048 + c.toNat * 64 + s.code * 8 + f.toNat * 1
  | .rfence s => 0xE8600000 + s.code * 8
  | .lcnt a => 0xE8800000 + a.toNat * 65536
  | .leaseAsk a b c => 0xEC000000 + a.toNat * 65536 + b.toNat * 2048 + c.toNat * 64
  | .leaseGive a b => 0xEC200000 + a.toNat * 65536 + b.toNat * 2048
  | .leaseStat a b => 0xEC400000 + a.toNat * 65536 + b.toNat * 2048
  | .fctl a b => 0xF0000000 + a.toNat * 65536 + b.toNat * 2048
  | .fstat a b => 0xF0200000 + a.toNat * 65536 + b.toNat * 2048
  | .dep g x y z => 0xF8000000 + g.enc + x.toNat * 16384 + y.toNat * 128 + z.toNat * 1
  | _ => 0

end Sys2Proof
end

