-- ==== Sys2Proof/Machine/State.lean ====
section
/-! DEFINITION. State.lean: everything the spec gives the machine (R13-R26 and the chapters that R26 names), as plain data,
with the reasons a step can stop and the machine after package reset. Tables are sparse: an unlisted key reads as the
default of its accessor. -/

namespace Sys2Proof.Machine

/-- Privilege levels (R67, R376). -/
inductive Level where
  | user | supervisor
  deriving DecidableEq, Repr

/-- Kinds of access (R83, R376). -/
inductive AccKind where
  | read | write | exec | amo
  deriving DecidableEq, Repr

/-- Trap causes (R80). -/
inductive Cause where
  | illegalEncoding | privileged | misaligned | apertureMiss | pageNotPresent | pageProtection | pageReservedBit
  | tensorBounds | weightStoreWrite | parcelAbsent | parcelEscape | parcelPinned | peerDead | vwinNone | accExhausted
  | formatMismatch | portUnbound | tokenRange | arith | software | watchdog | preempt | delaySlot
  deriving DecidableEq, Repr

/-- What a trap reports besides its place: the cause, TADDR, the access kind and the walk level (R376, R378). -/
structure TrapInfo where
  cause : Cause
  addr : Word := 0
  kind : AccKind := .read
  level : Nat := 0
  deriving DecidableEq, Repr

/-- A task inside the delay slots of a branch: which slot executes next, whether the branch was taken, its target (R100). -/
structure DelaySlot where
  k : Nat
  taken : Bool
  target : Word
  deriving DecidableEq, Repr

/-- A dependence token: engine and push number of the task (R74, R78). The hardware's counter is this number modulo 32. -/
structure Tok where
  eng : Eng
  idx : Nat
  deriving DecidableEq, Repr

/-- What one access does at its location (R124, R125, R129). An amo holds the operation code of R130; `move` and `put` are
the parts of an engine word's bytes, with their poison (R236, R237, R382), a `move` with what it has read before (R246), `half` the
4-bit element of a byte and its poison, and `add` the add to an 8-byte arrival or link counter (R224, R236). -/
inductive MemOp where
  | load (n : Nat) (signed : Bool)
  | store (bytes : List Byte)
  | amo (op : Nat) (w : Wd) (v expect : Word)
  | move (n : Nat) (got : List PByte := [])
  | put (bs : List PByte)
  | half (v : Nat) (high : Bool) (bad : Bool := false)
  | add (n : Nat)
  deriving DecidableEq, Repr

/-- An access of a task's scalar stream that has passed its checks and not performed (R120, R121): its location, the
register that receives its value, the barriers of SBAR it waits for (unit push numbers of the tile), whether its request to
another tile has been sent (R271), and how many shootdowns of its context were asked for before its translation (R372). -/
structure Access where
  op : MemOp
  loc : Nat
  dst : BitVec 5
  bars : List Nat
  sent : Bool := false
  era : Nat := 0
  deriving DecidableEq, Repr

/-- An LDA, AMO or WAITC that holds its task and whose location another tile owns (R127, R131, R271): nothing of it is out, its
request is out, or the owner has refused an atomic whose result would escape (R132). -/
inductive Held where
  | no | out | escape
  deriving DecidableEq, Repr

/-- A sequencer result in flight (R84, R86): the register and its value; a request to a region manager or a parcel's
zeroing carries the value it will return, and the physical pieces that a zeroing has still to go through (R151). -/
structure Landing where
  dst : BitVec 5
  val : Word
  zero : List (Nat × Nat) := []
  deriving DecidableEq, Repr

/-- One task slot (R19). `yielding` are the tasks for which a YIELD waits, until the cycle `yieldTo` at the latest (R108);
a WAITC that sleeps on the location `sleep` has read `seen` there (R135); `asked` is the held access whose location another tile owns (R271). -/
structure Task where
  live : Bool := false
  s : Vector Word 32 := Vector.replicate 32 0
  p : Vector Bool 8 := Vector.replicate 8 false
  b : Vector Word 4 := Vector.replicate 4 0
  pc : Word := 0
  spend : BitVec 32 := 0
  ppend : BitVec 8 := 0
  flags : Byte := 0
  fmask : Byte := 0
  rmode : BitVec 3 := 0
  pushed : Vector Nat 4 := Vector.replicate 4 0
  waiting : List Tok := []
  link : Word := 0
  level : Level := .user
  slot : Option DelaySlot := none
  stream : List Access := []
  landings : List Landing := []
  bars : List Nat := []
  sleep : Option Nat := none
  seen : Nat := 0
  yielding : BitVec 4 := 0
  yieldTo : Nat := 0
  asked : Held := .no
  deriving DecidableEq, Repr

/-- What an MRD or MRDS converts (R209): the kind, none for a name that is not VALID, and the rows of its row word. -/
structure Readout where
  kind : Option AKind
  rows : List (BitVec 4096)
  deriving DecidableEq, Repr

/-- Where a C word resumes when a destination faults inside an expanded chunk or a chunk that it writes (R227, R244): its
progress, the positions of its source and destination streams, the output bytes that it then holds, the state of the generator,
and what it has used up since of a source that is no stream. -/
structure Mark where
  prog : Nat
  src : Nat × Nat
  dst : Nat × Nat
  out : List PByte
  gen : BitVec 64
  used : List PByte := []
  deriving DecidableEq, Repr

/-- A word in an engine queue or in an engine (R74, R78): its push number on the tile, the task and token, the tokens and
the guard of its DEP, the captured scalar operands, RMODE, window and level, the progress point, the barriers it waits for,
whether it is a follow-on that COPYM has still to fill (R226), whether it stands at a fault (R380), the stage it has
reached, its counter's location once translated, with the shootdowns asked for before (R235, R372), the requests out (R236), bytes and poison marks that wait to leave,
of an L word the scalar accesses before it that have not performed (R122), the lowest
request that has failed (R234), the accumulator that an issued MRD or MRDS converts, as the words pushed before it left
it (R198, R211), the source bytes that a C word has taken and not yet used up (R274), an MLDW has read of its record or an RST of its
request, how many of those, from the first on, have left the source buffer or the port (R244), the bytes of the stored chunk under way
that the expander has read (R246), how many bytes of the piece under way are written or on
their way (R271), where it resumes (R244), and for a source buffer CP after the word last moved it with the number of bytes before CP
that it passed one after another (R275). -/
structure Entry where
  uid : Nat
  task : Nat
  tok : Option Tok
  word : Instr
  deps : List Tok := []
  guard : Guard := ⟨false, 0⟩
  a : Word := 0
  b : Word := 0
  c : Word := 0
  rmode : BitVec 3 := 0
  win : Nat := 0
  level : Level := .user
  prog : Nat := 0
  bars : List Nat := []
  held : Bool := false
  faulted : Bool := false
  stage : Nat := 0
  ctr : Option Nat := none
  era : Nat := 0
  out : List Nat := []
  aux : List PByte := []
  took : Nat := 0
  fail : Option (Nat × TrapInfo) := none
  acc : Option Readout := none
  inb : List PByte := []
  own : Nat := 0
  raw : List PByte := []
  put : Nat := 0
  mark : Option Mark := none
  tail : Option (BitVec 32 × Nat) := none
  deriving DecidableEq, Repr

/-- A fault that an engine has met and that waits for delivery (R380). -/
structure EFault where
  eng : Eng
  task : Nat
  uid : Nat
  info : TrapInfo
  waited : Bool := false
  deriving DecidableEq, Repr

/-- A weight plane (R190). State is 0 EMPTY, 1 LOADING, 2 LOADED; `bytes` is the record as it was read (R191). -/
structure Plane where
  st : Nat := 0
  fmt : Ty := .i8
  depth : Nat := 0
  bytes : List Byte := []
  replay : Option (Word × Ty × Nat × Nat) := none
  load : Option Entry := none
  deriving DecidableEq, Repr

/-- The status of a VALID accumulator name (R193). -/
structure Acc where
  slot : Nat
  dirty : Bool
  kind : AKind
  owner : Nat
  lastTag : BitVec 16
  deriving DecidableEq, Repr

/-- What MREL leaves of an accumulator name (R206, R207): it clears VALID and DIRTY alone. -/
structure AccPast where
  kind : AKind
  owner : Nat
  lastTag : BitVec 16
  deriving DecidableEq, Repr

/-- A row inside the matrix array (R197, R204): the weights it entered with, the accumulator name and row, its tag, its
activation bytes and type, the rounding of its word, whether it starts from zero, and the word whose last row it is. -/
structure Row where
  plane : Nat
  acc : Nat
  row : Nat
  tag : BitVec 16
  act : List Byte
  ty : Ty
  rm : BitVec 3
  zero : Bool
  task : Nat
  last : Option Tok
  deriving DecidableEq, Repr

/-- The definition and the running counts of a stream buffer (R217, R218). -/
structure SBuf where
  ty : Ty
  qthr : BitVec 16
  size : Nat
  fire : Nat
  base : Nat
  pp : BitVec 32 := 0
  cp : BitVec 32 := 0
  deriving DecidableEq, Repr

/-- An address stream (R220, R221): its definition, its position, and the chunks that its expander keeps for the word that
reads it (R227). -/
structure AStream where
  tensor : Bool
  ndim : Nat
  qthr : BitVec 16
  entry : Nat
  chunk : Nat
  ext : List Nat
  stride : List Int
  base : Word
  k : Nat := 0
  o : Nat := 0
  kept : Tab (List PByte) := []
  deriving DecidableEq, Repr

/-- An inbound channel (R139). -/
structure Chan where
  bound : Option Nat := none
  fifo : List Word := []
  deriving DecidableEq, Repr

/-- An open parcel window (R153): the parcel's handle, base and length. -/
structure Window where
  handle : Word
  base : Word
  len : Nat
  deriving DecidableEq, Repr

/-- The trap registers of a tile for its context (R104, R376); `holder` is the task that holds BUSY (R380). -/
structure TrapRegs where
  tvec : Word := 0
  tcause : BitVec 6 := 0
  taddr : Word := 0
  tpc : Word := 0
  sticky : Byte := 0
  kind : BitVec 2 := 0
  level : BitVec 4 := 0
  task : BitVec 2 := 0
  src : BitVec 3 := 0
  plev : Level := .user
  busy : Bool := false
  tdsl : BitVec 3 := 0
  tdtgt : Word := 0
  holder : BitVec 2 := 0
  scratch : Vector Word 4 := Vector.replicate 4 0
  deriving DecidableEq, Repr

/-- What the walker has sent to a tile and the tile has not started (R335): node, active slot, entry PC, loop indices,
argument block and stitch number. -/
structure Stitch where
  part : Nat
  ctx : Nat
  slot : Nat
  node : Nat
  entry : Word
  idx : List Nat
  args : Word
  num : Nat
  deriving DecidableEq, Repr

/-- Where the answer to a request lands (R234, R311): a register of the scalar stream, the register of a word that holds its
task, a WAITC on the counter at a location with its target (R135), request `req` of an engine word, the source bytes that an RST
takes in from another tile (R237), or nowhere. -/
inductive Dest where
  | reg (d : BitVec 5)
  | held (d : BitVec 5)
  | count (loc : Nat) (target : Word)
  | word (uid req : Nat)
  | fetch (uid : Nat)
  | none
  deriving DecidableEq, Repr

/-- One tensor tile (R19). `vs` holds the 64 vector registers, `masks` mask m of window w at 8w + m, `slots` row r of slot k
at 128k + r. `watchdog` and `preempt` are deliveries that wait (R338,
R359, R380). `last` is the task that issued last (R340); `queueWait` has by engine the tasks that wait for room in its queue, and
`served` the task that took its last entry (R341); `saveAt` is when the save of the tile began (R362). Rows inside the array,
words out of their queue and waiting traps are in the order in which they came. -/
structure Tile where
  ctx : Option Nat := none
  part : Option Nat := none
  node : Option (Nat × Nat) := none
  stitch : Word := 0
  incoming : Option Stitch := none
  tasks : Vector Task 4 := Vector.replicate 4 {}
  last : Fin 4 := 3
  queueWait : Vector (BitVec 4) 4 := Vector.replicate 4 0
  served : Vector (Fin 4) 4 := Vector.replicate 4 3
  uid : Nat := 0
  vs : Tab (BitVec 4096) := []
  masks : Tab (BitVec 1024) := []
  win0 : Option Nat := none
  win1 : Option Nat := none
  vq : List Entry := []
  mq : List Entry := []
  cq : List Entry := []
  lq : List Entry := []
  array : Option Entry := none
  conv : Option Entry := none
  air : List Entry := []
  plane0 : Plane := {}
  plane1 : Plane := {}
  accs : Tab Acc := []
  accPast : Tab AccPast := []
  slots : Tab (BitVec 4096) := []
  rtag : BitVec 16 := 0
  rows : List Row := []
  sbs : Tab SBuf := []
  sts : Tab AStream := []
  deque : List Word := []
  gv : BitVec 64 := 0x9E3779B97F4A7C15
  gm : BitVec 64 := 0xC2B2AE3D27D4EB4F
  gc : BitVec 64 := 0x165667B19E3779F9
  seed : Word := 0
  chans : Tab Chan := []
  windows : Tab Window := []
  trap : TrapRegs := {}
  faults : List EFault := []
  trapWait : BitVec 4 := 0
  watchdog : BitVec 4 := 0
  preempt : Bool := false
  outbound : Nat := 0
  slotsUsed : Tab Nat := []
  circuits : Tab (BitVec 17) := []
  slotTable : Tab (BitVec 32) := []
  miss : BitVec 32 := 0
  halting : Option Nat := none
  halted : Bool := false
  passed : Bool := false
  switched : Bool := false
  saved : Bool := false
  saveAt : Option Nat := none
  lastIssue : Nat := 0
  deriving DecidableEq, Repr

/-- A flit on a circuit: how many routers of its route it has left behind, and its place in the order in which flits have entered
the FIFOs of the mesh (R303, R309). -/
structure Flit where
  pos : Nat
  seq : Nat
  deriving DecidableEq, Repr

/-- What an SRAM port or a slice port is asked across a network, and what comes back (R271, R303, R311). A write on a circuit
travels on VC2 (R308): `way` are the routers of its route, each with its input and output port, and `flits` its flits, the header
first (R309). `home` is the target memory port, of a request to a peer the one whose slot it took (R312). -/
inductive Pkt where
  | req (src task : Nat) (op : MemOp) (loc : Nat) (dest : Dest) (home : Nat) (way : List (Nat × Nat × Nat)) (flits : List Flit)
  | resp (src task : Nat) (bytes : List PByte) (dest : Dest) (home : Nat) (signed : Bool)
  | ack (src task : Nat) (dest : Dest)
  | counter (src task : Nat) (uid : Nat) (addr : Word) (n : Nat)
  | send (src task : Nat) (d : BitVec 5) (tile chan : Nat) (w : Word)
  | steal (src task : Nat) (d : BitVec 5) (tile : Nat)
  | peer (src task : Nat) (pkg ctx : Nat) (addr : Word) (op : PeerOp) (scope : Nat) (dest : Dest) (due home : Nat)
  deriving DecidableEq, Repr

/-- A collar port (R289-R295): the FIFO, oldest beat first, the counts, the sideband queue with the number of beats that
stood before each word (none on an output port, R295), beats inside the frame under way, and the output beats that the collar moved out of a full FIFO during
a save and that come before any new beat (R300). -/
structure Port where
  fifo : List Beat := []
  frames : BitVec 64 := 0
  errs : BitVec 32 := 0
  beat : Nat := 0
  taken : Nat := 0
  entered : Nat := 0
  side : List (Nat × Word) := []
  spill : List Beat := []
  deriving DecidableEq, Repr

/-- The header of a region image (R407) with the digest that R408 signs. -/
structure Image where
  version : BitVec 32
  rbk : BitVec 32
  keyslot : Nat
  qclass : Nat
  lag : Nat
  ports : BitVec 16
  fmax : Nat
  luts : Nat
  digest : BitVec 512
  deriving DecidableEq, Repr

/-- A request that a region manager works on (R411): the context and the level that it reads for, the image's address, the
image once it is verified, with the clock asked for, the keys of the slots that were ACTIVE when it began (R414), the launch
whose cast-on makes it (R413), and whether the resume that made it was given up meanwhile (R414). -/
structure RgnReq where
  ctx : Nat
  level : Level
  addr : Word
  image : Option Image := none
  clock : Nat := 0
  keys : Tab (List Byte) := []
  cast : Option (BitVec 32) := none
  stopped : Bool := false
  deriving DecidableEq, Repr

/-- A fabric region with its collar (R287). `state` is STATE of R116; `pend` and `want` are the ports that RGN.BIND has still
to change and their new bits, with the tile, task and register that its answer goes to; `again` is the graph's mask that waits
for every port to reach a frame boundary (R294); `save` says that the hold serves a save (R300); `ended` is the context and the
launch of the cast-on whose request ended last, with the ports of its image where that became LIVE (R413). -/
structure Region where
  live : Option Image := none
  state : Nat := 0
  reason : Nat := 0
  req : Option RgnReq := none
  mask : BitVec 16 := 0
  pend : BitVec 16 := 0
  want : BitVec 16 := 0
  answer : Option (Nat × Nat × BitVec 5) := none
  again : Option (BitVec 16) := none
  held : Bool := false
  drain : Bool := false
  save : Bool := false
  ended : Option (Nat × BitVec 32 × Option (BitVec 16)) := none
  clock : Nat := 0
  ports : Tab Port := []
  deriving DecidableEq, Repr

/-- Gating of a block (R423). -/
inductive Gate where
  | active | hold | gated | waking
  deriving DecidableEq, Repr

/-- A block (R14, R422, R423): gating with the time at which HOLD or WAKING ends and the cycle in which the HOLD ended or the wake
was asked for (R424), the droop count, the stretch under way
with the cycle before which it does not end, and the unstretched
cycles that passed while it was stretched, of which its own clock counts every second. -/
structure Block where
  gate : Gate := .active
  due : Nat := 0
  since : Nat := 0
  droop : BitVec 32 := 0
  stretched : Bool := false
  stretchTo : Nat := 0
  lost : Nat := 0
  deriving DecidableEq, Repr

/-- The position of a node of a cast-on graph (R331, R335): the stitches dispatched, those of them that a halted tile gave back
before they ran (R113), the width it started with, whether it is complete, and the cycle of its last dispatch. -/
structure NodePos where
  started : Bool := false
  next : Nat := 0
  back : List Nat := []
  done : Bool := false
  width : Nat := 0
  last : Nat := 0
  deriving DecidableEq, Repr

/-- A launch record (R143). -/
structure LaunchRec where
  image : Word
  args : Word
  doneA : Word
  prio : Nat
  stat : Word
  deriving DecidableEq, Repr

/-- An entry of a partition's device queue (R324): the launch, its number, for a host submission its queue and SEQ; the third
section of its image with the argument dwords (by offset) and the placement maps (by 4·node + width) that acceptance read;
the active slot, the stage (0 queued, 1 being cast on, 2 active), the regions still to be made live and whether the first
is requested; whether a resume casts it on again (R359), whether it is cast on again on another rectangle (R346, R347), the width, whether WIDTH_HOLD is posted, the binding masks of R294
by region, and the node positions. -/
structure DqEntry where
  num : BitVec 32
  ctx : Nat
  launch : LaunchRec
  host : Option (Nat × BitVec 32) := none
  graph : List Byte := []
  argv : Tab Word := []
  maps : Tab (List Nat) := []
  slot : Option Nat := none
  stage : Nat := 0
  todo : List (Nat × Word) := []
  asked : Bool := false
  again : Bool := false
  anew : Bool := false
  width : Nat := 0
  held : Bool := false
  masks : Tab (BitVec 16) := []
  nodes : Tab NodePos := []
  deriving DecidableEq, Repr

/-- A weight-store share of a partition on a die (R17, R332). -/
structure Share where
  base : Nat := 0
  size : Nat := 0
  digest : Option (BitVec 128) := none
  deriving DecidableEq, Repr

/-- A partition (R26, R344). `sched` is the schedule of R351 with the entry that runs and the slices it has had, `now` the
context whose slice runs, `startedAt` and `endedAt` when the slice began and ended, `token` the tiles the bind-off token has
still to reach, `resize` a rectangle that waits for a slice switch (R346), `regrid` a resize whose active graphs are still to
be cast on again (R347), and `out` the tiles that left the walker's set (R113). -/
structure Part where
  desc : BitVec 64 := 0x03E8000000000000
  ways : Tab (BitVec 16) := []
  queue : List DqEntry := []
  sched : Tab (BitVec 32) := []
  now : Option Nat := none
  ending : Bool := false
  startedAt : Nat := 0
  endedAt : Nat := 0
  entry : Nat := 0
  slices : Nat := 0
  token : List Nat := []
  resize : Option (BitVec 64) := none
  regrid : Bool := false
  shares : Tab Share := []
  pools : Tab Nat := []
  out : List Nat := []
  super : Option (BitVec 512) := none
  deriving DecidableEq, Repr

/-- A kept translation (R371): the slice port that holds it, the first va of the page, its size, the first pa, the PTE's R W X
and SUP bits. -/
structure Tlb where
  port : Nat
  va : Nat
  size : Nat
  pa : Nat
  perm : BitVec 7
  deriving DecidableEq, Repr

/-- A kept pointer of a walk (R371): the die whose walk cache holds it, its level, the va above what the level covers, and the
table that it points to. -/
structure Walk where
  die : Nat
  level : Nat
  key : Nat
  table : Nat
  deriving DecidableEq, Repr

/-- A shootdown that is not complete (R372): its number among those of its context, and its range. -/
structure Shoot where
  num : Nat
  va : Word
  len : Nat
  deriving DecidableEq, Repr

/-- The token bucket of a context at a slice port (R282); it is full at reset (log 66). -/
structure Qos where
  cfg : BitVec 64 := 0x0000004000001000
  fill : Nat := 0x4000
  deriving DecidableEq, Repr

/-- A ring in host memory with its doorbell (R431-R434). -/
structure Ring where
  base : Word := 0
  k : Nat := 0
  prod : BitVec 32 := 0
  cons : BitVec 32 := 0
  deriving DecidableEq, Repr

/-- The resources of a VF (R431-R434): its rings, the completions and events held for it, the events lost, and for the two
queue vectors whether a message is outstanding; the queue whose turn it is (R324); the MSI-X table by vector, masked at reset, and
its pending bits (R434, log 79); `sent` counts the messages of each vector, `flr` a reset under way. -/
structure Vf where
  sq : Tab Ring := []
  cq : Ring := {}
  eq : Ring := {}
  heldC : List (List Byte) := []
  heldE : List (List Byte) := []
  lost : Nat := 0
  msiC : Bool := false
  msiE : Bool := false
  turn : Nat := 0
  msix : Tab (BitVec 128) := []
  pending : Byte := 0
  sent : Tab Nat := []
  flr : Bool := false
  deriving DecidableEq, Repr

/-- Saved collar records (R300, R355): the mask, and the graph's that waits for a frame boundary (R294), the ports with the output
beats that the collar moved out, and the image that was live or that passed verification (R414). -/
structure Collar where
  mask : BitVec 16
  again : Option (BitVec 16)
  ports : Tab Port
  image : Option Image
  deriving DecidableEq, Repr

/-- What the loader leaves of a graph image (R37, log 12): its address, the bounds of its data section as offsets, and its
third section. -/
structure Loaded where
  image : Word
  data : Nat
  size : Nat
  graph : List Byte
  deriving DecidableEq, Repr

/-- A context (R26, R348). `images` are the private tile images, each with its number in the kennel, and `collars` the collar records of its kennel, `verified` by
region the requests of a resume that was given up whose images passed verification (R414), `sections`
what the loader leaves of its graph images, `parked` its device-queue entries while it is unbound or the queue has no room;
`saves` counts its saves (R355), `regrid` that a resize of its graphs was under way at the save (R347); `era` counts the shootdowns asked for, of which `shoots` are not
complete (R372); `resumed` says that its tasks issue and the walker works for it (R359). -/
structure Ctx where
  exists_ : Bool := false
  record : CtxRec := {}
  launches : BitVec 32 := 0
  sticky : Byte := 0
  dead : BitVec 256 := 0
  badchunk : Word := 0
  leaseq : List Word := []
  leaseOvf : Bool := false
  asks : BitVec 16 := 0
  arrivals : List Word := []
  images : Tab (Nat × Tile) := []
  collars : Tab Collar := []
  verified : Tab RgnReq := []
  forced : Bool := false
  resumed : Bool := false
  saveAt : Option Nat := none
  vf : Vf := {}
  qos : Tab Qos := []
  tlb : List Tlb := []
  walks : List Walk := []
  era : Nat := 0
  shoots : List Shoot := []
  sections : List Loaded := []
  tmap : Tab (List Nat) := []
  parked : List DqEntry := []
  saves : Nat := 0
  regrid : Bool := false
  deriving DecidableEq, Repr

/-- Ownership of a lane (R390-R392): package floor or base lane, or a lease of a context with its term and the time from
which it counts; at the far end of a peer's lease, no context here. -/
inductive Own where
  | floor | base | lease (ctx term since : Nat) | far
  deriving DecidableEq, Repr

/-- A lane to a peer on a line (R388, R389, R393). `lit` and `far` say whether the line is lit at this package and, as far as
this package has been told, at the peer; `beats` counts those that it has carried in the agent's cycle (R391). -/
structure Lane where
  own : Own
  active : Bool
  lit : Bool := true
  retuning : Bool := false
  far : Bool := true
  beats : Nat := 0
  deriving DecidableEq, Repr

/-- An ASK at the lease agent (R391): lines granted that are active, lines granted that retune, whether the agent has
decided that it grants nothing more, whether it then found no quota left (R394), and how many shootdowns were asked for before its
counter was translated (R235, R372). -/
structure Ask where
  ctx : Nat
  peer : Nat
  want : Nat
  term : Nat
  seq : BitVec 16
  ctr : Option Nat
  got : List Nat := []
  moving : List Nat := []
  decided : Bool := false
  noQuota : Bool := false
  era : Nat := 0
  deriving DecidableEq, Repr

/-- What this package sends to another (R154, R314, R397): of a loss the lanes, bit ℓ for line ℓ, and the cause (R398); of an
orderly change of the stripe set the lanes of the new one (R396). -/
inductive LinkMsg where
  | request (peer ctx : Nat) (addr : Word) (op : PeerOp) (scope : Nat)
  | answer (peer ctx : Nat) (ans : PeerAns)
  | offer (o : Offer) (bytes : List PByte)
  | verdict (o : Offer) (status : Nat)
  | delivered (o : Offer)
  | ack (peer : Nat) (seq : BitVec 24)
  | badCrc (peer : Nat) (seq : BitVec 24)
  | replay (peer : Nat) (seq : BitVec 24)
  | lost (peer lines cause : Nat)
  | stripe (peer lines : Nat)
  | pause (port cls : Nat)
  deriving DecidableEq, Repr

/-- The link layer toward a peer (R396, R397): the next sequence number, the flits sent and not acknowledged, the number
expected, the flits accepted and not acknowledged, the epoch with the beats sent and received in it, by line the times of flits
whose CRC failed, the messages that wait with the flits that each has still to send (R397, R399), and the accepted flits whose
contents have not reached the memory network. -/
structure Link where
  next : BitVec 24 := 0
  unacked : List (BitVec 24) := []
  expect : BitVec 24 := 0
  toAck : Nat := 0
  epoch : Nat := 0
  outBeat : Nat := 0
  inBeat : Nat := 0
  crc : Tab (List Nat) := []
  waiting : List (LinkMsg × Nat) := []
  accepted : Nat := 0
  deriving DecidableEq, Repr

/-- A parcel on its way (R147, R385): the offer, how far it is (0 offered, 1 accepted, 2 its last byte has landed at a receiver
of this package, 3 its receiver of this package is gone), until when its sender waits for the peer (R315), and the tile and push number of its POST. -/
structure Transit where
  offer : Offer
  stage : Nat
  due : Nat := 0
  word : Option (Nat × Nat) := none
  deriving DecidableEq, Repr

/-- An ingest flow (R439). -/
structure Flow where
  base : Word := 0
  size : Nat := 0
  ctx : Byte := 0xFF
  cls : Nat := 0
  consA : Word := 0
  cntA : Word := 0
  hiwm : Nat := 0
  lowm : Nat := 0
  drops : BitVec 64 := 0
  prod : BitVec 64 := 0
  paused : Bool := false
  deriving DecidableEq, Repr

/-- An Ethernet port (R437, R438). -/
structure Eth where
  flowTab : Tab Word := []
  glue : Word := 0
  rxbad : BitVec 64 := 0
  flows : Tab Flow := []
  waiting : List EthFrame := []
  deriving DecidableEq, Repr

/-- A key slot (R409): 0 EMPTY, 1 ACTIVE, 2 REVOKED. -/
structure KeySlot where
  key : List Byte := []
  st : Nat := 0
  rbc : BitVec 32 := 0
  deriving DecidableEq, Repr

/-- Ordering codes (R1). -/
inductive Grade where
  | p4 | p4s | p1
  deriving DecidableEq, Repr

/-- Power, clocks and the thermal ladder (R418-R428): `mv` is the supply voltage in mV, `temp` the hottest reading in °C and
`coolSince` since when it is below THR − 5 °C (R427). -/
structure Power where
  on : Bool := true
  freq : Nat := 1250
  fact : Nat := 1250
  goal : Nat := 1250
  mv : Nat := 400
  ramp : Word := 0x0FA0
  floor : Word := 0
  watts : Nat := 0
  held : Bool := false
  filler : Bool := false
  spur : Tab Word := []
  therm : Word := 0x73695F
  temp : Nat := 0
  coolSince : Option Nat := none
  warned : Bool := false
  throttled : Bool := false
  halted : Bool := false
  trip : Word := 0
  inrush : List Nat := []
  waking : List Nat := []
  deriving DecidableEq, Repr

/-- The pod: members, lease term limit, lanes by 32·peer + line, lost lanes, whose positions stay tuned, with the assignment
that they had (R398, R399), lit modules, queued ASKs, links by peer (R388-R397); `tries` counts the free values of
Config.farFree that are used up (log 64); `adds` are the ASKs that have resolved and whose counter add is to come (R241, R395). -/
structure Pod where
  members : List Nat := []
  termMax : Nat := 2000
  lanes : Tab Lane := []
  lost : Tab Lane := []
  els : BitVec 4 := 0xF
  asks : List Ask := []
  links : Tab Link := []
  tries : Nat := 0
  adds : List Ask := []
  deriving DecidableEq, Repr

/-- What the management interface answers later than the request, or with a status of its own: a shootdown is complete (R372),
a resize met a context saved inside a node (R346, R363), a binding found a kennel whose save is incomplete (R359). -/
inductive Answer where
  | shootdown (ctx : Nat) (va : Word) (len : Nat)
  | savedMidnode (part : Nat)
  | incomplete (ctx : Nat)
  deriving DecidableEq, Repr

/-- The management controller (R409, R435, R440-R442). `log` is the persistent event log, newest last, with its wraps;
`answers` what the management interface has answered, newest last; `corrected` has by HBM row the times of its corrected errors,
and `scheduled` the rows that wait for repair (R442); `boot` is the digest of the firmware that power-up has verified (R440). -/
structure Mgmt where
  ring : Ring := {}
  held : List (List Byte) := []
  lost : Nat := 0
  log : List (List Byte) := []
  wraps : Nat := 0
  keys : Tab KeySlot := []
  reports : List (List Byte) := []
  corrected : Tab (List Nat) := []
  scheduled : List Nat := []
  repairs : List Nat := []
  answers : List Answer := []
  firmware : Bool := true
  boot : Option (BitVec 512) := none
  deriving DecidableEq, Repr

/-- The agents of a tile, of the networks and of the walker whose turn the model gives by itself while a task waits (log 1):
each performs the event of the opcode table of that name; `part` and `planePart` move at most n bytes of the piece of a C word or of
the record of a plane (R246). -/
inductive Agent where
  | landing (task k : Nat)
  | head (e : Eng) (budget : Nat)
  | fire (e : Eng) (k : Nat)
  | planeLoad (p : Nat)
  | planePart (p n : Nat)
  | part (n : Nat)
  | rowExit | piece | counterAdd | followOn | deliver
  | request | response | ack | counterMsg | send | steal | wake
  | cast | dispatch | start
  deriving DecidableEq, Repr

/-- What moves next (the model's own, log 1): the sequencer of a tile, an event of the opcode table, an agent, the passing of
cycles and of nanoseconds, flit j of packet k on a circuit (R309), n bytes of request k (R246), a translation or a pointer that a TLB or a walk cache takes
in during the turn whose access needs it, or drops on its own (R371), the counter add of a LEASE.ASK (R395), a shootdown that may be complete (R372), the hottest reading of the sensors (R427), or a write of
the host to a BAR of a VF (R434). -/
inductive Turn where
  | issue (tile : Nat)
  | event (i : Instr)
  | agent (tile : Nat) (a : Agent)
  | elapse (cycles ns : Nat)
  | flit (k j : Nat)
  | portion (k n : Nat)
  | tlbFill (ctx tile : Nat) (va : Word) (k : AccKind) (lv : Level) (t : Turn)
  | tlbDrop (ctx : Nat) (va : Word)
  | walkFill (ctx die level : Nat) (va : Word) (k : AccKind) (lv : Level) (t : Turn)
  | leaseAdd
  | walkDrop (ctx : Nat) (va : Word)
  | shootDone (ctx : Nat)
  | sense (temp : Nat)
  | barWrite (n bar off : Nat) (v : Word)
  deriving DecidableEq, Repr

/-- The whole package. `watch` are the counters on which tasks have gone to sleep, each with whether it has been written since
and the notices of it are on their way (R317); `hops` counts the flits that have entered a FIFO of the mesh, and `outs` has by
output of a router, as 8·router + port, the cycle after that in which it last passed a flit (R302, R309). -/
structure State where
  tile : Nat := 0
  task : Fin 4 := 0
  agenda : List Turn := []
  grade : Grade := .p4
  fused : List Nat := []
  pkg : Byte := 0
  clock : Nat := 0
  ns : Nat := 0
  phase : Nat := 0
  serial : Nat := 1
  pool : Tab (BitVec 16) := []
  mem : List Host.Cell := []
  poison : List Nat := []
  tiles : Tab Tile := []
  blocks : Tab Block := []
  regions : Tab Region := []
  parts : Tab Part := []
  ctxs : Tab Ctx := []
  pkts : List Pkt := []
  watch : List (Nat × Bool) := []
  hops : Nat := 0
  outs : Tab Nat := []
  transits : List Transit := []
  sent : List LinkMsg := []
  power : Power := {}
  pod : Pod := {}
  eth : Tab Eth := []
  mgmt : Mgmt := {}
  deriving DecidableEq, Repr

/-- Why the machine stops with a fault: it never does. An access to a physical address that no memory of the package has
never completes, and stops nothing else (R11, log 7). -/
inductive Fault where
  deriving DecidableEq, Repr

/-- Why an instruction has no meaning. -/
inductive Refusal where
  /-- Raised by Dispatch.lean alone, for an instruction whose meaning is not written. Safe. -/
  | notModelled (mnemonic : String)
  deriving DecidableEq, Repr

/-- The machine right after package reset (R13-R26; values the spec does not give: log 3, 4, 5). -/
def State.reset : State := {}

end Sys2Proof.Machine
end

