-- ==== Sys2Proof/Machine/Flags.lean ====
section
/-! DEFINITION. Flags.lean: the sticky flags (R60) and the generator of stochastic rounding (R56, R57). -/

namespace Sys2Proof.Machine

/-- The bits of FLAGS (R60). -/
def fNone : Byte := 0
def fNV : Byte := 1
def fDZ : Byte := 2
def fOF : Byte := 4
def fUF : Byte := 8
def fNX : Byte := 16
def fSAT : Byte := 32
def fACC : Byte := 64
def fCVT : Byte := 128

/-- A set of flags under a condition. -/
def flagIf (b : Bool) (f : Byte) : Byte := if b then f else 0

/-- One draw: the next state of a generator, which the draw delivers (R56). -/
def nextGen (g : BitVec 64) : BitVec 64 :=
  let x := g ^^^ (g <<< 13)
  let y := x ^^^ (x >>> 7)
  y ^^^ (y <<< 17)

/-- A generator state after a seed; a state that would be 0 takes its constant (R57). -/
def seedGen (s c : BitVec 64) : BitVec 64 := if s ^^^ c = 0 then c else s ^^^ c

/-- The constants of G_V, G_M and G_C (R57). -/
def genV : BitVec 64 := 0x9E3779B97F4A7C15
def genM : BitVec 64 := 0xC2B2AE3D27D4EB4F
def genC : BitVec 64 := 0x165667B19E3779F9

/-- FLAGS of a task after a raise (R61). -/
def Task.raise (t : Task) (f : Byte) : Task := { t with flags := t.flags ||| f }

end Sys2Proof.Machine
end

