-- ==== Sys2Proof/Machine/Ops.lean ====
section
/-! DEFINITION. Ops.lean: the named operations over the parts of the state, over registers and memory; translation and the
checks of an access (R119, R367-R371); posting of events (R431-R435); taking an exception, returning from one (R377-R381),
and removing a context (R361). -/

namespace Sys2Proof.Machine

/-- The outcome of a step of this machine. -/
abbrev Out := Host.Outcome State Fault Refusal

/-- Why an operation does not go through: it waits, it waits for a free entry of an engine queue (R341), it traps, it ends its
context under a code of R381, or it reaches a physical address that no memory has, and never completes (log 7). -/
inductive Stop where
  | wait
  | full (e : Eng)
  | trap (i : TrapInfo)
  | fatal (code : Nat)
  | hole
  deriving DecidableEq, Repr

/-- The result of an operation that may not go through. -/
abbrev Res (α : Type) := Except Stop α

/-- A trap as the result. -/
def trapOf {α : Type} (c : Cause) (addr : Word) : Res α := .error (.trap ⟨c, addr, .read, 0⟩)

/-- A trap of an access of kind `k`, at walk level `l`. -/
def trapAcc {α : Type} (c : Cause) (addr : Word) (k : AccKind) (l : Nat) : Res α := .error (.trap ⟨c, addr, k, l⟩)

/-! ### Parts of the state -/

/-- The tile of a key; tile (x, y) has key 256x + y (R15). -/
def State.tileAt (s : State) (t : Nat) : Tile := s.tiles.get {} t
def State.setTile (s : State) (t : Nat) (x : Tile) : State := { s with tiles := s.tiles.put t x }
def State.updTile (s : State) (t : Nat) (f : Tile → Tile) : State := s.setTile t (f (s.tileAt t))

/-- The tile and the task that issue. -/
def State.cur (s : State) : Tile := s.tileAt s.tile
def State.me (s : State) : Task := s.cur.tasks[s.task]
def State.setMe (s : State) (x : Task) : State :=
  s.updTile s.tile fun t => { t with tasks := t.tasks.set s.task x }
def State.updMe (s : State) (f : Task → Task) : State := s.setMe (f s.me)

/-- The task in slot `k` of a tile. -/
def Tile.taskAt (t : Tile) (k : Nat) : Task := t.tasks[k % 4]'(Nat.mod_lt k (by decide))
def Tile.setTask (t : Tile) (k : Nat) (x : Task) : Tile :=
  { t with tasks := t.tasks.set (k % 4) x (Nat.mod_lt k (by decide)) }
def Tile.updTask (t : Tile) (k : Nat) (f : Task → Task) : Tile := t.setTask k (f (t.taskAt k))

def State.ctxAt (s : State) (c : Nat) : Ctx := s.ctxs.get {} c
def State.updCtx (s : State) (c : Nat) (f : Ctx → Ctx) : State := { s with ctxs := s.ctxs.put c (f (s.ctxAt c)) }
def State.partAt (s : State) (p : Nat) : Part := s.parts.get {} p
def State.updPart (s : State) (p : Nat) (f : Part → Part) : State := { s with parts := s.parts.put p (f (s.partAt p)) }
def State.regionAt (s : State) (r : Nat) : Region := s.regions.get {} r
def State.updRegion (s : State) (r : Nat) (f : Region → Region) : State :=
  { s with regions := s.regions.put r (f (s.regionAt r)) }
def State.blockAt (s : State) (b : Nat) : Block := s.blocks.get {} b
def State.updBlock (s : State) (b : Nat) (f : Block → Block) : State :=
  { s with blocks := s.blocks.put b (f (s.blockAt b)) }

/-- The queue of an engine (R78). -/
def Tile.queue (t : Tile) : Eng → List Entry
  | .v => t.vq
  | .m => t.mq
  | .c => t.cq
  | .l => t.lq
def Tile.setQueue (t : Tile) (e : Eng) (q : List Entry) : Tile :=
  match e with
  | .v => { t with vq := q }
  | .m => { t with mq := q }
  | .c => { t with cq := q }
  | .l => { t with lq := q }

/-! ### Geometry (R13, R14) -/

def tileX (t : Nat) : Nat := t / 256
def tileY (t : Nat) : Nat := t % 256
def tileKey (x y : Nat) : Nat := 256 * x + y

/-- Tiles of a side of the mesh, and blocks of a side. -/
def State.side (s : State) : Nat := if s.grade = .p1 then 12 else 24
def State.blockSide (s : State) : Nat := s.side / 2

/-- Dies of the package, each with its Ethernet port and weight store (R1, R2, R18): VL9-P1 has die 0 alone. -/
def State.dies (s : State) : Nat := if s.grade = .p1 then 1 else 4

/-- The die of a tile (R13). -/
def dieOf (t : Nat) : Nat := tileX t / 12 + 2 * (tileY t / 12)

/-- Block (bx, by) has key 16·bx + by, and so has its region; the block of a tile and its quarter index (R14). -/
def blockKey (bx yy : Nat) : Nat := 16 * bx + yy
def blockOf (t : Nat) : Nat := blockKey (tileX t / 2) (tileY t / 2)
def quarterOf (t : Nat) : Nat := tileX t % 2 + 2 * (tileY t % 2)

/-- Tile of quarter `q` of a block. -/
def tileInBlock (b q : Nat) : Nat := tileKey (2 * (b / 16) + q % 2) (2 * (b % 16) + q / 2)

/-- The fields of a partition descriptor (R344). -/
def descX0 (d : BitVec 64) : Nat := bits d.toNat 0 4
def descY0 (d : BitVec 64) : Nat := bits d.toNat 4 4
def descBW (d : BitVec 64) : Nat := bits d.toNat 8 4 + 1
def descBH (d : BitVec 64) : Nat := bits d.toNat 12 4 + 1
def descWcap (d : BitVec 64) : Nat := bits d.toNat 16 2
def descShare (d : BitVec 64) : Bool := bits d.toNat 18 1 == 1
def descValid (d : BitVec 64) : Bool := bits d.toNat 19 1 == 1
def descWays (d : BitVec 64) : Nat := bits d.toNat 32 16
def descGrace (d : BitVec 64) : Nat := bits d.toNat 48 16

/-- A block lies in a rectangle. -/
def inDesc (d : BitVec 64) (b : Nat) : Bool :=
  decide (descX0 d ≤ b / 16) && decide (b / 16 < descX0 d + descBW d) &&
  decide (descY0 d ≤ b % 16) && decide (b % 16 < descY0 d + descBH d)

/-- The blocks that fuses take off are those of the grade (R3): on VL9-P4S two on each die, else none. -/
def State.fusesOk (s : State) : Bool :=
  if s.grade = .p4s then
    s.fused.length == 8 && s.fused.all (fun b => decide (b / 16 < 12) && decide (b % 16 < 12) && s.fused.count b == 1) &&
      (List.range 4).all fun d => s.fused.countP (fun b => b / 16 / 6 + 2 * (b % 16 / 6) == d) == 2
  else s.fused == []

/-- The tile lies in the partition's rectangle (R304). -/
def State.inPart (s : State) (p t : Nat) : Bool :=
  let d := (s.partAt p).desc
  descValid d && decide (tileX t < s.side) && decide (tileY t < s.side) && inDesc d (blockOf t)

/-- The tiles of a rectangle of blocks in row-major order (y, then x). -/
def rectTiles (x0 y0 bw bh : Nat) : List Nat :=
  (List.range (2 * bh)).flatMap fun j => (List.range (2 * bw)).map fun i => tileKey (2 * x0 + i) (2 * y0 + j)

/-- The tiles and the blocks of a partition. -/
def State.partTiles (s : State) (p : Nat) : List Nat :=
  let d := (s.partAt p).desc
  rectTiles (descX0 d) (descY0 d) (descBW d) (descBH d)
def State.partBlocks (s : State) (p : Nat) : List Nat :=
  let d := (s.partAt p).desc
  (List.range (descBH d)).flatMap fun j =>
    (List.range (descBW d)).map fun i => blockKey (descX0 d + i) (descY0 d + j)

/-- The tiles that hold a context. -/
def State.ctxTiles (s : State) (c : Nat) : List Nat :=
  (s.tiles.filter fun kv => kv.2.ctx == some c).map Prod.fst

/-- A list of places none of which holds twice. -/
def addOnce (l : List Nat) (x : Nat) : List Nat := if l.contains x then l else l ++ [x]

/-- The blocks on which a context stands: those of the rectangle, and those that a resize takes out and that have not left. -/
def State.ctxBlocks (s : State) (p c : Nat) : List Nat :=
  ((s.ctxTiles c).map blockOf).foldl addOnce (s.partBlocks p)

/-! ### Registers (R19, R83) -/

/-- S(n) of R83, where nothing is pending. -/
def Task.sget (t : Task) (n : BitVec 5) : Word := if n = 0 then 0 else t.s[n.toNat]'n.isLt
def Task.sset (t : Task) (n : BitVec 5) (v : Word) : Task :=
  if n = 0 then t
  else { t with s := t.s.set n.toNat v n.isLt, spend := t.spend &&& ~~~((1 : BitVec 32) <<< n.toNat) }

/-- P(n) of R83; p0 is true. -/
def Task.pget (t : Task) (n : BitVec 3) : Bool := if n = 0 then true else t.p[n.toNat]'n.isLt
def Task.pset (t : Task) (n : BitVec 3) (v : Bool) : Task :=
  if n = 0 then t
  else { t with p := t.p.set n.toNat v n.isLt, ppend := t.ppend &&& ~~~((1 : BitVec 8) <<< n.toNat) }

/-- Pending bits (R84, R85); s0 and p0 are never pending. -/
def Task.sPending (t : Task) (n : BitVec 5) : Bool := n != 0 && t.spend.getLsbD n.toNat
def Task.pPending (t : Task) (n : BitVec 3) : Bool := n != 0 && t.ppend.getLsbD n.toNat
def Task.smark (t : Task) (n : BitVec 5) : Task :=
  if n = 0 then t else { t with spend := t.spend ||| ((1 : BitVec 32) <<< n.toNat) }
def Task.pmark (t : Task) (n : BitVec 3) : Task :=
  if n = 0 then t else { t with ppend := t.ppend ||| ((1 : BitVec 8) <<< n.toNat) }

/-- Guard(w) of R68. -/
def Task.guard (t : Task) (g : Guard) : Bool := t.pget g.p ^^ g.n

def State.getS (s : State) (n : BitVec 5) : Word := s.me.sget n
def State.setS (s : State) (n : BitVec 5) (v : Word) : State := s.updMe fun t => t.sset n v
def State.getP (s : State) (n : BitVec 3) : Bool := s.me.pget n
def State.setP (s : State) (n : BitVec 3) (v : Bool) : State := s.updMe fun t => t.pset n v
def State.setB (s : State) (n : BitVec 2) (v : Word) : State :=
  s.updMe fun t => { t with b := t.b.set n.toNat v n.isLt }

/-! ### Tokens (R74, R78) -/

/-- The code of an engine as an index. -/
def engIdx (e : Eng) : Fin 4 := ⟨e.code, by cases e <;> decide⟩

/-- The number of words pushed to an engine since the stitch start. -/
def Task.pushes (t : Task) (e : Eng) : Nat := t.pushed[engIdx e]

/-- The token of the nth most recent push, if there is one (R74, R111). -/
def Task.nthToken (t : Task) (e : Eng) (n : Nat) : Option Tok :=
  if n ≤ t.pushes e ∧ n ≠ 0 then some ⟨e, t.pushes e - n⟩ else none

/-- TokenDone of R83. -/
def Task.done (t : Task) (k : Tok) : Bool := !t.waiting.contains k

/-- The task takes the next token of an engine. -/
def Task.takeToken (t : Task) (e : Eng) : Task :=
  { t with pushed := t.pushed.set (engIdx e) (t.pushes e + 1), waiting := t.waiting ++ [⟨e, t.pushes e⟩] }

/-- The token of a word completes. -/
def Tile.complete (t : Tile) (task : Nat) (k : Option Tok) : Tile :=
  match k with
  | none => t
  | some k => t.updTask task fun x => { x with waiting := x.waiting.filter (· != k) }

/-! ### Memory: one byte per location (R270) -/

/-- Where a location is. -/
def weightLoc (die o : Nat) : Nat := 2 ^ 40 + die * 2 ^ 30 + o
def sramLoc (tile o : Nat) : Nat := 2 ^ 41 + tile * 2 ^ 22 + o
def hostLoc (a : Nat) : Nat := 2 ^ 64 + a

/-- The tile whose SRAM holds a location. -/
def sramTile (loc : Nat) : Option Nat :=
  if 2 ^ 41 ≤ loc ∧ loc < 2 ^ 41 + 2 ^ 38 then some ((loc - 2 ^ 41) / 2 ^ 22) else none

/-- The home L2 slice of a physical address (R280). -/
def homeSlice (pa : Nat) : Nat := 48 * bits pa 37 2 + bits pa 8 29 % 48

/-- The target memory port of a location: an SRAM port, or a slice port (R236). -/
def portOf (loc : Nat) : Nat :=
  match sramTile loc with
  | some t => 1000 + t
  | none => if loc < 2 ^ 40 then homeSlice loc else 500 + (loc - 2 ^ 40) / 2 ^ 30

/-- HBM bytes of the package (R1, R16). -/
def State.hbm (s : State) : Nat := if s.grade = .p1 then Config.hbmBytes / 4 else Config.hbmBytes

/-- One byte; a byte that nothing has written reads 0 (log 2). -/
def State.byte (s : State) (loc : Nat) : Byte := Tab.get 0 s.mem loc
def State.bytesAt (s : State) (loc n : Nat) : List Byte := (List.range n).map fun i => s.byte (loc + i)

/-- A little-endian value of bytes (R6). -/
def leNat : List Byte → Nat
  | [] => 0
  | b :: r => b.toNat + 256 * leNat r

/-- The little-endian bytes of a word of n bytes. -/
def le (n x : Nat) : List Byte := bytesOf n x

def State.readNat (s : State) (loc n : Nat) : Nat := leNat (s.bytesAt loc n)

/-- The memory with bytes written from a location on, in increasing address order. -/
def writeMem (m : List Host.Cell) (loc : Nat) : List Byte → List Host.Cell
  | [] => m
  | b :: r => writeMem (Tab.set 0 m loc b) (loc + 1) r

/-- The canonical form of memory: addresses strictly rising, no entry 0. -/
def Memory.wf (m : List Host.Cell) : Bool := Tab.wf 0 m

/-- A counter of which n bytes from a location on have been written: a task that sleeps on it is to be woken (R317). -/
def noticed (loc n : Nat) (w : Nat × Bool) : Nat × Bool := (w.1, w.2 || (decide (loc < w.1 + 8) && decide (w.1 < loc + n)))

/-- Poison of a range is replaced by that of the data written (R382), and every write is notified to the tasks that sleep on a
counter there (R317). -/
def State.store (s : State) (loc : Nat) (bs : List Byte) (bad : Bool := false) : State :=
  let rest := s.poison.filter fun x => !(decide (loc ≤ x) && decide (x < loc + bs.length))
  { s with
    mem := writeMem s.mem loc bs
    watch := s.watch.map (noticed loc bs.length)
    poison := if bad then rest ++ (List.range bs.length).map (loc + ·) else rest }

/-- A byte of the range is poisoned. -/
def State.poisoned (s : State) (loc n : Nat) : Bool :=
  s.poison.any fun x => decide (loc ≤ x) && decide (x < loc + n)

/-- Bytes with their poison marks (R382), bytes that bear none, and bytes without them. -/
def State.marked (s : State) (loc n : Nat) : List PByte :=
  (List.range n).map fun i => (s.byte (loc + i), s.poison.contains (loc + i))
def clean (bs : List Byte) : List PByte := bs.map fun b => (b, false)
def rawBytes (bs : List PByte) : List Byte := bs.map Prod.fst

/-- Bytes written with their marks. -/
def State.storeMarked (s : State) (loc : Nat) : List PByte → State
  | [] => s
  | (b, bad) :: r => (s.store loc [b] bad).storeMarked (loc + 1) r

/-- A read that consumes its data (R382): poisoned data is fatal under code 6. -/
def State.consume (s : State) (loc n : Nat) : Res Nat :=
  if s.poisoned loc n then .error (.fatal 6) else .ok (s.readNat loc n)

/-- An atomic add to an 8-byte counter at a location. -/
def State.addTo (s : State) (loc n : Nat) : Res State :=
  if s.poisoned loc 8 then .error (.fatal 6) else .ok (s.store loc (le 8 (s.readNat loc 8 + n)))

/-! ### Translation (R367-R371) -/

/-- Bits [63:57] equal bit 56 (R367). -/
def canonical (a : Word) : Bool :=
  let h := a.toNat / 2 ^ 56
  h == 0 || h == 255

/-- A physical read of a table entry; a table must lie in HBM4. -/
def State.pte (s : State) (pa : Nat) : Res Nat :=
  if pa + 8 ≤ s.hbm then s.consume pa 8 else .error .hole

/-- The permission of a leaf for an access kind and level (R369). -/
def permits (e : Nat) (k : AccKind) (lv : Level) : Bool :=
  let r := bits e 1 1 == 1
  let w := bits e 2 1 == 1
  let x := bits e 3 1 == 1
  (match k with
   | .read => r
   | .write => w
   | .exec => x
   | .amo => r && w) && !(bits e 6 1 == 1 && lv == .user)

/-- CheckGroup of R370: the 16 entries of the group that starts at `pa`, of which the first is `e0`. -/
def State.groupOk (s : State) (pa e0 : Nat) : Nat → Res Bool
  | 0 => .ok true
  | n + 1 => do
    let e ← s.pte (pa + 8 * n)
    let good := bits e 0 1 == 1 && bits e 4 2 == 3 && bits e 0 7 == bits e0 0 7 && bits e 12 40 == bits e0 12 40 + n
    if good then s.groupOk pa e0 n else .ok false

/-- A leaf found: the first va and pa of the page, its size, and bits [6:0] of its PTE. -/
structure Leaf where
  size : Nat
  pa : Nat
  perm : Nat
  deriving DecidableEq, Repr

/-- A kept pointer of a die's walk cache for an address (R371), lowest level first: the levels still to go and the table. -/
def Ctx.walkStart (x : Ctx) (die : Nat) (va : Word) : Nat × Nat :=
  match ([2, 3, 4, 5].filterMap fun l =>
    (x.walks.find? fun w => w.die == die && w.level == l && w.key == va.toNat / 2 ^ (12 + 9 * (l - 1))).map
      fun w => (l - 1, w.table)).head? with
  | some r => r
  | none => (5, x.record.ptroot.toNat)

/-- The walk of R369 from a table at `t`, with `lvl` levels to go; it stops at the leaf, before the permission check. -/
def State.walkFrom (s : State) (va : Word) (k : AccKind) : Nat → Nat → Res (Leaf × Nat)
  | 0, _ => .error .hole
  | lvl + 1, t => do
    let e ← s.pte (t + 8 * bits va.toNat (12 + 9 * lvl) 9)
    if bits e 0 1 == 0 then trapAcc .pageNotPresent va k (lvl + 1)
    else if bits e 52 12 != 0 || bits e 7 5 != 0 then trapAcc .pageReservedBit va k (lvl + 1)
    else if lvl ≥ 2 && bits e 4 1 == 1 then trapAcc .pageReservedBit va k (lvl + 1)
    else if lvl == 0 && bits e 4 1 == 0 then trapAcc .pageReservedBit va k (lvl + 1)
    else
      let leaf := lvl == 0 || (lvl == 1 && bits e 4 1 == 1)
      if !leaf then
        if bits e 1 6 != 0 then trapAcc .pageReservedBit va k (lvl + 1)
        else s.walkFrom va k lvl (bits e 12 40 * 4096)
      else if lvl == 1 then
        if bits e 5 1 == 1 || bits e 12 9 != 0 then trapAcc .pageReservedBit va k 2
        else .ok (⟨2 ^ 21, bits e 21 31 * 2 ^ 21, bits e 0 7⟩, 2)
      else if bits e 5 1 == 1 then do
        let first := t + 8 * (bits va.toNat 12 9 / 16 * 16)
        let e0 ← s.pte first
        let good ← s.groupOk first e0 16
        if good && bits e0 12 4 == 0 then .ok (⟨2 ^ 16, bits e0 12 40 * 4096, bits e 0 7⟩, 1)
        else trapAcc .pageReservedBit va k 1
      else .ok (⟨4096, bits e 12 40 * 4096, bits e 0 7⟩, 1)

/-- The slice at which a request of a die enters its memory network, and whose TLB translates it (R371). -/
def entryPort (die : Nat) (va : Word) : Nat := 48 * die + bits va.toNat 12 9 % 48

/-- The leaf that a request of a die uses: a kept translation where the TLB of its port holds one, else the walk of the die's
walker from the lowest pointer that its walk cache holds (R371). -/
def State.leafOf (s : State) (c : Nat) (va : Word) (k : AccKind) (die : Nat) : Res (Leaf × Nat) :=
  let x := s.ctxAt c
  match x.tlb.find? fun t =>
    t.port == entryPort die va && decide (t.va ≤ va.toNat) && decide (va.toNat < t.va + t.size) with
  | some t => .ok (⟨t.size, t.pa, t.perm.toNat⟩, if t.size = 2 ^ 21 then 2 else 1)
  | none => s.walkFrom va k (x.walkStart die va).1 (x.walkStart die va).2

/-- Translate of R83 for a canonical GLOBAL address, into a physical address; the package's own agents walk on die 0
(log 54). -/
def State.translate (s : State) (c : Nat) (va : Word) (k : AccKind) (lv : Level) (die : Nat := 0) : Res Nat := do
  let (l, n) ← s.leafOf c va k die
  if permits l.perm k lv then
    let pa := l.pa + va.toNat % l.size
    if pa < s.hbm then .ok pa else .error .hole
  else trapAcc .pageProtection va k n

/-! ### The checks of an access (R119, R269) -/

/-- Who makes an access: the tile, its context and partition, the level (R369). -/
structure Who where
  tile : Nat
  ctx : Nat
  part : Nat
  level : Level
  deriving DecidableEq, Repr

/-- The issuing task as the maker of an access. -/
def State.who (s : State) : Who := ⟨s.tile, s.cur.ctx.getD 0, s.cur.part.getD 0, s.me.level⟩

/-- The maker of the accesses of an engine word (R369). -/
def State.whoOf (s : State) (t : Nat) (e : Entry) : Who :=
  ⟨t, (s.tileAt t).ctx.getD 0, (s.tileAt t).part.getD 0, e.level⟩

/-- bits [63:52] of an address, and the offset below them (R269). -/
def spaceOf (a : Word) : Nat := a.toNat / 2 ^ 52
def offsetOf (a : Word) : Nat := a.toNat % 2 ^ 52

/-- The location of n bytes of a parcel from a va. Where they reach into another page, which they do in a parcel whose base is no
multiple of 64 alone, that page is checked too, and bytes that do not lie one after another are never reached (R11, log 82). -/
def State.translateSpan (s : State) (c : Nat) (va : Word) (n : Nat) (k : AccKind) (lv : Level) (die : Nat) : Res Nat := do
  let pa ← s.translate c va k lv die
  let m := 4096 - va.toNat % 4096
  if n ≤ m then .ok pa
  else do
    let q ← s.translate c (va + BitVec.ofNat 64 m) k lv die
    if q = pa + m then .ok pa else .error .hole

/-- The location of an n-byte access, or the first cause of R119 that it meets. An access to WEIGHT reaches no byte beyond the
share (R11, log 81). -/
def State.resolve (s : State) (w : Who) (a : Word) (n : Nat) (k : AccKind) : Res Nat :=
  let o := offsetOf a
  let b := o % 2 ^ 22
  let store := k == .write || k == .amo
  if a.toNat % n ≠ 0 then trapAcc .misaligned a k 0
  else if canonical a then s.translate w.ctx a k w.level (dieOf w.tile)
  else if spaceOf a = 0x800 then
    if o < Config.sramBytes then .ok (sramLoc w.tile o) else trapAcc .apertureMiss a k 0
  else if spaceOf a = 0x801 then
    if o < 2 ^ 24 ∧ b < Config.sramBytes then .ok (sramLoc (tileInBlock (blockOf w.tile) (o / 2 ^ 22)) b)
    else trapAcc .apertureMiss a k 0
  else if spaceOf a = 0x802 then
    let t := tileKey (o / 2 ^ 22 % 256) (o / 2 ^ 30)
    if o < 2 ^ 38 ∧ b < Config.sramBytes ∧ s.inPart w.part t then .ok (sramLoc t b)
    else trapAcc .apertureMiss a k 0
  else if spaceOf a = 0x803 then
    let sh := (s.partAt w.part).shares.get {} (dieOf w.tile)
    if o + n ≤ sh.size then
      if store then trapAcc .weightStoreWrite a k 0 else .ok (weightLoc (dieOf w.tile) (sh.base + o))
    else trapAcc .apertureMiss a k 0
  else if spaceOf a = 0x804 then
    match if o < 2 ^ 32 then (s.tileAt w.tile).windows.find (o / 2 ^ 28) else none with
    | none => trapAcc .apertureMiss a k 0
    | some x =>
      if o % 2 ^ 28 + n > x.len then trapAcc .parcelEscape a k 0
      else s.translateSpan w.ctx (x.base + BitVec.ofNat 64 (o % 2 ^ 28)) n k w.level (dieOf w.tile)
  else trapAcc .apertureMiss a k 0

/-- EscapeCheck of R83. -/
def escapes (x : Word) : Bool := spaceOf x == 0x804

/-- The word at a PC (R66). -/
def State.fetch (s : State) (pc : Word) : Res Nat :=
  if canonical pc then do
    let pa ← s.translate s.who.ctx pc .exec s.who.level (dieOf s.tile)
    .ok (s.readNat pa 4)
  else trapAcc .apertureMiss pc .exec 0

/-! ### Issue, delay slots, waiting -/

/-- A block is neither gated nor waking (R423). -/
def State.awake (s : State) (b : Nat) : Bool := (s.blockAt b).gate == .active || (s.blockAt b).gate == .hold

/-- The context of a tile has its turn on it: it has resumed and is not being taken off (R358, R359), and the block is awake
(R423). -/
def State.running (s : State) (t : Nat) : Bool :=
  s.awake (blockOf t) && (s.tileAt t).ctx.any fun c => (s.ctxAt c).resumed && !(s.ctxAt c).forced

/-- The cycles of a block's own clock, which a stretch slows to half (R422), and those of a tile. -/
def State.blockClock (s : State) (b : Nat) : Nat := s.clock - (s.blockAt b).lost / 2
def State.cyclesAt (s : State) (t : Nat) : Nat := s.blockClock (blockOf t)

/-- A task may issue: the package and its context run, the tile is neither halted nor switched, and the task is live, awake
and has given its YIELD its turn (R108, R113, R135, R340, R427). While a HALT waits for results in flight the other tasks of
its tile do not issue (log 55). -/
def State.canIssue (s : State) : Bool :=
  s.power.on && !s.power.halted && s.running s.tile && !s.cur.halted && !s.cur.switched &&
  (s.cur.halting == none || s.cur.halting == some (s.task : Nat)) && s.me.live && s.me.sleep.isNone &&
  (s.me.yielding == 0 || decide (s.me.yieldTo ≤ s.cyclesAt s.tile))

/-- The task after a unit of n words at its PC (R67, R99, R100). -/
def Task.advance (t : Task) (n : Nat) : Task :=
  match t.slot with
  | none => { t with pc := t.pc + BitVec.ofNat 64 (4 * n) }
  | some d =>
    if d.k + n ≤ 2 then { t with pc := t.pc + BitVec.ofNat 64 (4 * n), slot := some { d with k := d.k + n } }
    else
      { t with
        pc := if d.taken then d.target else t.pc - BitVec.ofNat 64 (4 * d.k) + 12
        slot := none }

/-- A task has issued, or stopped being ready: it no longer counts for a YIELD of another task (R108). -/
def Tile.unyield (t : Tile) (k : Nat) : Tile :=
  { t with tasks := t.tasks.map fun x => { x with yielding := x.yielding &&& ~~~((1 : BitVec 4) <<< k) } }

/-- Task `k` waits for no queue (R341). -/
def Tile.unqueue (t : Tile) (k : Nat) : Tile :=
  { t with queueWait := t.queueWait.map fun m => m &&& ~~~((1 : BitVec 4) <<< k) }

/-- Task `k` waits for room in the queue of one engine alone (R341, log 56). -/
def Tile.queued (t : Tile) (e : Eng) (k : Nat) : Tile :=
  let q := (t.unqueue k).queueWait
  { t with queueWait := q.set (engIdx e) (q[engIdx e] ||| ((1 : BitVec 4) <<< k)) }

/-- The slots after slot `k`, in turn; `k` itself is the last (R340, R341). -/
def slotsAfter (k : Fin 4) : List (Fin 4) := [k + 1, k + 2, k + 3, k]

/-- The task that the next free entry of an engine queue goes to, where tasks wait for one (R341). -/
def Tile.nextPusher (t : Tile) (e : Eng) : Option (Fin 4) :=
  (slotsAfter t.served[engIdx e]).find? fun k => t.queueWait[engIdx e].getLsbD k

/-- What every issue, a trap at issue among them, leaves on its tile: it is the last to have issued (R340), other tasks' YIELDs count it, its cycle is noted
(R338), its trap and its push wait no more. -/
def State.noted (s : State) : State :=
  s.updTile s.tile fun t =>
    { (t.unyield s.task).unqueue s.task with
      last := s.task
      lastIssue := s.cyclesAt s.tile
      trapWait := t.trapWait &&& ~~~((1 : BitVec 4) <<< (s.task : Nat)) }

/-- The issuing task has performed a unit of n words. -/
def State.issued (s : State) (n : Nat) : State := (s.updMe fun t => t.advance n).noted

/-- The agents whose turn could end a wait on a tile. -/
def wakingAgents : List Agent :=
  [.deliver, .landing 0 0, .landing 1 0, .landing 2 0, .landing 3 0, .landing 0 1, .landing 1 1, .landing 2 1, .landing 3 1,
   .head .v 1024, .head .m 1, .head .c 1, .head .l 256, .fire .v 0, .fire .m 0, .fire .m 1, .fire .m 2,
   .planeLoad 0, .planeLoad 1, .rowExit, .piece, .counterAdd, .followOn,
   .request, .response, .ack, .counterMsg, .send, .steal, .wake, .cast, .dispatch, .start]

/-- The turns that could end a wait on the issuing tile: a cycle passes, then its agents have their turns, then its sequencer. -/
def State.wakers (s : State) : List Turn :=
  .elapse 1 1 :: .leaseAdd :: wakingAgents.map (Turn.agent s.tile) ++ [.issue s.tile]

/-- The issuing task waits: nothing of its word happens. It stops being ready (R108), and where the agenda holds nothing,
the agents of its tile get their turns (log 1). -/
def State.waits (s : State) : State :=
  let s' := s.updTile s.tile fun t => t.unyield s.task
  if s'.agenda = [] then { s' with agenda := s.wakers } else s'

/-! ### Host rings and events (R431-R435, R442) -/

/-- Host memory as the device writes it (R431). -/
def State.hostWrite (s : State) (a : Nat) (bs : List Byte) : State := s.store (hostLoc a) bs

/-- The ring holds no further entry; a disabled ring takes none (R432). -/
def Ring.full (r : Ring) : Bool := r.k == 0 || decide (2 ^ r.k ≤ (r.prod - r.cons).toNat)

/-- Entry SEQ q of a ring lies at index (q - 1) mod 2^K (log 15). -/
def Ring.slotAddr (r : Ring) (size : Nat) (seq : BitVec 32) : Nat :=
  r.base.toNat + size * ((seq - 1).toNat % 2 ^ r.k)

/-- The next entry of a ring: its bytes after SEQ. -/
def State.ringPut (s : State) (r : Ring) (size : Nat) (body : List Byte) : State × Ring :=
  let seq := r.prod + 1
  (s.hostWrite (r.slotAddr size seq) (le 4 seq.toNat ++ body), { r with prod := seq })

/-- A vector of the MSI-X table: its message address, its message data, and the control word, of which bit 0 masks it; at reset
every vector is masked (R434, log 79). -/
def Vf.vector (v : Vf) (k : Nat) : BitVec 128 := v.msix.get (1 <<< 96) k

/-- A vector fires: its message leaves, or is pending while the vector is masked (R433, R434). -/
def Vf.signal (v : Vf) (k : Nat) : Vf :=
  if (v.vector k).getLsbD 96 then { v with pending := v.pending ||| ((1 : Byte) <<< k) }
  else { v with sent := v.sent.put k (v.sent.get 0 k + 1) }

/-- Vector 0 and vector 1 fire when PROD passes CONS and no message is outstanding (R433). -/
def Vf.fire (v : Vf) : Vf :=
  let c := v.cq.prod != v.cq.cons && !v.msiC && !v.flr
  let e := v.eq.prod != v.eq.cons && !v.msiE && !v.flr
  let v := if c then { v.signal 0 with msiC := true } else v
  if e then { v.signal 1 with msiE := true } else v

/-- Held completions, in order, into the ring while it has room (R432). -/
def State.drainC (s : State) (c : Nat) : List (List Byte) → State
  | [] => s.updCtx c fun x => { x with vf := { x.vf with heldC := [] }.fire }
  | b :: r =>
    let v := (s.ctxAt c).vf
    if v.cq.full then s.updCtx c fun x => { x with vf := { x.vf with heldC := b :: r }.fire }
    else
      let (s', q) := s.ringPut v.cq 32 b
      (s'.updCtx c fun x => { x with vf := { x.vf with cq := q } }).drainC c r

/-- Held events, in order; the events lost so far are reported by the next entry delivered. -/
def State.drainE (s : State) (c : Nat) : List (List Byte) → State
  | [] => s.updCtx c fun x => { x with vf := { x.vf with heldE := [] }.fire }
  | b :: r =>
    let v := (s.ctxAt c).vf
    if v.eq.full then s.updCtx c fun x => { x with vf := { x.vf with heldE := b :: r }.fire }
    else
      let (s', q) := s.ringPut v.eq 32 (b.take 2 ++ le 2 (min v.lost 65535) ++ b.drop 4)
      (s'.updCtx c fun x => { x with vf := { x.vf with eq := q, lost := 0 } }).drainE c r

/-- A completion entry of a host submission (R431, R432). -/
def State.postCompletion (s : State) (c status queue : Nat) (seq num : BitVec 32) : State :=
  let b := [BitVec.ofNat 8 status, BitVec.ofNat 8 queue, 0, 0] ++ le 4 seq.toNat ++ le 4 num.toNat ++ List.replicate 16 0
  s.drainC c ((s.ctxAt c).vf.heldC ++ [b])

/-- An entry of a VF event queue; up to 256 are held, later ones are counted (R432). -/
def State.postEvent (s : State) (c code : Nat) (body : List Byte) : State :=
  let v := (s.ctxAt c).vf
  let b := le 2 code ++ [0, 0] ++ body ++ List.replicate (24 - body.length) 0
  if v.heldE.length ≥ 256 then s.updCtx c fun x => { x with vf := { x.vf with lost := x.vf.lost + 1 } }
  else s.drainE c (v.heldE ++ [b])

/-- The persistent event log: 65,536 records, the oldest overwritten (R442). -/
def Mgmt.logRec (m : Mgmt) (r : List Byte) : Mgmt :=
  if m.log.length < 65536 then { m with log := m.log ++ [r] }
  else { m with log := m.log.drop 1 ++ [r], wraps := m.wraps + 1 }

/-- Held entries of the management event queue into its ring (R435). -/
def State.drainM (s : State) : List (List Byte) → State
  | [] => { s with mgmt := { s.mgmt with held := [] } }
  | b :: r =>
    if s.mgmt.ring.full then { s with mgmt := { s.mgmt with held := b :: r } }
    else
      let (s', q) := s.ringPut s.mgmt.ring 64 (b.take 2 ++ le 2 (min s.mgmt.lost 65535) ++ b.drop 4)
      ({ s' with mgmt := { s'.mgmt with ring := q, lost := 0 } } : State).drainM r

/-- An entry of the management event queue, appended to the event log as well (R435, R442): class, code, partition and
context (none: 0xFFFF), body. A record of the log has 32 bytes: of a link event the record of R401, which is its body after the 12 bytes
before it, of the others the entry without its SEQ, of which the rest is 0. -/
def State.postMgmt (s : State) (cls code : Nat) (part ctx : Option Nat) (body : List Byte) : State :=
  let b := le 2 cls ++ [0, 0] ++ le 2 code ++ le 2 (part.getD 65535) ++ le 2 (ctx.getD 65535) ++ [0, 0] ++ body ++
    List.replicate (48 - body.length) 0
  let s : State := { s with mgmt := s.mgmt.logRec (if cls = 1 then (b.drop 12).take 32 else b.take 32) }
  if s.mgmt.held.length ≥ 1024 then { s with mgmt := { s.mgmt with lost := s.mgmt.lost + 1 } }
  else s.drainM (s.mgmt.held ++ [b])

/-! ### The kennel and the directory in memory -/

/-- KSTATE of a context (R355). -/
def State.kstate (s : State) (c : Nat) : Nat := s.readNat (s.ctxAt c).record.kennel.toNat 4
def State.setKstate (s : State) (c v reason : Nat) : State :=
  s.store (s.ctxAt c).record.kennel.toNat (le 4 v ++ le 4 reason)

/-- The slots of a context's parcel directory that hold a handle (R373), found from the bytes that memory lists. -/
def State.dirUsed (s : State) (c : Nat) : List Nat :=
  let base := (s.ctxAt c).record.pdir.toNat
  ((s.mem.filter fun kv => decide (base ≤ kv.1) && decide (kv.1 < base + 2 ^ 21) && decide ((kv.1 - base) % 32 < 8)).map
    fun kv => (kv.1 - base) / 32).foldl addOnce []

/-- The probe of R374 for handle h from slot j of the directory at `base`: the matching slot. -/
def State.probe (s : State) (base : Nat) (h : Word) : Nat → Nat → Option Nat
  | 0, _ => none
  | n + 1, j =>
    let hd := s.readNat (base + 32 * j) 8
    if hd = h.toNat && !(s.byte (base + 32 * j + 23)).getLsbD 0 then some j
    else if hd = 0 then none
    else s.probe base h n ((j + 1) % 65536)

/-- The first slot of the probe path (R374). -/
def probeStart (h : Word) : Nat := bits h.toNat 8 16 ^^^ bits h.toNat 48 8

/-- The slot of a handle in a context's directory (R374). -/
def State.dirFind (s : State) (c : Nat) (h : Word) : Option Nat :=
  if h = 0 then none else s.probe (s.ctxAt c).record.pdir.toNat h 65536 (probeStart h)

/-- A slot is deleted: its entry is FREE, its handle stays (R374). -/
def State.dirDelete (s : State) (c j : Nat) : State :=
  s.store ((s.ctxAt c).record.pdir.toNat + 32 * j + 20) ([0, 0, 0, 1] ++ List.replicate 8 0)

/-- Every parcel of the context is freed, in every state (R157): its slots are marked DELETED. -/
def State.freeParcels (s : State) (c : Nat) : State :=
  (s.dirUsed c).foldl (fun s j => s.dirDelete c j) s

/-- The probe of R374 for handle h whose entry is in a state that `ok` admits: a parcel that comes back to a context that keeps
its tombstone has a second entry there (R147, log 59). -/
def State.probeState (s : State) (base : Nat) (h : Word) (ok : Nat → Bool) : Nat → Nat → Option Nat
  | 0, _ => none
  | n + 1, j =>
    let hd := s.readNat (base + 32 * j) 8
    if hd = h.toNat && !(s.byte (base + 32 * j + 23)).getLsbD 0 && ok (s.readNat (base + 32 * j + 20) 1) then some j
    else if hd = 0 then none
    else s.probeState base h ok n ((j + 1) % 65536)

/-- The slot of a handle whose entry is in a state that `ok` admits. -/
def State.dirFindIn (s : State) (c : Nat) (h : Word) (ok : Nat → Bool) : Option Nat :=
  if h = 0 then none else s.probeState (s.ctxAt c).record.pdir.toNat h ok 65536 (probeStart h)

/-- A parcel on its way from a context that is gone or dead gives up the entry that its receiver reserved (R147, R157). -/
def State.release (s : State) (t : Transit) : State :=
  if t.stage = 0 || t.offer.dstPkg != s.pkg.toNat ||
      (t.offer.srcPkg == s.pkg.toNat && t.offer.srcCtx == t.offer.dstCtx) || t.stage = 2 then s
  else match s.dirFindIn t.offer.dstCtx t.offer.handle (· == 3) with
    | none => s
    | some j => s.dirDelete t.offer.dstCtx j

/-- A tile without its context: what is left of its trap registers after a fatal event is its code in STICKY (R381). -/
def Tile.ended (t : Tile) (code : Nat) : Tile :=
  { gv := t.gv, gm := t.gm, gc := t.gc, seed := t.seed,
    trap := { sticky := if code = 0 then t.trap.sticky else BitVec.ofNat 8 code } }

/-- The SRAM of a tile reads 0 (R24). -/
def State.zeroSram (s : State) (t : Nat) : State :=
  { s with
    mem := s.mem.filter fun kv => !(sramTile kv.1 == some t)
    poison := s.poison.filter fun x => !(sramTile x == some t) }

/-- Whether a packet belongs to a task of one of the tiles. -/
def Pkt.srcTile : Pkt → Nat
  | .req t .. | .resp t .. | .ack t .. | .counter t .. | .send t .. | .steal t .. | .peer t .. => t

/-- A region when the context of its request is removed (R298, R414): programming completes and the held beats go; before
that the old image stays live. -/
def Region.orphan (r : Region) (c : Nat) : Region :=
  if r.req.map RgnReq.ctx = some c then
    if r.state = 3 then
      { r with ports := r.ports.map fun q => (q.1, ({ q.2 with fifo := [], spill := [], taken := q.2.entered } : Port)) }
    else { r with req := none, state := if r.live.isSome then 4 else 0, held := false, drain := false }
  else r

/-- The tiles of a removed context stop: their queues, flags and packets go, and they are zeroed (R24, R361). -/
def State.stopTiles (s : State) (c code : Nat) : State :=
  let ts := s.ctxTiles c
  ts.foldl (fun s t => (s.zeroSram t).updTile t fun x => x.ended code)
    { s with pkts := s.pkts.filter fun p => !ts.contains p.srcTile }

/-- A hold that served a save is over. -/
def Region.unsave (r : Region) : Region :=
  if r.save then { r with save := false, held := r.state == 2 || r.state == 3, drain := false } else r

/-- A region loses its bindings and its frame counters (R26), and a binding change under way is answered no more. -/
def Region.uncast (r : Region) : Region :=
  { r with
    mask := 0
    pend := 0
    want := 0
    again := none
    answer := none
    ports := r.ports.map fun q => (q.1, ({ q.2 with frames := 0, errs := 0 } : Port)) }

/-- Its requests to region managers end (R414), and on the blocks on which it stands the hold of a save of it that was under way,
and the bindings and counters of the regions (R26). -/
def State.endRequests (s : State) (c : Nat) : State :=
  let p := (s.ctxAt c).record.part.toNat
  let mine := if (s.partAt p).now = some c then s.ctxBlocks p c else []
  { s with regions := s.regions.map fun kv =>
      (kv.1, if mine.contains kv.1 then (kv.2.orphan c).unsave.uncast else kv.2.orphan c) }

/-- Contexts bound to a partition. -/
def State.bound (s : State) (n : Nat) : List Nat :=
  (s.ctxs.filter fun kv => kv.2.exists_ && kv.2.record.part.toNat == n).map Prod.fst

/-- Entries of a context that found no room when it was bound enter the device queue of its partition, in order (R324, R348). -/
def State.unparkOne (s : State) (p c : Nat) : State :=
  let room := Config.deviceQueue - (s.partAt p).queue.length
  let es := (s.ctxAt c).parked
  (s.updPart p fun x => { x with queue := x.queue ++ es.take room }).updCtx c fun x => { x with parked := es.drop room }
def State.unpark (s : State) (p : Nat) : State :=
  if 64 ≤ p then s
  else ((s.bound p).filter fun c => (s.ctxAt c).parked != []).foldl (fun s c => s.unparkOne p c) s

/-- Serial order of launch numbers (R325). -/
def earlier (a b : BitVec 32) : Bool :=
  let d := (b - a).toNat
  decide (1 ≤ d) && decide (d < 2 ^ 31)

/-- Entries in the order of their launch numbers. -/
def byNumber (es : List DqEntry) : List DqEntry :=
  let ins := fun (x : DqEntry) l => l.takeWhile (fun y => earlier y.num x.num) ++ x :: l.dropWhile fun y => earlier y.num x.num
  es.foldr ins []

/-- Its device-queue entries are freed, without a DONE add; but under an FLR its host submissions receive REMOVED, in
launch-number order (R361, R436). -/
def State.freeEntries (s : State) (c : Nat) (flr : Bool) : State :=
  let p := (s.ctxAt c).record.part.toNat
  let mine := byNumber ((s.partAt p).queue.filter (fun e => e.ctx == c) ++ (s.ctxAt c).parked)
  let s : State := s.updPart p fun x =>
    let on := x.now == some c
    { x with
      queue := x.queue.filter fun e => e.ctx != c
      now := if on then none else x.now
      ending := x.ending && !on
      token := if on then [] else x.token
      regrid := x.regrid && !on
      out := x.out.filter fun t => (s.tileAt t).halted }
  if flr then s
  else mine.foldl (fun s e =>
    match e.host with
    | none => s
    | some (q, seq) => s.postCompletion c 4 q seq e.num) s

/-! ### The link layer toward a peer (R396, R397) -/

/-- The link layer toward a peer. -/
def State.linkTo (s : State) (peer : Nat) : Link := s.pod.links.get {} peer
def State.updLink (s : State) (peer : Nat) (f : Link → Link) : State :=
  { s with pod := { s.pod with links := s.pod.links.put peer (f (s.linkTo peer)) } }

/-- The active lines of a pair in increasing order, its stripe set (R396), and the same as a mask, bit ℓ for line ℓ (R401). -/
def stripeOf (ls : Tab Lane) (peer : Nat) : List Nat :=
  (List.range 32).filter fun l => (ls.find (32 * peer + l)).any fun y => y.active
def maskOf (lines : List Nat) : Nat := lines.foldl (fun m l => m + 2 ^ l) 0
def State.stripe (s : State) (peer : Nat) : List Nat := stripeOf s.pod.lanes peer
def State.activeMask (s : State) (peer : Nat) : Nat := maskOf (s.stripe peer)

/-- The line on which beat g of an epoch travels (R396). -/
def State.beatLine (s : State) (peer g : Nat) : Option Nat := (s.stripe peer)[g % (s.stripe peer).length]?

/-- The quotient rounded up. -/
def ceilDiv (a b : Nat) : Nat := (a + b - 1) / b

/-- Flits that a message takes: one for each request of a link word, each answer with data and each counter message, none for
the acknowledgement of a write, which rides in the lane framing (R403), nor for what the link layers tell each other; the bytes
of a parcel in flits of 256 (log 17). -/
def flitsOf : LinkMsg → Nat
  | .answer _ _ (.ok []) | .answer _ _ (.bad _) => 0
  | .offer _ bs => 1 + ceilDiv bs.length 256
  | .ack .. | .badCrc .. | .replay .. | .lost .. | .stripe .. | .pause .. => 0
  | _ => 1

/-- Flits that the replay buffer of 32 MiB has still room for (R397). -/
def State.replayRoom (s : State) : Nat :=
  131072 - (s.pod.links.map fun kv => kv.2.unacked.length).sum

/-- The next n flits toward a peer leave: they take sequence numbers and are kept until they are acknowledged. -/
def Link.emit (l : Link) (n : Nat) : Link :=
  { l with
    next := l.next + BitVec.ofNat 24 n
    unacked := l.unacked ++ (List.range n).map fun i => l.next + BitVec.ofNat 24 i
    outBeat := l.outBeat + 16 * n }

/-- The waiting messages leave in order while their flits have room; what is still to leave, and what has left whole. -/
def Link.depart (l : Link) (room : Nat) : List (LinkMsg × Nat) → Link × List LinkMsg
  | [] => ({ l with waiting := [] }, [])
  | (m, n) :: r =>
    if room < n then ({ l.emit room with waiting := (m, n - room) :: r }, [])
    else
      let d := (l.emit n).depart (room - n) r
      (d.1, m :: d.2)

/-- n beats of an epoch, from beat `first` on, travel on a pair: each lane of the stripe set counts its own (R391, R396). -/
def State.carry (s : State) (peer first n : Nat) : State :=
  let lines := s.stripe peer
  let k := lines.length
  let more := fun i => (n + k - 1 - (i + k - first % k) % k) / k
  { s with pod := { s.pod with lanes := s.pod.lanes.map fun kv =>
      if kv.1 / 32 = peer ∧ lines.contains (kv.1 % 32) then
        (kv.1, { kv.2 with beats := kv.2.beats + more (lines.idxOf (kv.1 % 32)) })
      else kv } }

/-- What waits for a peer leaves while the pair has an active lane (R399) and the buffer has room (R397); what takes no flit
does not wait for the buffer. -/
def State.drainLink (s : State) (peer : Nat) : State :=
  let l := s.linkTo peer
  if s.stripe peer = [] || l.waiting = [] then s
  else
    let framed := l.waiting.filter fun w => flitsOf w.1 == 0
    let d := l.depart s.replayRoom (l.waiting.filter fun w => flitsOf w.1 != 0)
    let s : State := { s.updLink peer fun _ => d.1 with sent := s.sent ++ framed.map Prod.fst ++ d.2 }
    s.carry peer l.outBeat (d.1.outBeat - l.outBeat)

/-- A message to a peer. -/
def State.tell (s : State) (peer : Nat) (m : LinkMsg) : State :=
  (s.updLink peer fun l => { l with waiting := l.waiting ++ [(m, flitsOf m)] }).drainLink peer

/-- The lanes have been `old`: where a pair's stripe set has changed, an epoch begins; an orderly change is fixed by a control
flit on the old set (R396). -/
def State.restripe (s : State) (old : Tab Lane) (orderly : Bool) : State :=
  (((old.map Prod.fst ++ s.pod.lanes.map Prod.fst).map (· / 32)).foldl addOnce []).foldl (fun s p =>
    if stripeOf old p = s.stripe p then s
    else
      let s := s.updLink p fun l => { l with epoch := l.epoch + 1, outBeat := 0, inBeat := 0 }
      if orderly && stripeOf old p != [] then { s with sent := s.sent ++ [.stripe p (s.activeMask p)] } else s) s

/-- A lane that is a lease of the context. -/
def Lane.leasedTo (l : Lane) (c : Nat) : Bool :=
  match l.own with
  | .lease k _ _ => k == c
  | _ => false

/-- What the context owned outside its tiles goes (R26, R157, R392): its ASKs resolve NULL, each adds to its counter, and its
lanes are free positions (R402); parcels on their way to it reserve nothing any more (log 76); its kennel, where it has one, becomes EMPTY unless
`keep`. -/
def State.endContext (s : State) (c : Nat) (keep : Bool) : State :=
  let mine := fun (t : Transit) => t.offer.srcPkg == s.pkg.toNat && t.offer.srcCtx == c
  let toward := fun (t : Transit) => t.offer.dstPkg == s.pkg.toNat && t.offer.dstCtx == c
  let s := (s.transits.filter mine).foldl State.release s
  let asks := (s.pod.adds ++ s.pod.asks).filter fun a => a.ctx == c
  let s := ({ s with
    transits := (s.transits.filter fun t => !mine t && !(toward t && t.offer.srcPkg != s.pkg.toNat)).map fun t =>
      if toward t && t.stage == 1 then { t with stage := 3 } else t
    pod := { s.pod with
      asks := s.pod.asks.filter fun a => a.ctx != c
      adds := s.pod.adds.filter fun a => a.ctx != c
      lanes := s.pod.lanes.filter fun kv => !kv.2.leasedTo c } } : State).restripe s.pod.lanes true
  let s := (asks.filterMap Ask.ctr).foldl (fun s l => (s.addTo l 1).toOption.getD s) s
  let s : State := if keep || (s.ctxAt c).record.klen == 0 then s else s.setKstate c 0 0
  { s with mgmt := { s.mgmt with answers := s.mgmt.answers ++ (s.ctxAt c).shoots.map fun (x : Shoot) => Answer.shootdown c x.va x.len } }.updCtx
    c fun x => { exists_ := x.exists_, vf := x.vf, era := x.era }

/-! ### Partitions on the mesh (R344-R347) -/

/-- The rectangle of a descriptor as a list of blocks. -/
def descBlocks (d : BitVec 64) : List Nat :=
  (List.range (descBH d)).flatMap fun j => (List.range (descBW d)).map fun i => blockKey (descX0 d + i) (descY0 d + j)

/-- The rejections of R345 for partition n. -/
def State.descBad (s : State) (n : Nat) (d : BitVec 64) : Bool :=
  decide (s.blockSide < descX0 d + descBW d) || decide (s.blockSide < descY0 d + descBH d) || descWcap d == 3 ||
    (descBlocks d).any fun b =>
      s.fused.contains b || s.parts.any fun kv => kv.1 != n && descValid kv.2.desc && inDesc kv.2.desc b

/-- A partition takes a descriptor; WAYMASK goes to every slice (R344). -/
def State.putDesc (s : State) (n : Nat) (d : BitVec 64) : State :=
  s.updPart n fun x => { x with desc := d, ways := [] }

/-- The bindings and frame counters of a block's region go, and the hold of a save (R26, R345). -/
def State.unbindRegion (s : State) (b : Nat) : State := s.updRegion b fun r => r.unsave.uncast

/-- A tile of context c starts afresh: zeroed, with TVEC0 (R21, R24). The rounding generators stay as they are (R26), and so
does MISS of its router, which a cast-on clears (R310). -/
def State.freshTile (s : State) (p c t : Nat) : State :=
  (s.zeroSram t).updTile t fun x =>
    { x.ended 0 with ctx := some c, part := some p, miss := x.miss, trap := { tvec := (s.ctxAt c).record.tvec0 } }

/-- A tile stops belonging to its context. -/
def State.freeTile (s : State) (t : Nat) : State := (s.zeroSram t).updTile t fun x => { x.ended 0 with miss := x.miss }

/-- No tile of a block holds work of another partition than `p`: the block has left that one, and `p` may use it (R345). -/
def State.clearFor (s : State) (p b : Nat) : Bool :=
  s.tiles.all fun kv => blockOf kv.1 != b || kv.2.ctx.isNone || kv.2.part == some p

/-- A free tile of a block that has left every other partition (R345) joins the context that runs on the partition which holds it
(R347); during a slice switch the bind-off token may have passed its place (R353). -/
def State.joinTile (s : State) (t : Nat) : State :=
  match s.parts.find? fun kv =>
    s.inPart kv.1 t && s.clearFor kv.1 (blockOf t) && kv.2.now.any fun c => (s.ctxAt c).resumed with
  | none => s
  | some (p, x) =>
    if (s.tileAt t).ctx.isNone then
      (s.freshTile p (x.now.getD 0) t).updTile t fun y => { y with passed := x.ending && !x.token.contains t }
    else s

/-- The free tiles of the blocks of some tiles join. -/
def State.joinBlocks (s : State) (ts : List Nat) : State :=
  (((ts.map blockOf).foldl addOnce []).flatMap fun b => (List.range 4).map (tileInBlock b)).foldl State.joinTile s

/-- A tile of context work still stands on a block for partition n. -/
def State.leaving (s : State) (n b : Nat) : Bool :=
  s.tiles.any fun kv => kv.2.part == some n && kv.2.ctx.isSome && blockOf kv.1 == b

/-- An accepted resize (R346, R347): halted tiles are free again (R113), a block that no task of the partition holds has left
it, the tiles that join start afresh, and the active graphs of the resident context are to be cast on again. -/
def State.applyDesc (s : State) (n : Nat) (d : BitVec 64) : State :=
  let old := s.partBlocks n
  let halted := (s.tiles.filter fun kv => kv.2.halted && kv.2.part == some n).map Prod.fst
  let s := halted.foldl State.freeTile (s.putDesc n d)
  let s := (old.filter fun b => !inDesc d b && !s.leaving n b).foldl State.unbindRegion s
  let s := s.updPart n fun x => { x with out := [], resize := none }
  match (s.partAt n).now with
  | none => s
  | some c =>
    let joins := (s.partTiles n).filter fun t => (s.tileAt t).ctx.isNone && s.clearFor n (blockOf t)
    (joins.foldl (fun s t => s.freshTile n c t) s).updPart n fun x =>
      { x with regrid := x.queue.any fun e => e.ctx == c && e.slot.isSome }

/-- What the management interface answers of its own accord. -/
def State.reply (s : State) (a : Answer) : State := { s with mgmt := { s.mgmt with answers := s.mgmt.answers ++ [a] } }

/-- A resize (R346): rejected, deferred while a slice switch is under way, or accepted. -/
def State.resize (s : State) (n : Nat) (d : BitVec 64) : State :=
  let x := s.partAt n
  if s.descBad n d then s
  else if (s.bound n).any fun c => s.kstate c == 2 then s.reply (.savedMidnode n)
  else if x.ending || x.now.any (fun c => !(s.ctxAt c).resumed) then s.updPart n fun y => { y with resize := some d }
  else s.applyDesc n d

/-- A resize that waited for a slice switch takes effect when the switch has ended; after a forced save it is rejected (R346,
R363). -/
def State.lateResize (s : State) (p : Nat) : State :=
  match (s.partAt p).resize with
  | none => s
  | some d => (s.updPart p fun x => { x with resize := none }).resize p d

/-- Removal of a context (R361): its tiles stop, flush their queues, lose their flags and are zeroed; what is on its way for
it is discarded; its device-queue entries are freed without a DONE add, host submissions receive REMOVED in launch-number
order (none under an FLR); its parcels and leases are freed; its kennel becomes EMPTY unless `keep`. `code` is the fatal
code that STICKY keeps, 0 for none. What waited for its partition goes on. -/
def State.removeContext (s : State) (c code : Nat) (flr keep : Bool) : State :=
  let p := (s.ctxAt c).record.part.toNat
  let ts := s.ctxTiles c
  let s := ((((s.endRequests c).stopTiles c code).freeEntries c flr).freeParcels c).endContext c keep
  ((s.joinBlocks ts).unpark p).lateResize p

/-- The bound partition of a context. -/
def State.partOf (s : State) (c : Nat) : Option Nat :=
  let r := (s.ctxAt c).record.part.toNat
  if (s.ctxAt c).exists_ && decide (r < 64) then some r else none

/-- The events of a fatal code (R381, R431, R435): the partition and the tile, 0xFFFF where the context stands on none (log 19). -/
def State.postFatal (s : State) (t : Option Nat) (c code : Nat) : State :=
  let part := match t with
    | some t => (s.tileAt t).part
    | none => s.partOf c
  let place := match t with
    | some t => [BitVec.ofNat 8 (tileY t), BitVec.ofNat 8 (tileX t)]
    | none => [0xFF, 0xFF]
  (s.postEvent c 4 (le 1 code)).postMgmt 2 code part (some c) place

/-- A fatal event of a context (R381): STICKY, events to system software, removal. -/
def State.fatalAt (s : State) (t : Option Nat) (c code : Nat) : State :=
  let s := s.postFatal t c code
  s.removeContext c code false (s.kstate c == 3)

/-- The same at a tile. -/
def State.fatal (s : State) (t c code : Nat) : State := s.fatalAt (some t) c code

/-- The same for a context of which no tile is at fault: the first of its tiles stands for it. -/
def State.fatalCtx (s : State) (c code : Nat) : State := s.fatalAt (s.ctxTiles c).head? c code

/-- An event of an agent that acts for context `c`: poisoned data consumed ends that context (R381, R382); what cannot happen
now leaves the state as it is. -/
def State.eventCtx (s : State) (c : Nat) (r : Res State) : Out :=
  match r with
  | .ok s' => .next s'
  | .error (.fatal k) => .next (s.fatalCtx c k)
  | .error _ => .next s

/-! ### Waking a block (R423) -/

/-- The place of a block in row-major order (R14). -/
def rowMajor (b : Nat) : Nat := b % 16 * 16 + b / 16

/-- A block takes its place among those that wait for the in-rush arbiter: in the order of the requests, those of one cycle in
row-major order (R424). -/
def State.askWake (s : State) (b : Nat) : List Nat → List Nat
  | [] => [b]
  | y :: r =>
    if (s.blockAt y).since = s.clock ∧ rowMajor b < rowMajor y then b :: y :: r else y :: s.askWake b r

/-- A wake cause reaches a block: HOLD ends at once, also in the cycle of its expiry; a GATED block asks the in-rush arbiter
(R423, R424). -/
def State.wakeBlock (s : State) (b : Nat) : State :=
  match (s.blockAt b).gate with
  | .hold => s.updBlock b fun x => { x with gate := .active }
  | .gated =>
    if (s.blockAt b).since = s.clock then s.updBlock b fun x => { x with gate := .active }
    else
      let s := s.updBlock b fun x => { x with gate := .waking, since := s.clock }
      { s with power := { s.power with inrush := s.askWake b s.power.inrush } }
  | _ => s

/-! ### Taking an exception and returning from one (R377-R380) -/

/-- The field KIND of TSTAT (R376). -/
def AccKind.code : AccKind → BitVec 2
  | .read => 0
  | .write => 1
  | .exec => 2
  | .amo => 3

/-- The code of a cause (R80). -/
def Cause.code : Cause → BitVec 6
  | .illegalEncoding => 0x01
  | .privileged => 0x02
  | .misaligned => 0x03
  | .apertureMiss => 0x04
  | .pageNotPresent => 0x05
  | .pageProtection => 0x06
  | .pageReservedBit => 0x07
  | .tensorBounds => 0x08
  | .weightStoreWrite => 0x09
  | .parcelAbsent => 0x0A
  | .parcelEscape => 0x0B
  | .parcelPinned => 0x0C
  | .peerDead => 0x0D
  | .vwinNone => 0x0E
  | .accExhausted => 0x0F
  | .formatMismatch => 0x10
  | .portUnbound => 0x11
  | .tokenRange => 0x12
  | .arith => 0x13
  | .software => 0x14
  | .watchdog => 0x15
  | .preempt => 0x16
  | .delaySlot => 0x17

/-- The trap registers after a trap of the task in slot `k` (R100, R377): every one but TVEC, SSCRATCH and STICKY. -/
def TrapRegs.take (r : TrapRegs) (i : TrapInfo) (k src : Nat) (t : Task) (tpc : Word) : TrapRegs :=
  { r with
    tcause := i.cause.code
    taddr := i.addr
    tpc := tpc
    kind := i.kind.code
    level := BitVec.ofNat 4 i.level
    task := BitVec.ofNat 2 k
    src := BitVec.ofNat 3 src
    plev := t.level
    busy := true
    holder := BitVec.ofNat 2 k
    tdsl := match t.slot with
      | none => 0
      | some d => BitVec.ofNat 3 (d.k + if d.taken then 4 else 0)
    tdtgt := match t.slot with
      | some d => if d.taken then d.target else r.tdtgt
      | none => r.tdtgt }

/-- The task after a trap (R377). -/
def Task.enter (t : Task) (tvec : Word) : Task :=
  { t with level := .supervisor, pc := tvec, slot := none, sleep := none, seen := 0, yielding := 0, asked := .no }

/-- Entry into a trap of task `k` on tile `t` from source `src` (R376), with TPC; with TVEC 0 it is fatal (R377, R381). A HALT at
which the task waits keeps its stop of the other tasks through the handler (R113 does not say; log 55). -/
def State.enterTrap (s : State) (t k src : Nat) (i : TrapInfo) (tpc : Word) : State :=
  let x := s.tileAt t
  if x.trap.tvec = 0 then s.fatal t (x.ctx.getD 0) 5
  else
    s.setTile t (({ x.unqueue k with trap := x.trap.take i k src (x.taskAt k) tpc,
                                     trapWait := x.trapWait &&& ~~~((1 : BitVec 4) <<< k) }.updTask k fun y => y.enter x.trap.tvec))

/-- A cause that waits must be delivered before an issue-time trap of task `k` (R380): an engine fault that waited for
BUSY, or the waiting trap of a lower slot. -/
def Tile.mustWait (t : Tile) (k : Nat) : Bool :=
  t.faults.any (·.waited) || (t.trapWait &&& BitVec.ofNat 4 (2 ^ k - 1)) != 0

/-- An issue-time trap of the issuing task (R377, R380), with TPC. -/
def State.issueTrap (s : State) (i : TrapInfo) (tpc : Word) : State :=
  let x := s.cur
  if x.trap.busy then
    if x.trap.holder.toNat = s.task then s.fatal s.tile (x.ctx.getD 0) 4
    else (s.updTile s.tile fun t => { t with trapWait := t.trapWait ||| ((1 : BitVec 4) <<< (s.task : Nat)) }).waits
  else if x.mustWait s.task then
    (s.updTile s.tile fun t => { t with trapWait := t.trapWait ||| ((1 : BitVec 4) <<< (s.task : Nat)) }).waits
  else s.noted.enterTrap s.tile s.task 0 i tpc

/-- The return from a trap (R100, R379): the task resumes at TPC, at level PLEV, inside its delay slot if it trapped in one,
before a target that is a multiple of 4 as every PC is (R66, log 43); BUSY clears, what waited for it, where it was 1, is next, and the engine
that SRC names performs its held word again. -/
def Tile.rte (t : Tile) (k : Nat) : Tile :=
  let r := t.trap
  let slot : Option DelaySlot :=
    if bits r.tdsl.toNat 0 2 = 1 ∨ bits r.tdsl.toNat 0 2 = 2 then
      some ⟨bits r.tdsl.toNat 0 2, bits r.tdsl.toNat 2 1 == 1, r.tdtgt &&& ~~~3⟩
    else none
  let free := fun (q : List Entry) => q.map fun e =>
    if t.faults.any fun f => f.uid == e.uid then e else ({ e with faulted := false } : Entry)
  let t : Tile := if r.busy then
      match r.src.toNat with
      | 1 => { t with vq := free t.vq }
      | 2 => { t with mq := free t.mq }
      | 3 => { t with cq := free t.cq }
      | 4 => { t with lq := free t.lq }
      | _ => t
    else t
  let t : Tile := { t with
    trap := { r with busy := false }
    faults := if r.busy then t.faults.map fun f => { f with waited := true } else t.faults }
  t.updTask k fun x => { x with pc := r.tpc, level := r.plev, slot := slot }

/-- A word of the issuing task whose operation is done gives `s`; one that stops waits, traps at `tpc` or ends the context.
What meets no memory waits for ever (log 7). -/
def State.finish (s : State) (tpc : Word) : Res State → Out
  | .ok s' => .next s'
  | .error .wait => .next s.waits
  | .error (.full e) => .next (s.updTile s.tile fun t => t.queued e s.task).waits
  | .error (.trap i) => .next (s.issueTrap i tpc)
  | .error (.fatal c) => .next (s.fatal s.tile (s.cur.ctx.getD 0) c)
  | .error .hole => .next s.waits

/-! ### The steps of R67 for a sequencer word -/

/-- Privileged(w) of R67 (R77). -/
def privilegedWord : Instr → Bool
  | .rgnLoad .. | .rgnStat .. | .rgnBind .. | .rte .. | .halt .. => true
  | .mfs _ _ r => sregSupervisor r.toNat
  | .mts _ _ r => sregSupervisor r.toNat || sregUserReads r.toNat
  | _ => false

/-- What a sequencer word reads and writes under the scoreboard (R85): scalar and predicate sources, and destinations. -/
structure Board where
  src : List (BitVec 5) := []
  psrc : List (BitVec 3) := []
  dst : List (BitVec 5) := []
  pdst : List (BitVec 3) := []

/-- A register that the word names is pending (R85). -/
def Board.blocked (b : Board) (t : Task) : Bool :=
  b.src.any t.sPending || b.dst.any t.sPending || b.psrc.any t.pPending || b.pdst.any t.pPending

/-- The checks of R67 that come before the guard, on the issuing task. -/
def State.preChecks (s : State) (w : Instr) : Res Unit :=
  if !w.wf then trapOf .illegalEncoding 0
  else if s.me.slot.isSome && w.branchClass then trapOf .delaySlot 0
  else if privilegedWord w && s.me.level == .user then trapOf .privileged 0
  else .ok ()

/-- One issue of a sequencer word (R67, R68, R85, R87): the checks, the guard, the scoreboard, then the operation, which
moves the PC itself. -/
def State.runWord (s : State) (w : Instr) (g : Guard) (b : Board) (op : State → Res State) : Out :=
  if !s.canIssue then .next s.waits
  else s.finish s.me.pc do
    s.preChecks w
    if s.me.pPending g.p then .error .wait
    else if !s.me.guard g then .ok (s.issued 1)
    else if b.blocked s.me then .error .wait
    else op s

/-- The guard of the unguarded formats. -/
def always : Guard := ⟨false, 0⟩

/-- A sequencer word that performs and goes on to the next word. -/
def State.plain (s : State) (w : Instr) (g : Guard) (b : Board) (op : State → Res State) : Out :=
  s.runWord w g b fun s => (op s).map fun s' => s'.issued 1

end Sys2Proof.Machine
end

