-- ==== Sys2Proof/Machine/Operands.lean ====
section
/-! DEFINITION. Operands.lean: the operand forms (R69, R70): immediates, effective addresses, row words, tokens, endpoints,
package selectors, and the scalar registers that an engine word captures at its push (R78). -/

namespace Sys2Proof.Machine

/-- A sign-extended immediate as a word (R69). -/
def simm {n : Nat} (x : BitVec n) : Word := x.signExtend 64

/-- A zero-extended immediate (R69). -/
def uimm {n : Nat} (x : BitVec n) : Word := x.zeroExtend 64

/-- A word offset from a PC (R93, R97). -/
def pcRel {n : Nat} (pc : Word) (x : BitVec n) : Word := pc + simm x * 4

/-- The effective address of an M-format access of n bytes (R124). -/
def mAddr (base : Word) (x : BitVec 9) (n : Nat) : Word := base + simm x * BitVec.ofNat 64 n

/-- Bytes of a size code (R70), and of an atomic width. -/
def sizeBytes : Size → Nat
  | .b8 => 1
  | .h16 => 2
  | .w32 => 4
  | .d64 => 8
def wdBytes : Wd → Nat
  | .w32 => 4
  | .d64 => 8

/-- The low n bytes of a word, least significant first. -/
def wordBytes (n : Nat) (v : Word) : List Byte := bytesOf n v.toNat

/-- A value of n bytes as a register receives it (R124). -/
def extend (n : Nat) (signed : Bool) (x : Nat) : Word := if signed then wrap64 (sext x (8 * n)) else BitVec.ofNat 64 x

/-- A row word (R195): first row and count. -/
def rowFirst (w : Word) : Nat := bits w.toNat 0 7
def rowCount (w : Word) : Nat := min (bits w.toNat 8 8) (128 - rowFirst w)

/-- A token field of a DEP: engine and back-distance, none when the distance is 0 (R70). -/
def depField (x : BitVec 7) : Option (Eng × Nat) :=
  if x.toNat % 32 = 0 then none else (Eng.ofCode (x.toNat / 32)).map fun e => (e, x.toNat % 32)

/-- A tile named by x in [15:8] and y in [7:0] (R140, R145). -/
def tileSel (w : Word) : Nat := bits w.toNat 0 16

/-- Byte count, package and the bits that must be 0 of S(c) of a link word (R234). -/
def linkCount (c : Word) : Nat := bits c.toNat 0 32
def linkPkg (c : Word) : Nat := bits c.toNat 40 8
def linkClean (c : Word) : Bool := bits c.toNat 32 8 == 0 && bits c.toNat 48 16 == 0

/-- A scope that may name another package (R234). -/
def Scope.farOf (s : Scope) : Bool := s.code ≥ 5

/-- The engine of a word: POST is pushed to L (R78). -/
def engineOf (w : Instr) : Option Eng :=
  match w with
  | .post .. => some .l
  | _ => w.engine?

/-- The scalar registers that an engine word captures at its push as S(a), S(b) and S(c) (R78); 0 where it has none. -/
def captures : Instr → BitVec 5 × BitVec 5 × BitVec 5
  | .vbcast _ a _ _ => (a, 0, 0)
  | .vslide _ _ b _ _ => (0, b, 0)
  | .vmovs _ a b _ => (a, b, 0)
  | .vext _ _ b _ => (0, b, 0)
  | .viota .. => (0, 0, 0)
  | .vld _ a _ _ => (a, 0, 0)
  | .vlds _ a x _ _ => (a, x, 0)
  | .vgath _ a _ _ _ => (a, 0, 0)
  | .vst _ a _ _ => (a, 0, 0)
  | .vsts _ a x _ _ => (a, x, 0)
  | .vscat _ a _ _ _ => (a, 0, 0)
  | .vamoAdd _ _ a _ _ _ => (a, 0, 0)
  | .vamoOr _ _ a _ _ _ => (a, 0, 0)
  | .vamoAnd _ _ a _ _ _ => (a, 0, 0)
  | .vamoXor _ _ a _ _ _ => (a, 0, 0)
  | .vamoMin _ _ a _ _ _ => (a, 0, 0)
  | .vamoMax _ _ a _ _ _ => (a, 0, 0)
  | .mldw a _ _ _ => (a, 0, 0)
  | .mtag a => (a, 0, 0)
  | .mmul _ b _ _ _ _ => (0, b, 0)
  | .mmulz _ b _ _ _ _ => (0, b, 0)
  | .mlda _ b _ _ => (0, b, 0)
  | .mrd _ _ b _ _ _ => (0, b, 0)
  | .mrds _ _ b _ _ _ => (0, b, 0)
  | .sbdef _ a b => (a, b, 0)
  | .stdef _ a b => (a, b, 0)
  | .stdim _ a b => (a, b, 0)
  | .stpos _ a => (a, 0, 0)
  | .copy _ _ a b => (a, b, 0)
  | .copym _ _ a b => (a, b, 0)
  | .cqnt _ _ a b => (a, b, 0)
  | .cexp _ _ a b => (a, b, 0)
  | .ccvt _ _ a b => (a, b, 0)
  | .cfill _ a b => (a, b, 0)
  | .rld a b c _ => (a, b, c)
  | .rst a b c _ => (a, b, c)
  | .ramo a b c _ _ => (a, b, c)
  | .lcnt a => (a, 0, 0)
  | .leaseAsk a b c => (a, b, c)
  | .leaseGive a b => (a, b, 0)
  | .leaseStat a b => (a, b, 0)
  | .fctl a b => (a, b, 0)
  | .fstat a b => (a, b, 0)
  | .post _ a b => (a, b, 0)
  | _ => (0, 0, 0)

/-- The scalar and predicate registers that an engine word writes when it performs, marked pending at its push (R78). -/
def pendingDst : Instr → Option (BitVec 5) × Option (BitVec 3)
  | .vext d _ _ _ => (some d, none)
  | .mpop d _ _ _ => (some d, none)
  | .mstat d _ _ => (some d, none)
  | .post d _ _ => (some d, none)
  | .vany d _ _ _ => (none, some d)
  | .vall d _ _ _ => (none, some d)
  | _ => (none, none)

end Sys2Proof.Machine
end

