-- ==== Sys2Proof/Machine/Alu.lean ====
section
/-! DEFINITION. Alu.lean: majors 0x01 to 0x0B, integer arithmetic and logic, constants, compares, predicate logic
(R84-R96). -/

namespace Sys2Proof.Machine

/-- Signed64 of R83. -/
def signed (x : Word) : Int := x.toInt

/-- DIV of R88 and R89: truncated toward zero. -/
def divS (a b : Word) : Word := if b = 0 then -1 else wrap64 ((signed a).tdiv (signed b))
/-- REM: the remainder has the sign of the dividend (R89). -/
def remS (a b : Word) : Word := if b = 0 then a else wrap64 ((signed a).tmod (signed b))
/-- DIVU and REMU (R89). -/
def divU (a b : Word) : Word := if b = 0 then -1 else BitVec.ofNat 64 (a.toNat / b.toNat)
def remU (a b : Word) : Word := if b = 0 then a else BitVec.ofNat 64 (a.toNat % b.toNat)

/-- The upper half of a signed and of an unsigned product (R88). -/
def mulHi (a b : Word) : Word := wrap64 ((signed a * signed b) / (2 ^ 64 : Nat))
def mulHiU (a b : Word) : Word := BitVec.ofNat 64 (a.toNat * b.toNat / 2 ^ 64)

/-- S(b)[5:0] (R88). -/
def amount (b : Word) : Nat := b.toNat % 64

/-- Leading zeros of the low `n` bits of a number; n for 0. -/
def clzNat (n x : Nat) : Nat := if x % 2 ^ n = 0 then n else n - 1 - Nat.log2 (x % 2 ^ n)
/-- The number of one bits among the low `n`. -/
def popNat : Nat → Nat → Nat
  | 0, _ => 0
  | n + 1, x => x % 2 + popNat n (x / 2)
/-- Trailing zeros among the low `n` bits; n for 0. -/
def ctzNat : Nat → Nat → Nat
  | 0, _ => 0
  | n + 1, x => if x % 2 = 1 then 0 else 1 + ctzNat n (x / 2)

/-- The operation of each member of major 0x01 on its two sources (R88, R89). -/
def aluAdd (a b : Word) : Word := a + b
def aluSub (a b : Word) : Word := a - b
def aluMul (a b : Word) : Word := a * b
def aluMin (a b : Word) : Word := if signed a ≤ signed b then a else b
def aluMax (a b : Word) : Word := if signed a ≤ signed b then b else a
def aluMinu (a b : Word) : Word := if a.toNat ≤ b.toNat then a else b
def aluMaxu (a b : Word) : Word := if a.toNat ≤ b.toNat then b else a
def aluShl (a b : Word) : Word := a <<< amount b
def aluShr (a b : Word) : Word := a >>> amount b
def aluSar (a b : Word) : Word := a.sshiftRight (amount b)
def aluRotr (a b : Word) : Word := a.rotateRight (amount b)
def aluClz (a : Word) : Word := BitVec.ofNat 64 (clzNat 64 a.toNat)
def aluCtz (a : Word) : Word := BitVec.ofNat 64 (ctzNat 64 a.toNat)
def aluPopc (a : Word) : Word := BitVec.ofNat 64 (popNat 64 a.toNat)

/-- A register word with two sources whose result is available to the next word (R84, R88). -/
def State.alu2 (s : State) (w : Instr) (g : Guard) (d a b : BitVec 5) (f : Word → Word → Word) : Out :=
  s.plain w g { src := [a, b], dst := [d] } fun s => .ok (s.setS d (f (s.getS a) (s.getS b)))

/-- A register word with one source. -/
def State.alu1 (s : State) (w : Instr) (g : Guard) (d a : BitVec 5) (f : Word → Word) : Out :=
  s.plain w g { src := [a], dst := [d] } fun s => .ok (s.setS d (f (s.getS a)))

/-- A result that lands later: s[d] is pending from the issue (R84). With d = 0 nothing is pending and nothing lands. -/
def State.later (s : State) (d : BitVec 5) (v : Word) (zero : List (Nat × Nat) := []) : State :=
  if d = 0 && zero.isEmpty then s else s.updMe fun t => { t.smark d with landings := t.landings ++ [⟨d, v, zero⟩] }

/-- A multiply or divide: the result is that of the operands at issue and lands later (R84, R86). -/
def State.alu2Later (s : State) (w : Instr) (g : Guard) (d a b : BitVec 5) (f : Word → Word → Word) : Out :=
  s.plain w g { src := [a, b], dst := [d] } fun s => .ok (s.later d (f (s.getS a) (s.getS b)))

/-- Cond of R94. -/
def scalarCond (c : SCond) (a b : Word) : Bool :=
  match c with
  | .eq => a == b
  | .ne => a != b
  | .lt => decide (signed a < signed b)
  | .ge => decide (signed b ≤ signed a)
  | .ltu => decide (a.toNat < b.toNat)
  | .geu => decide (b.toNat ≤ a.toNat)

/-- A predicate word (R96). -/
def State.pred2 (s : State) (w : Instr) (g : Guard) (q a b : BitVec 3) (f : Bool → Bool → Bool) : Out :=
  s.plain w g { psrc := [a, b], pdst := [q] } fun s => .ok (s.setP q (f (s.getP a) (s.getP b)))

/-- ADD (R88). -/
def execAdd (g : Guard) (d a b : BitVec 5) (s : State) : Out :=
  s.alu2 (.add g d a b) g d a b aluAdd

/-- SUB (R88). -/
def execSub (g : Guard) (d a b : BitVec 5) (s : State) : Out :=
  s.alu2 (.sub g d a b) g d a b aluSub

/-- AND (R88). -/
def execAndS (g : Guard) (d a b : BitVec 5) (s : State) : Out :=
  s.alu2 (.andS g d a b) g d a b (fun x y => x &&& y)

/-- OR (R88). -/
def execOrS (g : Guard) (d a b : BitVec 5) (s : State) : Out :=
  s.alu2 (.orS g d a b) g d a b (fun x y => x ||| y)

/-- XOR (R88). -/
def execXorS (g : Guard) (d a b : BitVec 5) (s : State) : Out :=
  s.alu2 (.xorS g d a b) g d a b (fun x y => x ^^^ y)

/-- ANDN (R88). -/
def execAndn (g : Guard) (d a b : BitVec 5) (s : State) : Out :=
  s.alu2 (.andn g d a b) g d a b (fun x y => x &&& ~~~y)

/-- SHL (R88). -/
def execShl (g : Guard) (d a b : BitVec 5) (s : State) : Out :=
  s.alu2 (.shl g d a b) g d a b aluShl

/-- SHR (R88). -/
def execShr (g : Guard) (d a b : BitVec 5) (s : State) : Out :=
  s.alu2 (.shr g d a b) g d a b aluShr

/-- SAR (R88). -/
def execSar (g : Guard) (d a b : BitVec 5) (s : State) : Out :=
  s.alu2 (.sar g d a b) g d a b aluSar

/-- ROTR (R88). -/
def execRotr (g : Guard) (d a b : BitVec 5) (s : State) : Out :=
  s.alu2 (.rotr g d a b) g d a b aluRotr

/-- MIN (R88). -/
def execMinS (g : Guard) (d a b : BitVec 5) (s : State) : Out :=
  s.alu2 (.minS g d a b) g d a b aluMin

/-- MAX (R88). -/
def execMaxS (g : Guard) (d a b : BitVec 5) (s : State) : Out :=
  s.alu2 (.maxS g d a b) g d a b aluMax

/-- MINU (R88). -/
def execMinu (g : Guard) (d a b : BitVec 5) (s : State) : Out :=
  s.alu2 (.minu g d a b) g d a b aluMinu

/-- MAXU (R88). -/
def execMaxu (g : Guard) (d a b : BitVec 5) (s : State) : Out :=
  s.alu2 (.maxu g d a b) g d a b aluMaxu

/-- MUL (R84, R88, R89). -/
def execMul (g : Guard) (d a b : BitVec 5) (s : State) : Out :=
  s.alu2Later (.mul g d a b) g d a b aluMul

/-- MULH (R84, R88, R89). -/
def execMulh (g : Guard) (d a b : BitVec 5) (s : State) : Out :=
  s.alu2Later (.mulh g d a b) g d a b mulHi

/-- MULHU (R84, R88, R89). -/
def execMulhu (g : Guard) (d a b : BitVec 5) (s : State) : Out :=
  s.alu2Later (.mulhu g d a b) g d a b mulHiU

/-- DIV (R84, R88, R89). -/
def execDiv (g : Guard) (d a b : BitVec 5) (s : State) : Out :=
  s.alu2Later (.div g d a b) g d a b divS

/-- DIVU (R84, R88, R89). -/
def execDivu (g : Guard) (d a b : BitVec 5) (s : State) : Out :=
  s.alu2Later (.divu g d a b) g d a b divU

/-- REM (R84, R88, R89). -/
def execRem (g : Guard) (d a b : BitVec 5) (s : State) : Out :=
  s.alu2Later (.rem g d a b) g d a b remS

/-- REMU (R84, R88, R89). -/
def execRemu (g : Guard) (d a b : BitVec 5) (s : State) : Out :=
  s.alu2Later (.remu g d a b) g d a b remU

/-- CLZ (R88). -/
def execClz (g : Guard) (d a : BitVec 5) (s : State) : Out :=
  s.alu1 (.clz g d a) g d a aluClz

/-- CTZ (R88). -/
def execCtz (g : Guard) (d a : BitVec 5) (s : State) : Out :=
  s.alu1 (.ctz g d a) g d a aluCtz

/-- POPC (R88). -/
def execPopc (g : Guard) (d a : BitVec 5) (s : State) : Out :=
  s.alu1 (.popc g d a) g d a aluPopc

/-- SEXTB (R88). -/
def execSextb (g : Guard) (d a : BitVec 5) (s : State) : Out :=
  s.alu1 (.sextb g d a) g d a (fun x => extend 1 true x.toNat)

/-- SEXTH (R88). -/
def execSexth (g : Guard) (d a : BitVec 5) (s : State) : Out :=
  s.alu1 (.sexth g d a) g d a (fun x => extend 2 true x.toNat)

/-- SEXTW (R88). -/
def execSextw (g : Guard) (d a : BitVec 5) (s : State) : Out :=
  s.alu1 (.sextw g d a) g d a (fun x => extend 4 true x.toNat)

/-- ZEXTB (R88). -/
def execZextb (g : Guard) (d a : BitVec 5) (s : State) : Out :=
  s.alu1 (.zextb g d a) g d a (fun x => x &&& 0xFF)

/-- ZEXTH (R88). -/
def execZexth (g : Guard) (d a : BitVec 5) (s : State) : Out :=
  s.alu1 (.zexth g d a) g d a (fun x => x &&& 0xFFFF)

/-- ZEXTW (R88). -/
def execZextw (g : Guard) (d a : BitVec 5) (s : State) : Out :=
  s.alu1 (.zextw g d a) g d a (fun x => x &&& 0xFFFFFFFF)

/-- SEL (R68, R88, R90): the guard selects, and the word always executes. -/
def execSel (g : Guard) (d a b : BitVec 5) (s : State) : Out :=
  s.plain (.sel g d a b) always { src := [if s.me.guard g then a else b], psrc := [g.p], dst := [d] } fun s =>
    .ok (s.setS d (if s.me.guard g then s.getS a else s.getS b))

/-- ADDI (R91). -/
def execAddi (g : Guard) (d a : BitVec 5) (i : BitVec 12) (s : State) : Out :=
  s.alu1 (.addi g d a i) g d a (fun x => x + simm i)

/-- ANDI (R91). -/
def execAndi (g : Guard) (d a : BitVec 5) (i : BitVec 12) (s : State) : Out :=
  s.alu1 (.andi g d a i) g d a (fun x => x &&& uimm i)

/-- ORI (R91). -/
def execOri (g : Guard) (d a : BitVec 5) (i : BitVec 12) (s : State) : Out :=
  s.alu1 (.ori g d a i) g d a (fun x => x ||| uimm i)

/-- XORI (R91). -/
def execXori (g : Guard) (d a : BitVec 5) (i : BitVec 12) (s : State) : Out :=
  s.alu1 (.xori g d a i) g d a (fun x => x ^^^ uimm i)

/-- SHLI (R92). -/
def execShli (g : Guard) (d a : BitVec 5) (n : BitVec 6) (s : State) : Out :=
  s.alu1 (.shli g d a n) g d a fun x => aluShl x (uimm n)

/-- SHRI (R92). -/
def execShri (g : Guard) (d a : BitVec 5) (n : BitVec 6) (s : State) : Out :=
  s.alu1 (.shri g d a n) g d a fun x => aluShr x (uimm n)

/-- SARI (R92). -/
def execSari (g : Guard) (d a : BitVec 5) (n : BitVec 6) (s : State) : Out :=
  s.alu1 (.sari g d a n) g d a fun x => aluSar x (uimm n)

/-- ROTRI (R92). -/
def execRotri (g : Guard) (d a : BitVec 5) (n : BitVec 6) (s : State) : Out :=
  s.alu1 (.rotri g d a n) g d a fun x => aluRotr x (uimm n)

/-- LIH (R93). -/
def execLih (d : BitVec 5) (i : BitVec 21) (s : State) : Out :=
  s.plain (.lih d i) always { dst := [d] } fun s => .ok (s.setS d (simm i * 4096))

/-- APC (R93), relative to the PC of the word itself. -/
def execApc (d : BitVec 5) (i : BitVec 21) (s : State) : Out :=
  s.plain (.apc d i) always { dst := [d] } fun s => .ok (s.setS d (pcRel s.me.pc i))

/-- CMP.cond (R94). -/
def execCmp (g : Guard) (q : BitVec 3) (a b : BitVec 5) (c : SCond) (s : State) : Out :=
  s.plain (.cmp g q a b c) g { src := [a, b], pdst := [q] } fun s => .ok (s.setP q (scalarCond c (s.getS a) (s.getS b)))

/-- CMPI.cond (R95). -/
def execCmpi (g : Guard) (q : BitVec 3) (c : SCond) (a : BitVec 5) (i : BitVec 11) (s : State) : Out :=
  s.plain (.cmpi g q c a i) g { src := [a], pdst := [q] } fun s => .ok (s.setP q (scalarCond c (s.getS a) (simm i)))

/-- PAND (R96). -/
def execPand (g : Guard) (q a b : BitVec 3) (s : State) : Out :=
  s.pred2 (.pand g q a b) g q a b (fun x y => x && y)

/-- POR (R96). -/
def execPor (g : Guard) (q a b : BitVec 3) (s : State) : Out :=
  s.pred2 (.por g q a b) g q a b (fun x y => x || y)

/-- PXOR (R96). -/
def execPxor (g : Guard) (q a b : BitVec 3) (s : State) : Out :=
  s.pred2 (.pxor g q a b) g q a b (fun x y => x ^^ y)

/-- PANDN (R96). -/
def execPandn (g : Guard) (q a b : BitVec 3) (s : State) : Out :=
  s.pred2 (.pandn g q a b) g q a b (fun x y => x && !y)

/-- PNOT (R96). -/
def execPnot (g : Guard) (q a : BitVec 3) (s : State) : Out :=
  s.pred2 (.pnot g q a) g q a 0 (fun x _ => !x)

/-- PMOV (R96). -/
def execPmov (g : Guard) (q a : BitVec 3) (s : State) : Out :=
  s.pred2 (.pmov g q a) g q a 0 (fun x _ => x)

/-- PSET (R96). -/
def execPset (g : Guard) (q : BitVec 3) (s : State) : Out :=
  s.pred2 (.pset g q) g q 0 0 (fun _ _ => true)

end Sys2Proof.Machine
end

