-- ==== Sys2Proof/Machine/Branch.lean ====
section
/-! DEFINITION. Branch.lean: majors 0x0C to 0x0E, prepared targets and the branches with two delay slots (R97-R101). -/

namespace Sys2Proof.Machine

/-- PBR (R97). -/
def execPbr (t : BitVec 2) (i : BitVec 24) (s : State) : Out :=
  s.plain (.pbr t i) always {} fun s => .ok (s.setB t (pcRel s.me.pc i))

/-- PBRR (R98): a value that is not a multiple of 4 traps MISALIGNED and leaves b[bt] as it was. -/
def execPbrr (g : Guard) (t : BitVec 2) (a : BitVec 5) (s : State) : Out :=
  s.plain (.pbrr g t a) g { src := [a] } fun s =>
    if (s.getS a).toNat % 4 = 0 then .ok (s.setB t (s.getS a)) else trapOf .misaligned (s.getS a)

/-- The task enters the first delay slot of a branch (R99). -/
def Task.branch (t : Task) (taken : Bool) (target : Word) : Task :=
  { t with pc := t.pc + 4, slot := some ⟨1, taken, target⟩ }

/-- BR (R99): the target is read at issue; both slots execute whether or not the branch is taken. -/
def execBr (g : Guard) (t : BitVec 2) (s : State) : Out :=
  s.runWord (.br g t) always { psrc := [g.p] } fun s =>
    .ok (s.updMe fun x => x.branch (x.guard g) (x.b[t.toNat]'t.isLt)).noted

/-- BRL (R99): as BR, and s31 receives the address after the slots, only when taken. -/
def execBrl (g : Guard) (t : BitVec 2) (s : State) : Out :=
  s.runWord (.brl g t) always { psrc := [g.p], dst := if s.me.guard g then [31] else [] } fun s =>
    .ok (s.updMe fun x =>
      (if x.guard g then x.sset 31 (x.pc + 12) else x).branch (x.guard g) (x.b[t.toNat]'t.isLt)).noted

end Sys2Proof.Machine
end

