-- ==== Sys2Proof/Machine/Crypto.lean ====
section
/-! DEFINITION. Crypto.lean: the digest and the signature that R408 and R409 name: SHA3-512 and the SHAKE functions of FIPS 202,
and the verification of ML-DSA-87 of FIPS 204 in pure mode with an empty context string. Both are taken from those standards
(log 9). -/

namespace Sys2Proof.Machine

/-! ### FIPS 202 -/

/-- Lane (x, y) of the Keccak state is number x + 5y. -/
abbrev Keccak := Vector Word 25

/-- A lane, its coordinates taken modulo 5. -/
def Keccak.at (a : Keccak) (x y : Nat) : Word := a[x % 5 + 5 * (y % 5)]'(by omega)

/-- The state whose lane (x, y) is `f x y`. -/
def Keccak.of (f : Nat → Nat → Word) : Keccak := Vector.ofFn fun i => f (i.val % 5) (i.val / 5)

/-- The lanes from (1, 0) on in the order in which ρ numbers them. -/
def rhoPath : Nat → Nat → Nat → List (Nat × Nat)
  | 0, _, _ => []
  | n + 1, x, y => (x, y) :: rhoPath n y ((2 * x + 3 * y) % 5)

/-- The rotation of a lane. -/
def rhoOf (x y : Nat) : Nat :=
  match (rhoPath 24 1 0).findIdx? fun q => q == (x, y) with
  | none => 0
  | some t => (t + 1) * (t + 2) / 2 % 64

/-- The rotations as a table, lane by lane. -/
def rhoTable : List Nat := (List.range 25).map fun i => rhoOf (i % 5) (i / 5)

/-- The shift register that ι takes its bits from, with the feedback x⁸ + x⁶ + x⁵ + x⁴ + 1, and the register after n steps. -/
def iotaShift (r : Nat) : Nat := if r < 128 then 2 * r else (2 * r) ^^^ 0x171
def iotaAfter : Nat → Nat → Nat
  | 0, r => r
  | n + 1, r => iotaAfter n (iotaShift r)

/-- The constant of a round: its bits 0, 1, 3, 7, 15, 31 and 63 are the low bits of seven registers in turn. -/
def iotaWord (r : Nat) : Word :=
  BitVec.ofNat 64 ((List.range 7).map fun j => iotaAfter j r % 2 * 2 ^ (2 ^ j - 1)).sum

/-- The constants of n rounds of ι. -/
def iotaWords : Nat → Nat → List Word
  | 0, _ => []
  | n + 1, r => iotaWord r :: iotaWords n (iotaAfter 7 r)

/-- The column parities of θ. -/
def Keccak.parity (a : Keccak) : Vector Word 5 :=
  Vector.ofFn fun x => a.at x 0 ^^^ a.at x 1 ^^^ a.at x 2 ^^^ a.at x 3 ^^^ a.at x 4

def Keccak.theta (a : Keccak) : Keccak :=
  let col := a.parity
  Keccak.of fun x y =>
    a.at x y ^^^ col[(x + 4) % 5]'(Nat.mod_lt _ (by decide)) ^^^ (col[(x + 1) % 5]'(Nat.mod_lt _ (by decide))).rotateLeft 1

/-- ρ, then π: lane (x, y) goes to (y, 2x + 3y). -/
def Keccak.rhoPi (a : Keccak) : Keccak :=
  Keccak.of fun x y =>
    let u := (x + 3 * y) % 5
    (a.at u x).rotateLeft (rhoTable.getD (u + 5 * x) 0)

def Keccak.chi (a : Keccak) : Keccak :=
  Keccak.of fun x y => a.at x y ^^^ (~~~(a.at (x + 1) y) &&& a.at (x + 2) y)

/-- One round. -/
def Keccak.round (a : Keccak) (rc : Word) : Keccak :=
  let b := a.theta.rhoPi.chi
  b.set 0 (b[0] ^^^ rc)

/-- The 24 rounds. -/
def Keccak.permute (a : Keccak) : Keccak := (iotaWords 24 1).foldl Keccak.round a

/-- A block of at most 200 bytes added to the state. -/
def Keccak.absorb (a : Keccak) (bs : List Byte) : Keccak :=
  Vector.ofFn fun i => a[i] ^^^ BitVec.ofNat 64 (((bs.drop (8 * i.val)).take 8).foldr (fun b n => b.toNat + 256 * n) 0)

/-- The state as bytes. -/
def Keccak.bytes (a : Keccak) : List Byte := a.toList.flatMap fun (w : Word) => (List.range 8).map fun i => (w >>> (8 * i)).setWidth 8

/-- The message padded to whole blocks of `rate` bytes, behind its suffix and the first bit of the padding. -/
def padded (rate suffix : Nat) (m : List Byte) : List Byte :=
  let n := rate - m.length % rate
  if n = 1 then m ++ [BitVec.ofNat 8 (suffix + 128)]
  else m ++ [BitVec.ofNat 8 suffix] ++ List.replicate (n - 2) 0 ++ [128]

/-- The state after n blocks of a padded message. -/
def absorbAll (rate : Nat) : Nat → List Byte → Keccak → Keccak
  | 0, _, a => a
  | n + 1, m, a => absorbAll rate n (m.drop rate) (a.absorb (m.take rate)).permute

/-- n blocks of output. -/
def squeeze (rate : Nat) : Nat → Keccak → List Byte
  | 0, _ => []
  | n + 1, a => a.bytes.take rate ++ squeeze rate n a.permute

/-- The sponge: n bytes of output. -/
def sponge (rate suffix n : Nat) (m : List Byte) : List Byte :=
  let p := padded rate suffix m
  (squeeze rate ((n + rate - 1) / rate) (absorbAll rate (p.length / rate) p (Vector.replicate 25 0))).take n

def sha3_512Bytes (m : List Byte) : List Byte := sponge 72 0x06 64 m
def shake128 (n : Nat) (m : List Byte) : List Byte := sponge 168 0x1F n m
def shake256 (n : Nat) (m : List Byte) : List Byte := sponge 136 0x1F n m

/-- The digest as a number whose byte 0 is the first byte of the digest. -/
def sha3_512 (m : List Byte) : BitVec 512 :=
  BitVec.ofNat 512 ((sha3_512Bytes m).foldr (fun b n => b.toNat + 256 * n) 0)

/-! ### FIPS 204, ML-DSA-87 -/

/-- The modulus q, γ₁, γ₂, τ, β and ω of the parameter set, and the dropped bits d. -/
def mldsaQ : Nat := 8380417
def mldsaG1 : Nat := 2 ^ 19
def mldsaG2 : Nat := 261888
def mldsaTau : Nat := 60
def mldsaBeta : Nat := 120
def mldsaOmega : Nat := 75

/-- A polynomial, or its image under NTT: 256 coefficients modulo q. -/
abbrev Poly := List Nat

/-- The bits of bytes, and fields of w bits as numbers. -/
def byteBits (bs : List Byte) : List Nat := bs.flatMap fun b => (List.range 8).map fun i => b.toNat / 2 ^ i % 2
def unpackBits (w n : Nat) (bs : List Byte) : List Nat :=
  (List.range n).map fun i =>
    let lo := w * i
    let k := ((bs.drop (lo / 8)).take (w / 8 + 2)).foldr (fun b m => b.toNat + 256 * m) 0
    k / 2 ^ (lo % 8) % 2 ^ w

/-- The eight bits of a number in reverse order. -/
def brv8 (n : Nat) : Nat := (List.range 8).foldl (fun r i => 2 * r + n / 2 ^ i % 2) 0

/-- b to the power e modulo q, e below 2^k. -/
def powQ : Nat → Nat → Nat → Nat
  | 0, _, _ => 1
  | k + 1, b, e => (if e % 2 = 1 then b else 1) * powQ k (b * b % mldsaQ) (e / 2) % mldsaQ

/-- The root of entry i of an NTT image: ζ to the power 2·brv8(i) + 1 for ζ = 1753, which has order 512. -/
def nttRoot (i : Nat) : Nat := powQ 9 1753 (2 * brv8 i + 1)

/-- Σ cⱼ xʲ modulo q. -/
def evalQ (x : Nat) (c : Poly) : Nat := c.foldr (fun a s => (a + x * s) % mldsaQ) 0

/-- The values of a polynomial at the roots, and the polynomial with given values. -/
def ntt (c : Poly) : Poly := (List.range 256).map fun i => evalQ (nttRoot i) c
def invNtt (v : Poly) : Poly :=
  let zs := (List.range 256).map fun i => powQ 9 (nttRoot i) 511
  let n := mldsaQ - (mldsaQ - 1) / 256
  let step := fun (w : List Nat × Poly) (_ : Nat) =>
    let s := (w.1.foldl (· + ·) 0) * n % mldsaQ
    (List.zipWith (fun a z => a * z % mldsaQ) w.1 zs, s :: w.2)
  ((List.range 256).foldl step (v, [])).2.reverse

def addQ (a b : Poly) : Poly := List.zipWith (fun x y => (x + y) % mldsaQ) a b
def subQ (a b : Poly) : Poly := List.zipWith (fun x y => (x + mldsaQ - y) % mldsaQ) a b
def mulQ (a b : Poly) : Poly := List.zipWith (fun x y => x * y % mldsaQ) a b
def zeroQ : Poly := List.replicate 256 0

/-- Coefficients below q from the output of SHAKE128, three bytes each, and the first 256 of them. -/
def coefficients : List Byte → List Nat
  | a :: b :: c :: r =>
    let z := c.toNat % 128 * 65536 + b.toNat * 256 + a.toNat
    if z < mldsaQ then z :: coefficients r else coefficients r
  | _ => []

/-- Entry (r, s) of the matrix, already an NTT image. An output of 2520 bytes holds 840 candidates. -/
def expandA (rho : List Byte) (r s : Nat) : Poly :=
  (coefficients (shake128 2520 (rho ++ [BitVec.ofNat 8 s, BitVec.ofNat 8 r]))).take 256

/-- The challenge polynomial: from position i on, τ of them to 256, with the signs and the random bytes that are left. -/
def ballFrom : Nat → Nat → List Nat → List Byte → Poly → Poly
  | 0, _, _, _, c => c
  | n + 1, i, signs, bs, c =>
    match bs.dropWhile fun j => decide (i < j.toNat) with
    | [] => c
    | j :: rest =>
      let v := if signs.headD 0 = 0 then 1 else mldsaQ - 1
      ballFrom n (i + 1) (signs.drop 1) rest ((c.set i (c.getD j.toNat 0)).set j.toNat v)
def sampleInBall (seed : List Byte) : Poly :=
  let out := shake256 1088 seed
  ballFrom mldsaTau (256 - mldsaTau) (byteBits (out.take 8)) (out.drop 8) zeroQ

/-- The hints of a signature, by polynomial, from its last ω + 8 bytes: the positions of each, strictly rising, up to its end
in the list, and zeros behind the last. -/
def hintsFrom (y : List Nat) : Nat → Nat → Nat → Option (List (List Nat))
  | 0, _, at_ => if (y.drop at_).take (mldsaOmega - at_) |>.all (· == 0) then some [] else none
  | n + 1, i, at_ =>
    let e := y.getD (mldsaOmega + i) 0
    let h := (y.drop at_).take (e - at_)
    if e < at_ || mldsaOmega < e || !(h.zip (h.drop 1)).all (fun p => decide (p.1 < p.2)) then none
    else (hintsFrom y n (i + 1) e).map (h :: ·)

/-- The high bits of a value modulo q, and whether its low bits are above 0. -/
def decompose (r : Nat) : Nat × Bool :=
  let lo := r % (2 * mldsaG2)
  let pos := decide (0 < lo) && decide (lo ≤ mldsaG2)
  let base := if lo ≤ mldsaG2 then r - lo else r + 2 * mldsaG2 - lo
  if base = mldsaQ - 1 then (0, false) else (base / (2 * mldsaG2), pos)

/-- UseHint: the high bits, moved by one where the hint says so. -/
def useHint (h : Bool) (r : Nat) : Nat :=
  let (r1, pos) := decompose r
  if !h then r1 else if pos then (r1 + 1) % 16 else (r1 + 15) % 16

/-- Sixteen values to eight bytes, 4 bits each. -/
def packNibbles : List Nat → List Byte
  | a :: b :: r => BitVec.ofNat 8 (a + 16 * b) :: packNibbles r
  | _ => []

/-- Pieces of n elements. -/
def chunksOf {α : Type} (n : Nat) : Nat → List α → List (List α)
  | 0, _ => []
  | k + 1, l => l.take n :: chunksOf n k (l.drop n)

/-- ML-DSA-87 verifies a signature over the 64 bytes of a digest under a public key of 2,592 bytes. -/
def mldsaVerify (key : List Byte) (digest : BitVec 512) (sig : List Byte) : Bool :=
  if key.length ≠ 2592 || sig.length ≠ 4627 then false
  else
    let m : List Byte := (List.range 64).map fun i => (digest >>> (8 * i)).setWidth 8
    let rho := key.take 32
    let t1 := (chunksOf 320 8 (key.drop 32)).map (unpackBits 10 256)
    let c := sig.take 64
    let raw := (chunksOf 640 7 (sig.drop 64)).map (unpackBits 20 256)
    let z := raw.map fun p => p.map fun x => (mldsaG1 + mldsaQ - x) % mldsaQ
    let small := raw.all fun p => p.all fun x =>
      decide (mldsaBeta < x) && decide (x + mldsaBeta < 2 * mldsaG1)
    match hintsFrom (((sig.drop 4544)).map BitVec.toNat) 8 0 0 with
    | none => false
    | some hs =>
      let mu := shake256 64 (shake256 64 key ++ [0, 0] ++ m)
      let cHat := ntt (sampleInBall c)
      let zHat := z.map ntt
      let row := fun (r : Nat) =>
        let az := (zHat.zipIdx).foldl (fun s p => addQ s (mulQ (expandA rho r p.2) p.1)) zeroQ
        let t := ntt ((t1.getD r []).map fun x => x * 2 ^ 13 % mldsaQ)
        let w := invNtt (subQ az (mulQ cHat t))
        packNibbles ((w.zipIdx).map fun p => useHint ((hs.getD r []).contains p.2) p.1)
      let w1 := (List.range 8).flatMap row
      small && shake256 64 (mu ++ w1) == c

end Sys2Proof.Machine
end

