-- ==== Sys2Proof/Machine/System.lean ====
section
/-! DEFINITION. System.lean: major 0x0F, the special registers, traps and returns, waits for engines (R102-R113, R81, R82),
and the register writes that act through them (R55, R57, R160, R395). -/

namespace Sys2Proof.Machine

/-- Every engine word of a tile that has left no queue, or is in an engine with its token open. -/
def Tile.words (t : Tile) : List Entry :=
  t.vq ++ t.mq ++ t.cq ++ t.lq ++ t.array.toList ++ t.conv.toList ++ t.air ++ t.plane0.load.toList ++ t.plane1.load.toList

/-- A barrier of SBAR still holds: a word it names has not performed (R134). -/
def Tile.barred (t : Tile) (bars : List Nat) : Bool := t.words.any fun e => bars.contains e.uid

/-- The engine words of the issuing task. -/
def State.myWords (s : State) : List Entry := s.cur.words.filter fun e => e.task == s.task

/-- The issuing task waits for some words of its own; if it holds BUSY and one of them stands at a fault, neither could
proceed, and that is a double fault (R380). -/
def State.waitFor {α : Type} (s : State) (es : List Entry) : Res α :=
  if s.cur.trap.busy && s.cur.trap.holder.toNat == s.task && es.any (·.faulted) then .error (.fatal 4) else .error .wait

/-! ### Special registers -/

/-- Frequency-dependent PERIOD of R333: tile cycles in 64 µs. -/
def State.period (s : State) : Nat := 64 * s.power.fact

/-- WSTAT (R333). -/
def State.wstat (s : State) : Word := BitVec.ofNat 64 (96 * 2 ^ 48 + s.phase % 2 ^ 24 * 2 ^ 24 + s.period % 2 ^ 24)

/-- CYCLE of a tile: stretched cycles count once (R81, R422). -/
def State.cycleOf (s : State) (t : Nat) : Word := BitVec.ofNat 64 (s.cyclesAt t)

/-- Which peers read as dead whatever is stored (R400): packages that are no members, but never the own package. -/
def State.deadBit (s : State) (c p : Nat) : Bool :=
  if p = s.pkg.toNat then false
  else if s.pod.members.contains p then (s.ctxAt c).dead.getLsbD p else true

/-- DEADPEER register n of a context (R400). -/
def State.deadReg (s : State) (c n : Nat) : Word :=
  (List.range 64).foldl (fun w i => if s.deadBit c (64 * n + i) then w ||| ((1 : Word) <<< i) else w) 0

/-- A write of DEADPEER register n: the bits of the own package and of packages that are no members are ignored (R400). -/
def State.setDeadReg (s : State) (c n : Nat) (v : Word) : State :=
  s.updCtx c fun x =>
    { x with
      dead := (List.range 64).foldl (fun d i =>
        let p := 64 * n + i
        if p = s.pkg.toNat || !s.pod.members.contains p then d
        else if v.getLsbD i then d ||| ((1 : BitVec 256) <<< p) else d &&& ~~~((1 : BitVec 256) <<< p)) x.dead }

/-- The window of a task: 0 none, 1 window 0, 2 window 1 (R159). -/
def Tile.winOf (t : Tile) (k : Nat) : Nat := if t.win0 = some k then 1 else if t.win1 = some k then 2 else 0

/-- VWIN of a task (R159). -/
def Tile.vwin (t : Tile) (k : Nat) : Word :=
  BitVec.ofNat 64 (t.winOf k + (if t.win0.isNone then 16 else 0) + if t.win1.isNone then 32 else 0)

/-- TSTAT (R376). -/
def TrapRegs.tstat (r : TrapRegs) : Word :=
  BitVec.ofNat 64 (r.sticky.toNat * 2 ^ 48 + r.kind.toNat * 2 ^ 12 + r.level.toNat * 2 ^ 8 + r.task.toNat * 64 +
    r.src.toNat * 8 + (if r.plev = .supervisor then 4 else 0) + if r.busy then 2 else 0)

/-- A write of TSTAT: BUSY and the reserved bits stay (R376). -/
def TrapRegs.setTstat (r : TrapRegs) (v : Word) : TrapRegs :=
  { r with
    sticky := BitVec.ofNat 8 (bits v.toNat 48 8)
    kind := BitVec.ofNat 2 (bits v.toNat 12 2)
    level := BitVec.ofNat 4 (bits v.toNat 8 4)
    task := BitVec.ofNat 2 (bits v.toNat 6 2)
    src := BitVec.ofNat 3 (bits v.toNat 3 3)
    plev := if v.getLsbD 2 then .supervisor else .user }

/-- The context of the issuing tile. -/
def State.myCtx (s : State) : Nat := s.cur.ctx.getD 0

/-- The value that MFS reads (R15, R81, R104). LEASEQ is read by `leaseTake`. -/
def State.sreg (s : State) (n : Nat) : Word :=
  let t := s.cur
  match n with
  | 0x000 => BitVec.ofNat 64 s.task
  | 0x001 => BitVec.ofNat 64 s.tile
  | 0x002 => BitVec.ofNat 64 (256 * (tileX s.tile / 2) + tileY s.tile / 2)
  | 0x003 => BitVec.ofNat 64 (dieOf s.tile)
  | 0x004 => uimm s.pkg
  | 0x005 => BitVec.ofNat 64 (t.part.getD 0 % 64)
  | 0x006 => BitVec.ofNat 64 (s.myCtx % 256)
  | 0x010 => BitVec.ofNat 64 ((t.node.map Prod.snd).getD 0 % 64)
  | 0x011 => t.stitch
  | 0x020 => s.cycleOf s.tile
  | 0x021 => uimm s.me.flags
  | 0x022 => uimm s.me.fmask
  | 0x023 => uimm s.me.rmode
  | 0x024 => t.seed
  | 0x030 => t.vwin s.task
  | 0x040 => t.trap.tvec
  | 0x041 => uimm t.trap.tcause
  | 0x042 => t.trap.taddr
  | 0x043 => t.trap.tpc
  | 0x044 => t.trap.tstat
  | 0x050 => s.deadReg s.myCtx 0
  | 0x051 => s.deadReg s.myCtx 1
  | 0x052 => s.deadReg s.myCtx 2
  | 0x053 => s.deadReg s.myCtx 3
  | 0x060 => (s.ctxAt s.myCtx).badchunk
  | 0x070 => s.wstat
  | 0x100 => t.trap.scratch[0]
  | 0x101 => t.trap.scratch[1]
  | 0x102 => t.trap.scratch[2]
  | 0x103 => t.trap.scratch[3]
  | 0x104 => uimm t.trap.tdsl
  | 0x105 => t.trap.tdtgt
  | _ => 0

/-- The oldest outcome of the context's LEASEQ, removed (R395); 0 when the queue is empty. -/
def State.leaseTake (s : State) : Word × State :=
  match (s.ctxAt s.myCtx).leaseq with
  | [] => (0, s)
  | w :: r =>
    (w ||| (1 : Word) <<< 63 ||| (if (s.ctxAt s.myCtx).leaseOvf then (1 : Word) <<< 62 else 0),
     s.updCtx s.myCtx fun x => { x with leaseq := r, leaseOvf := false })

def State.updTrap (s : State) (f : TrapRegs → TrapRegs) : State :=
  s.updTile s.tile fun t => { t with trap := f t.trap }

/-- The write of RMODE (R55): codes 6 and 7 are ignored. -/
def State.setRmode (s : State) (v : Word) : State :=
  if v.toNat % 8 < 6 then s.updMe fun t => { t with rmode := BitVec.ofNat 3 v.toNat } else s

/-- A type whose values are real numbers, between which a conversion may round (R43, R52). -/
def realType : Ty → Bool
  | .f32 | .bf16 | .f16 | .e4m3 | .e5m2 | .cb4 => true
  | _ => false

/-- The word rounds with stochastic rounding, and so may draw (R55, R56): by its own rounding field, by that of its control
word (R228), or by RMODE as captured. Integer and complex sums and conversions round nothing (R64, R171, R209, R231). -/
def Entry.draws (e : Entry) : Bool :=
  match e.word with
  | .vcvt _ _ u _ _ r t => r == .sr && (realType u || realType t)
  | .mrd _ _ _ _ y r => r == .sr && match e.acc with
    | none => !y.isCpx
    | some q => q.kind == some .f32 || (q.kind.isSome && realType y)
  | .mrds _ _ _ _ _ r => r == .sr
  | .cexp .. => bits e.b.toNat 8 3 == 5
  | .ccvt .. => bits e.b.toNat 8 3 == 5 && (fromCode (bits e.b.toNat 0 4) || fromCode (bits e.b.toNat 4 4))
  | .mmul _ _ _ y r _ => realType y && (r == 3 || (r == 0 && e.rmode == 5))
  | .mmulz _ _ _ y r _ => realType y && (r == 3 || (r == 0 && e.rmode == 5))
  | .vadd _ _ _ _ t => t.isFlt && e.rmode == 5
  | .vsub _ _ _ _ t => t.isFlt && e.rmode == 5
  | .vmul _ _ _ _ t => t.isFlt && e.rmode == 5
  | .vmad _ _ _ _ t => t.isFlt && e.rmode == 5
  | .vmsb _ _ _ _ t => t.isFlt && e.rmode == 5
  | .vsqrt _ _ _ t => t.isFlt && e.rmode == 5
  | .vredadd _ _ _ t => t.isFlt && e.rmode == 5
  | .vscan _ _ _ t => t.isFlt && e.rmode == 5
  | _ => false
where
  fromCode (n : Nat) : Bool := (Ty.ofCode n).any realType

/-- A row inside the array whose adds draw (R62, R64). -/
def Row.draws (r : Row) : Bool := r.rm == 5 && realType r.ty

/-- The words that the words of a tile which draw wait for: those of the queues that hold one, and those in an engine (R57,
R380). -/
def Tile.drawing (t : Tile) : List Entry :=
  ([t.vq, t.mq, t.cq, t.array.toList, t.conv.toList].filter fun q => q.any (·.draws)).flatten

/-- The write of SRSEED (R57): it waits until every SR operation pushed on the tile has its draws. An operation that another
task pushes while the write waits is waited for as well, and draws from the old states (log 57). -/
def State.setSeed (s : State) (v : Word) : Res State :=
  let t := s.cur
  if t.words.any (·.draws) then s.waitFor (t.drawing.filter fun e => e.task == s.task)
  else if t.rows.any (·.draws) then .error .wait
  else .ok (s.updTile s.tile fun t =>
    { t with seed := v, gv := seedGen v genV, gm := seedGen v genM, gc := seedGen v genC })

/-- The window of a task is released (R160). -/
def Tile.releaseWin (t : Tile) (k : Nat) : Tile :=
  { t with
    win0 := if t.win0 = some k then none else t.win0
    win1 := if t.win1 = some k then none else t.win1 }

/-- The write of VWIN (R160). -/
def State.vwinReq (s : State) (v : Word) : Res State :=
  let t := s.cur
  let k : Nat := s.task
  let q := v.toNat % 4
  if t.winOf k ≠ 0 then
    if q ≠ 0 then .ok s
    else if t.vq.any fun e => e.task == k then s.waitFor (t.vq.filter fun e => e.task == k)
    else .ok (s.updTile s.tile fun t => t.releaseWin k)
  else if (q = 1 || q = 3) && t.win0.isNone then .ok (s.updTile s.tile fun t => { t with win0 := some k })
  else if (q = 2 || q = 3) && t.win1.isNone then .ok (s.updTile s.tile fun t => { t with win1 := some k })
  else .ok s

/-- The effect of MTS on a register that the level may write (R82). -/
def State.setSreg (s : State) (n : Nat) (v : Word) : Res State :=
  match n with
  | 0x021 => .ok (s.updMe fun t => { t with flags := BitVec.ofNat 8 v.toNat })
  | 0x022 => .ok (s.updMe fun t => { t with fmask := BitVec.ofNat 8 v.toNat })
  | 0x023 => .ok (s.setRmode v)
  | 0x024 => s.setSeed v
  | 0x030 => s.vwinReq v
  | 0x040 => .ok (s.updTrap fun r => { r with tvec := v &&& ~~~3 })
  | 0x041 => .ok (s.updTrap fun r => { r with tcause := BitVec.ofNat 6 v.toNat })
  | 0x042 => .ok (s.updTrap fun r => { r with taddr := v })
  | 0x043 => .ok (s.updTrap fun r => { r with tpc := v &&& ~~~3 })
  | 0x044 => .ok (s.updTrap fun r => r.setTstat v)
  | 0x050 => .ok (s.setDeadReg s.myCtx 0 v)
  | 0x051 => .ok (s.setDeadReg s.myCtx 1 v)
  | 0x052 => .ok (s.setDeadReg s.myCtx 2 v)
  | 0x053 => .ok (s.setDeadReg s.myCtx 3 v)
  | 0x060 => .ok (s.updCtx s.myCtx fun x => { x with badchunk := v &&& ~~~63 })
  | 0x100 => .ok (s.updTrap fun r => { r with scratch := r.scratch.set 0 v })
  | 0x101 => .ok (s.updTrap fun r => { r with scratch := r.scratch.set 1 v })
  | 0x102 => .ok (s.updTrap fun r => { r with scratch := r.scratch.set 2 v })
  | 0x103 => .ok (s.updTrap fun r => { r with scratch := r.scratch.set 3 v })
  | 0x104 => .ok (s.updTrap fun r => { r with tdsl := BitVec.ofNat 3 v.toNat })
  | 0x105 => .ok (s.updTrap fun r => { r with tdtgt := v })
  | _ => .ok s

/-! ### The words -/

/-- NOP (R102). -/
def execNop (g : Guard) (s : State) : Out := s.plain (.nop g) g {} fun s => .ok s

/-- MFS (R82, R103). -/
def execMfs (g : Guard) (d : BitVec 5) (n : BitVec 10) (s : State) : Out :=
  s.plain (.mfs g d n) g { dst := [d] } fun s =>
    if n = 0x061 then .ok (s.leaseTake.2.setS d s.leaseTake.1) else .ok (s.setS d (s.sreg n.toNat))

/-- The writes and the read that MTS and MFS make of VWIN, SRSEED, RMODE and LEASEQ, by the issuing task (R55, R57, R160,
R395). -/
def execVwinWrite (v : Word) (s : State) : Out := s.finish s.me.pc (s.vwinReq v)
def execSrseedWrite (v : Word) (s : State) : Out := s.finish s.me.pc (s.setSeed v)
def execRmodeWrite (v : Word) (s : State) : Out := .next (s.setRmode v)
def execLeaseqRead (d : BitVec 5) (s : State) : Out := .next (s.leaseTake.2.setS d s.leaseTake.1)

/-- TRAP (R106): SOFTWARE, with S(a) in TADDR and the address of the next word in TPC. -/
def execTrap (g : Guard) (a : BitVec 5) (s : State) : Out :=
  s.runWord (.trap g a) g { src := [a] } fun s => .ok (s.issueTrap ⟨.software, s.getS a, .read, 0⟩ (s.me.pc + 4))

/-- RTE (R107, R379). -/
def execRte (g : Guard) (s : State) : Out :=
  s.runWord (.rte g) g {} fun s => .ok (s.updTile s.tile fun t => t.rte s.task).noted

/-- The tasks of a tile besides slot `k` that live, are awake and do not yield themselves (R108, R340). -/
def Tile.readyOthers (t : Tile) (k : Nat) : BitVec 4 :=
  (List.range 4).foldl (fun m j =>
    let x := t.taskAt j
    if j ≠ k ∧ x.live ∧ x.sleep.isNone ∧ x.yielding = 0 then m ||| ((1 : BitVec 4) <<< j) else m) 0

/-- YIELD (R108). The next survey of the tile takes out the tasks that are stalled at their words (R340). -/
def execYield (g : Guard) (s : State) : Out :=
  s.plain (.yield g) g {} fun s =>
    .ok (s.updMe fun t => { t with yielding := s.cur.readyOthers s.task, yieldTo := s.cyclesAt s.tile + 4 })

/-- TFENCE (R109): waits for every token of the task, then traps ARITH on a masked flag. -/
def execTfence (g : Guard) (s : State) : Out :=
  s.plain (.tfence g) g {} fun s =>
    if s.me.waiting ≠ [] then s.waitFor s.myWords
    else if s.me.flags &&& s.me.fmask = 0 then .ok s
    else trapOf .arith (uimm (s.me.flags &&& s.me.fmask))

/-- DRAIN (R110): waits until every engine word of the task has performed or been discarded. -/
def State.drained (s : State) : Res Unit :=
  if s.myWords.isEmpty && s.me.waiting.isEmpty then .ok () else s.waitFor s.myWords

def execDrain (g : Guard) (s : State) : Out :=
  s.plain (.drain g) g {} fun s => s.drained.map fun _ => s

/-- The words of the issuing task in one engine up to a token (R380). -/
def State.upTo (s : State) (k : Tok) : List Entry :=
  s.myWords.filter fun e => match e.tok with
    | none => false
    | some j => j.eng == k.eng && decide (j.idx ≤ k.idx)

/-- TWAIT (R111). -/
def execTwait (g : Guard) (d : BitVec 5) (e : Eng) (s : State) : Out :=
  s.plain (.twait g d e) g {} fun s =>
    match s.me.nthToken e d.toNat with
    | none => trapOf .tokenRange 0
    | some k => if s.me.done k then .ok s else s.waitFor (s.upTo k)

/-- The prefix of an aperture (R112, R269). -/
def spacePrefix : Space → Nat
  | .loc => 0x800
  | .block => 0x801
  | .cluster => 0x802
  | .weight => 0x803
  | .parcel => 0x804
  | .global => 0

/-- CVTA (R112). -/
def execCvta (g : Guard) (d a : BitVec 5) (b : Space) (s : State) : Out :=
  s.alu1 (.cvta g d a b) g d a fun x => BitVec.ofNat 64 (spacePrefix b * 2 ^ 52 + offsetOf x)

/-- ISIN (R112). -/
def inSpace (b : Space) (x : Word) : Bool :=
  match b with
  | .global => canonical x
  | _ => spaceOf x == spacePrefix b

def execIsin (g : Guard) (d a : BitVec 5) (b : Space) (s : State) : Out :=
  s.alu1 (.isin g d a b) g d a fun x => if inSpace b x then 1 else 0

/-- The word at the head of a queue stands at a fault: neither it nor a word behind it goes on (R380). -/
def Tile.stuck (t : Tile) (e : Eng) : Bool := ((t.queue e).head?).any Entry.faulted

/-- Nothing of the tile is in flight (R113): no sequencer result, be it of a SEND, a DQSTEAL or a RGN word, no access and no
engine word, but for those in a queue that is stuck and what waits for them (log 55). -/
def Tile.quiet (t : Tile) : Bool :=
  let es : List Eng := [.v, .m, .c, .l]
  es.all (fun e => (t.queue e).isEmpty || t.stuck e) &&
  (t.array.toList ++ t.conv.toList ++ t.air ++ t.plane0.load.toList ++ t.plane1.load.toList).isEmpty && t.rows.isEmpty &&
  t.tasks.all fun x =>
    x.landings.isEmpty && x.stream.all (fun a => !a.sent && t.barred a.bars) &&
      (es.any t.stuck || (x.spend == 0 && x.ppend == 0))

/-- HALT (R113): fetch stops on the tile, results land and the queues empty; then the tile leaves the walker's set, and
HALTED is posted. -/
def execHalt (g : Guard) (s : State) : Out :=
  s.runWord (.halt g) g {} fun s =>
    if s.cur.quiet then
      let p := s.cur.part.getD 0
      let x : State := (s.updTile s.tile fun t => { t with halted := true, halting := none }).updPart p fun q =>
        { q with out := addOnce q.out s.tile }
      .ok ((x.postEvent s.myCtx 2 []).postMgmt 4 2 s.cur.part s.cur.ctx
        [BitVec.ofNat 8 ((s.cur.node.map Prod.fst).getD 0), 0, BitVec.ofNat 8 (tileY s.tile), BitVec.ofNat 8 (tileX s.tile)])
    else .ok ((s.updTile s.tile fun t => { t with halting := some s.task }).waits)

end Sys2Proof.Machine
end

