-- ==== Sys2Proof/Machine/ScalarMem.lean ====
section
/-! DEFINITION. ScalarMem.lean: majors 0x10 to 0x14, a task's own loads, stores, atomics, fences and waits (R119-R136), and
the landing of sequencer results (R84, R86, R121). -/

namespace Sys2Proof.Machine

/-- The barriers of a task that still hold. -/
def Tile.liveBars (t : Tile) (bars : List Nat) : List Nat := bars.filter fun u => t.words.any fun e => e.uid == u

/-- The operation of R130 on n-byte values: the new value, and whether it is written. -/
def amoResult (op n : Nat) (old v expect : Nat) : Nat × Bool :=
  let m := 2 ^ (8 * n)
  let sg := fun x => sext x (8 * n)
  match op with
  | 0 => ((old + v) % m, true)
  | 1 => (old &&& v, true)
  | 2 => (old ||| v, true)
  | 3 => (old ^^^ v, true)
  | 4 => (if sg old ≤ sg v then old else v, true)
  | 5 => (if sg old ≤ sg v then v else old, true)
  | 6 => (min old v, true)
  | 7 => (max old v, true)
  | 8 => (v, true)
  | _ => (v, old == expect)

/-- An operation at its location: the state after it and the bytes that it returns (R124, R125, R129). An atomic whose
64-bit result would be an address of the PARCEL aperture leaves memory unchanged and traps PARCEL_ESCAPE (R132). `addr` is
what TADDR receives. -/
def State.perform (s : State) (op : MemOp) (loc : Nat) (addr : Word) : Res (State × List Byte) :=
  match op with
  | .load n _ => if s.poisoned loc n then .error (.fatal 6) else .ok (s, s.bytesAt loc n)
  | .store bs => .ok (s.store loc bs, [])
  | .move n _ => .ok (s, s.bytesAt loc n)
  | .put bs => .ok (s.storeMarked loc bs, [])
  | .half v high bad =>
    let old := (s.byte loc).toNat
    let new := if high then old % 16 + 16 * (v % 16) else old / 16 * 16 + v % 16
    .ok (s.store loc [BitVec.ofNat 8 new] (bad || s.poison.contains loc), [])
  | .add n => (s.addTo loc n).map fun s' => (s', s.bytesAt loc 8)
  | .amo op w v expect =>
    let n := wdBytes w
    if s.poisoned loc n then .error (.fatal 6)
    else
      let old := s.readNat loc n
      let (new, writes) := amoResult op n old (v.toNat % 2 ^ (8 * n)) (expect.toNat % 2 ^ (8 * n))
      if n = 8 && writes && escapes (BitVec.ofNat 64 new) then trapAcc .parcelEscape addr .amo 0
      else .ok (if writes then s.store loc (bytesOf n new) else s, s.bytesAt loc n)

/-- The value that an operation's bytes give a register (R124, R129). -/
def MemOp.value (op : MemOp) (bs : List Byte) : Word :=
  match op with
  | .load n sg => extend n sg (leNat bs)
  | .store _ => 0
  | .move .. => 0
  | .put _ => 0
  | .half .. => 0
  | .add _ => 0
  | .amo _ w _ _ => extend (wdBytes w) true (leNat bs)

/-- The scalar stream of the issuing task is empty: every earlier access has performed and landed (R121, R133). -/
def State.streamEmpty (s : State) : Res Unit :=
  if s.me.stream.isEmpty then .ok ()
  else s.waitFor (s.myWords.filter fun e => s.me.stream.any fun a => a.bars.contains e.uid)

/-- Nothing that must perform before an access which the issuing task makes at once stands out: its scalar stream is empty, and
no barrier of SBAR or of an acquiring RAMO holds (R121, R134, R249). -/
def State.mayAccess (s : State) : Res Unit := do
  s.streamEmpty
  if s.cur.barred s.me.bars then s.waitFor (s.myWords.filter fun e => s.me.bars.contains e.uid) else .ok ()

/-! ### Accesses of another tile's SRAM, and slice ports -/

/-- The location is the SRAM of another tile (R271). -/
def elsewhere (t loc : Nat) : Bool :=
  match sramTile loc with
  | some u => u != t
  | none => false

/-- An operation that brings a value back: a read or an atomic (R133, R311). -/
def MemOp.reads : MemOp → Bool
  | .store _ => false
  | .put _ => false
  | .half .. => false
  | _ => true

/-- The bytes that an operation covers. -/
def MemOp.size : MemOp → Nat
  | .load n _ => n
  | .store bs => bs.length
  | .amo _ w _ _ => wdBytes w
  | .move n _ => n
  | .put bs => bs.length
  | .half .. => 1
  | .add _ => 8

/-- The response lands in one of the response buffers of tile `t`: its word is not an L word, which has its own place for it
(R311). -/
def Tile.buffers (t : Tile) : Dest → Bool
  | .word uid _ => !(t.lq ++ t.air).any fun e => e.uid == uid
  | _ => true

/-- A packet for which tile `t` keeps a response buffer (R311). -/
def State.buffered (s : State) (t : Nat) : Pkt → Bool
  | .req u _ op _ d _ _ _ => u == t && op.reads && (s.tileAt t).buffers d
  | .resp u _ _ d _ _ => u == t && (s.tileAt t).buffers d
  | _ => false

/-- One of the 32 response buffers of a tile is free (R311). -/
def State.bufferFree (s : State) (t : Nat) : Bool := decide ((s.pkts.filter (s.buffered t)).length < 32)

/-- A destination of the circuit table of a tile (R308). -/
def Tile.onCircuit (t : Tile) (dst : Nat) : Bool :=
  t.circuits.any fun kv => kv.2.getLsbD 16 && kv.2.toNat % 65536 == dst

/-- The routers of an XY route from tile (x, y) on, which the flit enters by port `i`, each with its input and output port
(R302, R304). -/
def routeFrom (dst : Nat) : Nat → Nat → Nat → Nat → List (Nat × Nat × Nat)
  | 0, _, _, _ => []
  | n + 1, x, y, i =>
    let here := tileKey x y
    if x < tileX dst then (here, i, 3) :: routeFrom dst n (x + 1) y 5
    else if tileX dst < x then (here, i, 5) :: routeFrom dst n (x - 1) y 3
    else if y < tileY dst then (here, i, 4) :: routeFrom dst n x (y + 1) 2
    else if tileY dst < y then (here, i, 2) :: routeFrom dst n x (y - 1) 4
    else [(here, i, 1)]

/-- A request of tile `t`. A write to a destination of the circuit table travels on VC2: one header flit and one flit for each 64
bytes (R303, R308); so does one of an RST of POD or SYSTEM scope that names its own package (log 90). -/
def State.reqPkt (s : State) (t k : Nat) (op : MemOp) (loc : Nat) (d : Dest) : State × Pkt :=
  let dst := (sramTile loc).getD 0
  if !op.reads && sramTile loc != none && (s.tileAt t).onCircuit dst then
    let n := 1 + (op.size + 63) / 64
    ({ s with hops := s.hops + n },
      .req t k op loc d (portOf loc) (routeFrom dst 64 (tileX t) (tileY t) 1) ((List.range n).map fun i => ⟨0, s.hops + i⟩))
  else (s, .req t k op loc d (portOf loc) [] [])

/-- A packet leaves a tile (R22, R316). -/
def State.sendPkt (s : State) (t : Nat) (p : Pkt) : State :=
  { s.updTile t fun u => { u with outbound := u.outbound + 1 } with pkts := s.pkts ++ [p] }

/-- A read or a write of tile `t` at another tile leaves; a read waits for a response buffer (R271, R311). -/
def State.sendReqAt (s : State) (t k : Nat) (op : MemOp) (loc : Nat) (d : Dest) : Res State :=
  if op.reads && !s.bufferFree t then .error .wait
  else
    let (s', p) := s.reqPkt t k op loc d
    .ok (s'.sendPkt t p)

/-- A request of n bytes of a context at a slice port of HBM4 is admitted: its bucket pays, or else the pool of its partition
(R282, log 31). -/
def State.admitted (s : State) (c p loc n : Nat) : Res State :=
  if 2 ^ 40 ≤ loc then .ok s
  else
    let port := homeSlice loc
    let q := (s.ctxAt c).qos.get {} port
    let pool := (s.partAt p).pools.get 0 port
    if n ≤ q.fill then .ok (s.updCtx c fun x => { x with qos := x.qos.put port { q with fill := q.fill - n } })
    else if n ≤ pool then .ok (s.updPart p fun x => { x with pools := x.pools.put port (pool - n) })
    else .error .wait

/-- The same for an access of a tile, and for one of a context. -/
def State.admitAt (s : State) (t loc n : Nat) : Res State :=
  s.admitted ((s.tileAt t).ctx.getD 0) ((s.tileAt t).part.getD 0) loc n
def State.admitCtx (s : State) (c loc n : Nat) : Res State := s.admitted c (s.ctxAt c).record.part.toNat loc n

/-- The runs of locations one after another that lie in one 256-byte block, which one home slice holds (R280), as first and length;
`n` bounds their number. -/
def blockRuns : Nat → List Nat → List (Nat × Nat)
  | 0, _ => []
  | _, [] => []
  | n + 1, a :: r =>
    let k := ((r.zipIdx).takeWhile fun x => x.1 == a + x.2 + 1 && x.1 / 256 == a / 256).length
    (a, k + 1) :: blockRuns n (r.drop k)

/-- The slice ports admit an access of many bytes, each for the bytes that it holds. -/
def State.admitAll (s : State) (t : Nat) (ls : List Nat) : Res State :=
  (blockRuns ls.length ls).foldl (fun r x => r.bind fun s => s.admitAt t x.1 x.2) (.ok s)

/-- An access that has passed its checks joins the scalar stream; its destination is pending (R120, R121). -/
def State.join (s : State) (op : MemOp) (loc : Nat) (d : BitVec 5) : State :=
  s.updMe fun t =>
    { t.smark d with
      stream := t.stream ++ [{ op := op, loc := loc, dst := d, bars := s.cur.liveBars t.bars, era := (s.ctxAt s.myCtx).era }]
      bars := s.cur.liveBars t.bars }

/-- A load (R124). -/
def State.load (s : State) (w : Instr) (g : Guard) (d a : BitVec 5) (i : BitVec 9) (n : Nat) (sg : Bool) : Out :=
  s.plain w g { src := [a], dst := [d] } fun s => do
    let loc ← s.resolve s.who (mAddr (s.getS a) i n) n .read
    .ok (s.join (.load n sg) loc d)

/-- A store (R125); a 64-bit value is checked before any effect (R123). -/
def State.storeWord (s : State) (w : Instr) (g : Guard) (d a : BitVec 5) (i : BitVec 9) (n : Nat) : Out :=
  s.plain w g { src := [a, d] } fun s => do
    let ea := mAddr (s.getS a) i n
    let loc ← s.resolve s.who ea n .write
    if n = 8 && escapes (s.getS d) then trapAcc .parcelEscape ea .write 0
    else .ok (s.join (.store (wordBytes n (s.getS d))) loc 0)

/-- The request of a word that holds its task is not out. -/
def State.notOut (s : State) : Res Unit := if s.me.asked = .out then .error .wait else .ok ()

/-- An access that holds its task (R127, R131): at its location at once, and the word is done; where another tile owns the
location, its request leaves, and the word is done when the answer lands (R271). An owner that has refused an atomic whose
result would escape makes it trap (R132). -/
def State.hold (s : State) (op : MemOp) (loc : Nat) (ea : Word) (d : BitVec 5) : Res State := do
  s.mayAccess
  if elsewhere s.tile loc then
    if s.me.asked = .escape then trapAcc .parcelEscape ea .amo 0
    else do
      let s' ← s.sendReqAt s.tile s.task op loc (.held d)
      .ok (s'.updMe fun t => { t with asked := .out })
  else do
    let s1 ← s.admitAt s.tile loc op.size
    let (s', bs) ← s1.perform op loc ea
    .ok ((s'.setS d (op.value bs)).issued 1)

/-- LDA (R127): the task goes on when the value has landed. -/
def State.acquireLoad (s : State) (w : Instr) (g : Guard) (d a : BitVec 5) (n : Nat) : Out :=
  s.runWord w g { src := [a], dst := [d] } fun s => do
    s.notOut
    let loc ← s.resolve s.who (s.getS a) n .read
    s.hold (.load n true) loc (s.getS a) d

/-- STR (R127): the store follows the release set of the word in the scalar stream; the task goes on. -/
def State.releaseStore (s : State) (w : Instr) (g : Guard) (d a : BitVec 5) (n : Nat) : Out :=
  s.plain w g { src := [a, d] } fun s => do
    let loc ← s.resolve s.who (s.getS a) n .write
    if n = 8 && escapes (s.getS d) then trapAcc .parcelEscape (s.getS a) .write 0
    else .ok (s.join (.store (wordBytes n (s.getS d))) loc 0)

/-- An AMO (R129-R132): one with acquire order, and every 64-bit one, holds the task until its old value has landed. -/
def State.amo (s : State) (w : Instr) (o : Order) (d a b : BitVec 5) (op : Nat) (wd : Wd) : Out :=
  s.runWord w always { src := if op = 9 then [a, b, d] else [a, b], dst := [d] } fun s => do
    s.notOut
    let ea := s.getS a
    let loc ← s.resolve s.who ea (wdBytes wd) .amo
    let act := MemOp.amo op wd (s.getS b) (if op = 9 then s.getS d else 0)
    if wd = .d64 && 8 ≤ op && escapes (s.getS b) then trapAcc .parcelEscape ea .amo 0
    else if wd = .d64 || o = .acquire || o = .acqRel then s.hold act loc ea d
    else .ok ((s.join act loc d).issued 1)

/-- LDB (R124). -/
def execLdb (g : Guard) (d a : BitVec 5) (i : BitVec 9) (s : State) : Out :=
  s.load (.ldb g d a i) g d a i 1 true

/-- LDH (R124). -/
def execLdh (g : Guard) (d a : BitVec 5) (i : BitVec 9) (s : State) : Out :=
  s.load (.ldh g d a i) g d a i 2 true

/-- LDW (R124). -/
def execLdw (g : Guard) (d a : BitVec 5) (i : BitVec 9) (s : State) : Out :=
  s.load (.ldw g d a i) g d a i 4 true

/-- LDD (R124). -/
def execLdd (g : Guard) (d a : BitVec 5) (i : BitVec 9) (s : State) : Out :=
  s.load (.ldd g d a i) g d a i 8 false

/-- LDBU (R124). -/
def execLdbu (g : Guard) (d a : BitVec 5) (i : BitVec 9) (s : State) : Out :=
  s.load (.ldbu g d a i) g d a i 1 false

/-- LDHU (R124). -/
def execLdhu (g : Guard) (d a : BitVec 5) (i : BitVec 9) (s : State) : Out :=
  s.load (.ldhu g d a i) g d a i 2 false

/-- LDWU (R124). -/
def execLdwu (g : Guard) (d a : BitVec 5) (i : BitVec 9) (s : State) : Out :=
  s.load (.ldwu g d a i) g d a i 4 false

/-- STB (R125). -/
def execStb (g : Guard) (d a : BitVec 5) (i : BitVec 9) (s : State) : Out :=
  s.storeWord (.stb g d a i) g d a i 1

/-- STH (R125). -/
def execSth (g : Guard) (d a : BitVec 5) (i : BitVec 9) (s : State) : Out :=
  s.storeWord (.sth g d a i) g d a i 2

/-- STW (R125). -/
def execStw (g : Guard) (d a : BitVec 5) (i : BitVec 9) (s : State) : Out :=
  s.storeWord (.stw g d a i) g d a i 4

/-- STD (R125). -/
def execStd (g : Guard) (d a : BitVec 5) (i : BitVec 9) (s : State) : Out :=
  s.storeWord (.std g d a i) g d a i 8

/-- LDA.W (R127). -/
def execLdaW (g : Guard) (d a : BitVec 5) (sc : Scope) (s : State) : Out :=
  s.acquireLoad (.ldaW g d a sc) g d a 4

/-- LDA.D (R127). -/
def execLdaD (g : Guard) (d a : BitVec 5) (sc : Scope) (s : State) : Out :=
  s.acquireLoad (.ldaD g d a sc) g d a 8

/-- STR.W (R127). -/
def execStrW (g : Guard) (d a : BitVec 5) (sc : Scope) (s : State) : Out :=
  s.releaseStore (.strW g d a sc) g d a 4

/-- STR.D (R127). -/
def execStrD (g : Guard) (d a : BitVec 5) (sc : Scope) (s : State) : Out :=
  s.releaseStore (.strD g d a sc) g d a 8

/-- AMO.ADD (R129, R130). -/
def execAmoAdd (sc : Scope) (o : Order) (d a b : BitVec 5) (w : Wd) (s : State) : Out :=
  s.amo (.amoAdd sc o d a b w) o d a b 0 w

/-- AMO.AND (R129, R130). -/
def execAmoAnd (sc : Scope) (o : Order) (d a b : BitVec 5) (w : Wd) (s : State) : Out :=
  s.amo (.amoAnd sc o d a b w) o d a b 1 w

/-- AMO.OR (R129, R130). -/
def execAmoOr (sc : Scope) (o : Order) (d a b : BitVec 5) (w : Wd) (s : State) : Out :=
  s.amo (.amoOr sc o d a b w) o d a b 2 w

/-- AMO.XOR (R129, R130). -/
def execAmoXor (sc : Scope) (o : Order) (d a b : BitVec 5) (w : Wd) (s : State) : Out :=
  s.amo (.amoXor sc o d a b w) o d a b 3 w

/-- AMO.MIN (R129, R130). -/
def execAmoMin (sc : Scope) (o : Order) (d a b : BitVec 5) (w : Wd) (s : State) : Out :=
  s.amo (.amoMin sc o d a b w) o d a b 4 w

/-- AMO.MAX (R129, R130). -/
def execAmoMax (sc : Scope) (o : Order) (d a b : BitVec 5) (w : Wd) (s : State) : Out :=
  s.amo (.amoMax sc o d a b w) o d a b 5 w

/-- AMO.MINU (R129, R130). -/
def execAmoMinu (sc : Scope) (o : Order) (d a b : BitVec 5) (w : Wd) (s : State) : Out :=
  s.amo (.amoMinu sc o d a b w) o d a b 6 w

/-- AMO.MAXU (R129, R130). -/
def execAmoMaxu (sc : Scope) (o : Order) (d a b : BitVec 5) (w : Wd) (s : State) : Out :=
  s.amo (.amoMaxu sc o d a b w) o d a b 7 w

/-- AMO.SWP (R129, R130). -/
def execAmoSwp (sc : Scope) (o : Order) (d a b : BitVec 5) (w : Wd) (s : State) : Out :=
  s.amo (.amoSwp sc o d a b w) o d a b 8 w

/-- AMO.CAS (R129, R130). -/
def execAmoCas (sc : Scope) (o : Order) (d a b : BitVec 5) (w : Wd) (s : State) : Out :=
  s.amo (.amoCas sc o d a b w) o d a b 9 w

/-- Every earlier load, LDA and AMO of the issuing task has landed (R133). -/
def State.readsLanded (s : State) : Res Unit :=
  if s.me.stream.any fun a => a.op.reads then s.streamEmpty else .ok ()

/-- FENCE (R133): ACQ waits until the task's earlier loads and AMOs have landed, which R121 puts behind the accesses before
them; REL until the release set has performed; ACQREL and SC for both. With one copy of memory an access that has performed
has performed at every scope (log 6). -/
def execFence (g : Guard) (sc : Scope) (k : FKind) (s : State) : Out :=
  s.plain (.fence g sc k) g {} fun s => (if k = .acq then s.readsLanded else s.streamEmpty).map fun _ => s

/-- The streams that a C word uses (R134). -/
def usesStream (w : Instr) (mask : Nat) : Bool :=
  let has := fun (x : BitVec 5) => decide (x.toNat < 8) && (mask / 2 ^ x.toNat % 2 == 1)
  match w with
  | .copy s d _ _ => has s || has d
  | .copym s _ _ _ => has s
  | .cqnt s d _ _ => has s || has d
  | .cexp s d _ _ => has s || has d
  | .ccvt s d _ _ => has s || has d
  | .cfill d _ _ => has d
  | _ => false

/-- SBAR (R134): the task's later accesses wait for the words pushed before it that use a selected stream. -/
def execSbar (g : Guard) (a : BitVec 5) (s : State) : Out :=
  s.plain (.sbar g a) g { src := [a] } fun s =>
    let us := (s.cur.cq.filter fun e => usesStream e.word ((s.getS a).toNat % 256)).map (·.uid)
    .ok (s.updMe fun t => { t with bars := (s.cur.liveBars t.bars ++ us).foldl addOnce [] })

/-- A task goes to sleep on a counter: its writes are notified from now on (R317), and one that has come since the task read it
is notified at once. -/
def State.watching (s : State) (loc : Nat) (written : Bool) : State :=
  if s.watch.any fun w => w.1 == loc then { s with watch := s.watch.map fun w => if w.1 = loc then (loc, w.2 || written) else w }
  else { s with watch := s.watch ++ [(loc, written)] }

/-- A counter has been read by the WAITC of task `k` of tile `t` (R135): the task goes on where it has reached the target, else
it sleeps on the counter. -/
def State.counted (s : State) (t k loc c : Nat) (target : Word) : State :=
  if target.toNat ≤ c then
    s.updTile t fun u =>
      { ((u.unyield k).unqueue k).updTask k fun y => { y.advance 1 with asked := .no } with
        last := Fin.ofNat 4 k
        lastIssue := s.cyclesAt t
        trapWait := u.trapWait &&& ~~~((1 : BitVec 4) <<< k) }
  else (s.updTile t fun u => u.updTask k fun y => { y with sleep := some loc, seen := c, asked := .no }).watching loc (s.readNat loc 8 != c)

/-- WAITC (R135): goes on once the counter has reached the target, else sleeps until an update is notified. -/
def execWaitc (g : Guard) (sc : Scope) (a b : BitVec 5) (s : State) : Out :=
  s.runWord (.waitc g sc a b) g { src := [a, b] } fun s => do
    s.notOut
    let ea := s.getS a
    if ea.toNat % 8 = 0 && (spaceOf ea == 0x803 || spaceOf ea == 0x804) then trapAcc .apertureMiss ea .read 0
    else do
      let loc ← s.resolve s.who ea 8 .read
      s.mayAccess
      if elsewhere s.tile loc then do
        let s' ← s.sendReqAt s.tile s.task (.load 8 false) loc (.count loc (s.getS b))
        .ok (s'.updMe fun t => { t with asked := .out })
      else do
        let s1 ← s.admitAt s.tile loc 8
        let c ← s1.consume loc 8
        if (s.getS b).toNat ≤ c then .ok (s1.issued 1)
        else .ok ((s1.updMe fun t => { t with sleep := some loc, seen := c }).watching loc false).waits

/-- WAITC_WAKE (R135, R317): the counter has been written, by whatever write, and the notices of it reach every task that sleeps on
it; each reads it again. -/
def execWaitcWake (loc : Nat) (s : State) : Out :=
  .next (if s.watch.contains (loc, true) then
    { s with
      watch := s.watch.filter fun w => w.1 != loc
      tiles := s.tiles.map fun kv =>
        (kv.1, { kv.2 with tasks := kv.2.tasks.map fun t =>
          if t.sleep = some loc then { t with sleep := none, seen := 0 } else t }) }
  else s)

/-- An event whose operation gives `r`: what cannot happen now leaves the state as it is, and poisoned data consumed ends
the context of tile `t` (R382); what meets no memory never happens (log 7). -/
def State.eventAt (s : State) (t : Nat) (r : Res State) : Out :=
  match r with
  | .ok s' => .next s'
  | .error .wait => .next s
  | .error (.full _) => .next s
  | .error (.trap _) => .next s
  | .error (.fatal c) => .next (s.fatal t ((s.tileAt t).ctx.getD 0) c)
  | .error .hole => .next s

/-- An engine of a tile has performed part of a word, unless all that it did was to meet a fault (R338). -/
def State.performed (s : State) (t : Nat) (r : Res State) : Res State :=
  r.map fun s' =>
    if (s.tileAt t).faults.length < (s'.tileAt t).faults.length then s'
    else s'.updTile t fun u => { u with lastIssue := s'.cyclesAt t }

/-- An event in which an engine of a tile performs something, which the node watchdog counts (R338). -/
def State.eventOf (s : State) (t : Nat) (r : Res State) : Out :=
  s.eventAt t (s.performed t r)

/-- The oldest access of the stream of task `k` has performed: it leaves, and the L words that wait for it count it
(R121, R122). -/
def Tile.popAccess (t : Tile) (k : Nat) : Tile :=
  let t := t.updTask k fun y => { y with stream := y.stream.drop 1 }
  { t with lq := t.lq.map fun (e : Entry) => if e.task = k then ({ e with took := e.took - 1 } : Entry) else e }

/-- The oldest access of a task's scalar stream: performed, or sent to the tile that owns its location (R121, R271). -/
def State.landAccess (s : State) (t k : Nat) : Res State :=
  match ((s.tileAt t).taskAt k).stream with
  | [] => .error .wait
  | a :: rest =>
    if a.sent || (s.tileAt t).barred a.bars then .error .wait
    else if elsewhere t a.loc then do
      let s' ← s.sendReqAt t k a.op a.loc (.reg a.dst)
      .ok (s'.updTile t fun x => x.updTask k fun y => { y with stream := { a with sent := true } :: rest })
    else do
      let s1 ← s.admitAt t a.loc a.op.size
      let (s', bs) ← s1.perform a.op a.loc 0
      .ok (s'.updTile t fun x => (x.popAccess k).updTask k fun y =>
        match a.op with
        | .store _ => y
        | _ => y.sset a.dst (a.op.value bs))

/-- Bytes of a range become 0, which is a write of each (R317). -/
def State.zeroAt (s : State) (p n : Nat) : State :=
  { s with
    mem := s.mem.filter fun kv => !(decide (p ≤ kv.1) && decide (kv.1 < p + n))
    watch := s.watch.map (noticed p n)
    poison := s.poison.filter fun x => !(decide (p ≤ x) && decide (x < p + n)) }

/-- A result of a long-latency unit lands (R84, R86). A parcel is zeroed first, by requests that lie in one 256-byte block each, once
a slice port admits them (R151, R282). -/
def State.landResult (s : State) (t k j : Nat) : Res State :=
  match ((s.tileAt t).taskAt k).landings[j]? with
  | none => .error .wait
  | some r => match r.zero with
    | (p, n) :: rest => do
      let m := min n (256 - p % 256)
      let s1 ← s.admitAt t p m
      .ok ((s1.zeroAt p m).updTile t fun x => x.updTask k fun y =>
        { y with landings := y.landings.set j { r with zero := if n ≤ m then rest else (p + m, n - m) :: rest } })
    | [] => .ok (s.updTile t fun x => x.updTask k fun y =>
      ({ y with landings := y.landings.eraseIdx j } : Task).sset r.dst r.val)

/-- SEQUENCER_RESULT_LANDING (R84, R86, R121): for k = 0 the oldest access of the scalar stream, else result k - 1 of the
long-latency units. -/
def execSequencerResultLanding (tile task k : Nat) (s : State) : Out :=
  s.eventAt tile (if k = 0 then s.landAccess tile task else s.landResult tile task (k - 1))

end Sys2Proof.Machine
end

