-- ==== Sys2Proof/Machine/Tasks.lean ====
section
/-! DEFINITION. Tasks.lean: majors 0x15 and 0x16, tasks, channels and the work deque (R137-R142, R145), and the arrival of
sends and steals (R140, R145). -/

namespace Sys2Proof.Machine

/-- The lowest free slot of 1 to 3 (R137). -/
def Tile.freeSlot (t : Tile) : Option Nat := [1, 2, 3].find? fun k => !(t.taskAt k).live

/-- A task that TSPAWN starts (R137). Accesses that an earlier task of the slot issued before its exit still perform. -/
def Task.spawn (old parent : Task) (pc arg : Word) : Task :=
  { ({ stream := old.stream, pc := pc, rmode := parent.rmode, level := parent.level, live := true } : Task) with
    s := ((Vector.replicate 32 (0 : Word)).set 1 arg).set 7 (parent.sget 7) }

/-- TSPAWN (R137). -/
def execTspawn (g : Guard) (d a b : BitVec 5) (s : State) : Out :=
  s.plain (.tspawn g d a b) g { src := [a, b, 7], dst := [d] } fun s =>
    if (s.getS a).toNat % 4 ≠ 0 then trapOf .misaligned (s.getS a)
    else match s.cur.freeSlot with
      | none => .ok (s.setS d 0)
      | some k =>
        let x := (s.cur.taskAt k).spawn s.me (s.getS a) (s.getS b)
        .ok ((s.updTile s.tile fun t => t.setTask k x).setS d (BitVec.ofNat 64 k))

/-- The slot after its task ended: what it issued still performs, and results still on their way are dropped (R110, R138). -/
def Task.freed (t : Task) : Task := { stream := t.stream.map fun a => ({ a with dst := 0 } : Access) }

/-- A result on its way to a register of task `k` of tile `t` no longer finds it. -/
def Pkt.dropDst (t k : Nat) : Pkt → Pkt
  | .send x j d u c w => .send x j (if x = t ∧ j = k then 0 else d) u c w
  | .steal x j d u => .steal x j (if x = t ∧ j = k then 0 else d) u
  | .req x j op l (.reg d) h y n => .req x j op l (.reg (if x = t ∧ j = k then 0 else d)) h y n
  | .resp x j bs (.reg d) h sg => .resp x j bs (.reg (if x = t ∧ j = k then 0 else d)) h sg
  | p => p

/-- Every channel bound to a task is unbound (R138). -/
def Tile.unbind (t : Tile) (k : Nat) : Tile :=
  { t with chans := t.chans.map fun c => (c.1, if c.2.bound = some k then { c.2 with bound := none } else c.2) }

/-- The end of a task once its engine words have performed (R138). -/
def State.endTask (s : State) : State :=
  let k : Nat := s.task
  let f := s.me.flags
  let s : State := s.updCtx (s.cur.ctx.getD 0) fun c => { c with sticky := c.sticky ||| f }
  let s := s.updTile s.tile fun t => ((t.unbind k).releaseWin k).updTask k Task.freed
  { s with
    pkts := s.pkts.map (Pkt.dropDst s.tile k)
    regions := s.regions.map fun r =>
      (r.1, if r.2.answer.any fun a => a.1 == s.tile && a.2.1 == k then ({ r.2 with answer := none } : Region) else r.2) }

/-- EXIT and TEXIT (R138). -/
def State.leave (s : State) (w : Instr) (g : Guard) : Out :=
  s.runWord w g {} fun s => s.drained.map fun _ => s.noted.endTask

/-- EXIT (R138). -/
def execExit (g : Guard) (s : State) : Out := s.leave (.exit g) g

/-- TEXIT (R138). -/
def execTexit (g : Guard) (s : State) : Out := s.leave (.texit g) g

/-- A channel of a tile (R139). -/
def Tile.chan (t : Tile) (c : Nat) : Chan := t.chans.get {} c
def Tile.setChan (t : Tile) (c : Nat) (x : Chan) : Tile := { t with chans := t.chans.set {} c x }

/-- BIND (R139). -/
def execBind (g : Guard) (d a : BitVec 5) (s : State) : Out :=
  s.plain (.bind g d a) g { src := [a], dst := [d] } fun s =>
    let c := (s.getS a).toNat % 16
    let x := s.cur.chan c
    let mine := x.bound == some (s.task : Nat)
    let ok := if (s.getS a).getLsbD 4 then mine else x.bound.isNone || mine
    let holder : Option Nat := if (s.getS a).getLsbD 4 then none else some s.task
    if ok then .ok ((s.updTile s.tile fun t => t.setChan c { x with bound := holder }).setS d 0)
    else .ok (s.setS d 1)

/-- A tile that exists: inside the partition, and its block not fused off (R3, R140). -/
def State.reaches (s : State) (t : Nat) : Bool :=
  s.inPart (s.cur.part.getD 0) t && !s.fused.contains (blockOf t)

/-- A request of the issuing task leaves its tile; its destination is pending. -/
def State.sendReq (s : State) (d : BitVec 5) (p : Pkt) : State :=
  (s.updMe fun t => t.smark d).sendPkt s.tile p

/-- SEND (R140, R123). -/
def execSend (g : Guard) (d a b : BitVec 5) (s : State) : Out :=
  s.plain (.send g d a b) g { src := [a, b], dst := [d] } fun s =>
    let w := s.getS a
    let t := tileSel w
    if escapes (s.getS b) then trapOf .parcelEscape w
    else if w.toNat / 2 ^ 20 ≠ 0 || !s.reaches t then .ok (s.setS d 2)
    else .ok (s.sendReq d (.send s.tile s.task d t (w.toNat / 2 ^ 16 % 16) (s.getS b)))

/-- RECV (R141). -/
def execRecv (g : Guard) (d a : BitVec 5) (s : State) : Out :=
  s.plain (.recv g d a) g { src := [a], dst := [d] } fun s =>
    let c := (s.getS a).toNat % 16
    let x := s.cur.chan c
    if x.bound ≠ some (s.task : Nat) then trapOf .portUnbound (s.getS a)
    else match x.fifo with
      | [] => .error .wait
      | w :: r => .ok ((s.updTile s.tile fun t => t.setChan c { x with fifo := r }).setS d w)

/-- DQPUSH (R145): the last entry of the list is the top. All ones on a full deque answers 2 (log 58). -/
def execDqpush (g : Guard) (d a : BitVec 5) (s : State) : Out :=
  s.plain (.dqpush g d a) g { src := [a], dst := [d] } fun s =>
    if s.getS a = BitVec.allOnes 64 then .ok (s.setS d 2)
    else if s.cur.deque.length ≥ 64 then .ok (s.setS d 1)
    else
      let v := s.getS a
      .ok ((s.updTile s.tile fun t => { t with deque := t.deque ++ [v] }).setS d 0)

/-- DQPOP (R145). -/
def execDqpop (g : Guard) (d : BitVec 5) (s : State) : Out :=
  s.plain (.dqpop g d) g { dst := [d] } fun s =>
    match s.cur.deque.getLast? with
    | none => .ok (s.setS d (BitVec.allOnes 64))
    | some v => .ok ((s.updTile s.tile fun t => { t with deque := t.deque.dropLast }).setS d v)

/-- The bottom entry of a deque, removed (R145). -/
def State.takeBottom (s : State) (t : Nat) : Word × State :=
  match (s.tileAt t).deque with
  | [] => (BitVec.allOnes 64, s)
  | v :: r => (v, s.updTile t fun x => { x with deque := r })

/-- DQSTEAL (R145). -/
def execDqsteal (g : Guard) (d a : BitVec 5) (s : State) : Out :=
  s.plain (.dqsteal g d a) g { src := [a], dst := [d] } fun s =>
    let t := tileSel (s.getS a)
    if !s.reaches t then .ok (s.setS d (BitVec.allOnes 64))
    else if t = s.tile then .ok ((s.takeBottom t).2.setS d (s.takeBottom t).1)
    else .ok (s.sendReq d (.steal s.tile s.task d t))

/-- DQLEN (R145). -/
def execDqlen (g : Guard) (d : BitVec 5) (s : State) : Out :=
  s.plain (.dqlen g d) g { dst := [d] } fun s => .ok (s.setS d (BitVec.ofNat 64 s.cur.deque.length))

/-- An answer lands in a register of its task and the request no longer counts (R84, R311). -/
def State.answerReg (s : State) (t k : Nat) (d : BitVec 5) (v : Word) : State :=
  s.updTile t fun x => { x.updTask k fun y => y.sset d v with outbound := x.outbound - 1 }

/-- The word is an RST. -/
def isRst : Instr → Bool
  | .rst .. => true
  | _ => false

/-- The L words of a tile whose token is open: those in the queue and those that have left it. -/
def Tile.findL (t : Tile) (uid : Nat) : Option Entry := (t.lq ++ t.air).find? fun e => e.uid == uid

/-- Where the add of an L word goes: an RST's address is translated at its target (R235), the others hold their location. -/
def State.counterLoc (s : State) (t : Nat) (x : Entry) (a : Word) : Res Nat :=
  if isRst x.word then s.resolve (s.whoOf t x) a 8 .amo else .ok a.toNat

/-- The tile to which a packet of tile `t` travels on VC0 (R303). -/
def State.vc0 (s : State) (t : Nat) : Pkt → Option Nat
  | .req t' _ _ loc _ _ way _ => if t' = t ∧ way = [] then sramTile loc else none
  | .send t' _ _ u .. | .steal t' _ _ u => if t' = t then some u else none
  | .counter t' _ uid a _ =>
    if t' = t then ((s.tileAt t).findL uid).bind fun x => (s.counterLoc t x a).toOption.bind sramTile else none
  | _ => none

/-- A request or the counter add of an L word, which performs in any order among those of L words (R263). -/
def State.ofL (s : State) (t : Nat) : Pkt → Bool
  | .req _ _ _ _ (.word uid _) .. => ((s.tileAt t).findL uid).isSome
  | .counter .. => true
  | _ => false

/-- Packet k of tile `t` to tile `u` has none before it on its way: the FIFOs of VC0 keep the order of the packets of one tile of which
the earlier one leaves the mesh on the XY route of the later one (R303, R304, log 32). -/
def State.inOrder (s : State) (k t u : Nat) : Bool :=
  let free := (s.pkts[k]?).any (s.ofL t)
  let route := (routeFrom u 64 (tileX t) (tileY t) 1).map fun h => h.1
  !(s.pkts.take k).any fun q => (s.vc0 t q).any fun v => v != t && route.contains v && !(free && s.ofL t q)

/-- SEND_ARRIVAL (R140): packet k of those on their way, a SEND, reaches its FIFO, and its status lands. The words of one
tile for one tile arrive in order. An unbound channel answers UNBOUND even where its FIFO is full (log 58). -/
def execSendArrival (k : Nat) (s : State) : Out :=
  match s.pkts[k]? with
  | some (.send t j d u c w) =>
    if !s.inOrder k t u then .next s
    else
      let s : State := ({ s with pkts := s.pkts.eraseIdx k } : State).wakeBlock (blockOf u)
      let x := (s.tileAt u).chan c
      .next (if x.bound.isNone then s.answerReg t j d 3
        else if x.fifo.length ≥ 8 then s.answerReg t j d 1
        else (s.updTile u fun y => y.setChan c { x with fifo := x.fifo ++ [w] }).answerReg t j d 0)
  | _ => .next s

/-- DQSTEAL_ARRIVAL (R145): packet k of those on their way, a steal, takes the bottom entry, which lands. -/
def execDqstealArrival (k : Nat) (s : State) : Out :=
  match s.pkts[k]? with
  | some (.steal t j d u) =>
    if !s.inOrder k t u then .next s
    else
    let s : State := ({ s with pkts := s.pkts.eraseIdx k } : State).wakeBlock (blockOf u)
    .next ((s.takeBottom u).2.answerReg t j d (s.takeBottom u).1)
  | _ => .next s

end Sys2Proof.Machine
end

