-- ==== Sys2Proof/Machine/Parcels.lean ====
section
/-! DEFINITION. Parcels.lean: majors 0x17 and 0x18 but POST, which is pushed to L: the directory (R373, R374), the heap, and
the parcel words (R146-R153, R155). -/

namespace Sys2Proof.Machine

/-- A directory entry (R373) and its slot. -/
structure Par where
  slot : Nat
  handle : Word
  base : Word
  len : Nat
  state : Nat
  maps : Nat := 0
  last : Nat := 0
  peer : Nat := 0
  deriving DecidableEq, Repr

/-- The entry in a slot of a context's directory. -/
def State.parAt (s : State) (c j : Nat) : Par :=
  let p := (s.ctxAt c).record.pdir.toNat + 32 * j
  { slot := j
    handle := BitVec.ofNat 64 (s.readNat p 8)
    base := BitVec.ofNat 64 (s.readNat (p + 8) 8)
    len := s.readNat (p + 16) 4
    state := s.readNat (p + 20) 1
    maps := s.readNat (p + 21) 1
    last := s.readNat (p + 22) 1
    peer := s.readNat (p + 24) 8 }

/-- The entry of a handle in a state that `ok` admits (R374). -/
def State.parIn (s : State) (c : Nat) (h : Word) (ok : Nat → Bool) : Option Par := (s.dirFindIn c h ok).map (s.parAt c)

/-- The entry of a handle (R374). -/
def State.par (s : State) (c : Nat) (h : Word) : Option Par := (s.dirFind c h).map (s.parAt c)

/-- An entry written back to its slot. -/
def State.putPar (s : State) (c : Nat) (p : Par) : State :=
  s.store ((s.ctxAt c).record.pdir.toNat + 32 * p.slot)
    (le 8 p.handle.toNat ++ le 8 p.base.toNat ++ le 4 p.len ++ le 1 p.state ++ le 1 p.maps ++ le 1 p.last ++ [0] ++ le 8 p.peer)

/-- The slot that a new entry takes on the probe path (R374). -/
def State.probeFree (s : State) (base : Nat) : Nat → Nat → Option Nat
  | 0, _ => none
  | n + 1, j =>
    if s.readNat (base + 32 * j) 8 = 0 || (s.byte (base + 32 * j + 23)).getLsbD 0 then some j
    else s.probeFree base n ((j + 1) % 65536)

def State.dirFree (s : State) (c : Nat) (h : Word) : Option Nat :=
  s.probeFree (s.ctxAt c).record.pdir.toNat 65536 (probeStart h)

/-! ### The heap (R146, R151) -/

/-- Insertion of an extent in order of its base. -/
def insertExtent (x : Nat × Nat) : List (Nat × Nat) → List (Nat × Nat)
  | [] => [x]
  | y :: r => if x.1 ≤ y.1 then x :: y :: r else y :: insertExtent x r

/-- The heap extents that parcels of a context hold: those OPEN, SEALING, IN_TRANSIT or ARRIVED (R147). -/
def State.extents (s : State) (c : Nat) : List (Nat × Nat) :=
  (s.dirUsed c).foldl (fun l j =>
    let p := s.parAt c j
    let deleted := (s.byte ((s.ctxAt c).record.pdir.toNat + 32 * j + 23)).getLsbD 0
    if !deleted && 1 ≤ p.state && p.state ≤ 4 then insertExtent (p.base.toNat, p.len) l else l) []

/-- The free gaps of [lo, hi) between extents in order, as base and length. -/
def gapsFrom (lo hi : Nat) : List (Nat × Nat) → List (Nat × Nat)
  | [] => if lo < hi then [(lo, hi - lo)] else []
  | (b, n) :: r => (if lo < b then [(lo, b - lo)] else []) ++ gapsFrom (max lo (b + n)) hi r

/-- Contiguous room for n bytes in a context's heap: the start of a heap that holds no parcel (R386), else a place among the free
room, which is open, each a multiple of 64 (log 10). -/
def State.heapRoom (s : State) (c n : Nat) (h : Word) : Option Word :=
  let r := (s.ctxAt c).record
  let lo := (r.heap.toNat + 63) / 64 * 64
  let fit := (gapsFrom lo (r.heap.toNat + r.heaplen.toNat) (s.extents c)).filter fun g => decide (n ≤ g.2)
  match fit with
  | [] => none
  | g :: rest =>
    if s.extents c = [] then some (BitVec.ofNat 64 lo)
    else
    let pick := Config.heapPick h.toNat
    let (b, m) := (g :: rest).getD (pick % (rest.length + 1)) g
    some (BitVec.ofNat 64 (b + 64 * (pick / (rest.length + 1) % ((m - n) / 64 + 1))))

/-- The pieces of n bytes from a va that lie in one 4 KiB page each; `pages` bounds their number. -/
def pieces (va : Word) : Nat → Nat → List (Word × Nat)
  | 0, _ => []
  | pages + 1, n =>
    let k := min n (4096 - va.toNat % 4096)
    if n = 0 then [] else (va, k) :: pieces (va + BitVec.ofNat 64 k) pages (n - k)
def piecesOf (va : Word) (n : Nat) : List (Word × Nat) := pieces va (n / 4096 + 2) n

/-- The physical pieces of a range of a context's address space, for accesses at level `lv` that enter on a die (R369, R371). -/
def State.physical (s : State) (c : Nat) (k : AccKind) (lv : Level) (die : Nat) : List (Word × Nat) → Res (List (Nat × Nat))
  | [] => .ok []
  | (va, n) :: r => do
    let pa ← s.translate c va k lv die
    let rest ← s.physical c k lv die r
    .ok ((pa, n) :: rest)

/-- The bytes of physical pieces, and the writing of bytes to them. -/
def State.gather (s : State) (ps : List (Nat × Nat)) : List Byte := ps.flatMap fun p => s.bytesAt p.1 p.2
def State.scatter (s : State) : List (Nat × Nat) → List Byte → State
  | [], _ => s
  | (p, n) :: r, bs => (s.store p (bs.take n)).scatter r (bs.drop n)

/-! ### The words -/

/-- The checks of R148 in order: the entry, the escape of PST.D, the bounds, the alignment. -/
def State.parcelEntry (s : State) (h o : Word) (n : Nat) (k : AccKind) (escape : Bool) : Res Par :=
  match s.par s.myCtx h with
  | none => trapAcc .parcelAbsent h k 0
  | some p =>
    if p.state ≠ 1 then trapAcc .parcelAbsent h k 0
    else if escape then trapAcc .parcelEscape o k 0
    else if o.toNat + n > p.len then trapAcc .parcelEscape o k 0
    else if o.toNat % n ≠ 0 then trapAcc .misaligned o k 0
    else .ok p

/-- The location of n bytes at an offset of a parcel (R148). -/
def State.parcelLoc (s : State) (p : Par) (o : Word) (n : Nat) (k : AccKind) : Res Nat :=
  s.translateSpan s.myCtx (p.base + o) n k s.me.level (dieOf s.tile)

/-- PLD (R148). -/
def execPld (g : Guard) (d a b : BitVec 5) (z : Size) (s : State) : Out :=
  s.plain (.pld g d a b z) g { src := [a, b], dst := [d] } fun s => do
    let p ← s.parcelEntry (s.getS a) (s.getS b) (sizeBytes z) .read false
    let loc ← s.parcelLoc p (s.getS b) (sizeBytes z) .read
    .ok (s.join (.load (sizeBytes z) true) loc d)

/-- PST (R148, R123). -/
def execPst (g : Guard) (d a b : BitVec 5) (z : Size) (s : State) : Out :=
  s.plain (.pst g d a b z) g { src := [a, b, d] } fun s => do
    let p ← s.parcelEntry (s.getS a) (s.getS b) (sizeBytes z) .write (z = .d64 && escapes (s.getS d))
    let loc ← s.parcelLoc p (s.getS b) (sizeBytes z) .write
    .ok (s.join (.store (wordBytes (sizeBytes z) (s.getS d))) loc 0)

/-- A reference that is neither null nor inside the parcel (R149). -/
def badRef (r len : Nat) : Bool := r != 0xFFFFFFFF && decide (len ≤ r)

/-- PLDR (R149): the task goes on once the check of what it loaded is done. -/
def execPldr (g : Guard) (d a b : BitVec 5) (s : State) : Out :=
  s.plain (.pldr g d a b) g { src := [a, b], dst := [d] } fun s => do
    let p ← s.parcelEntry (s.getS a) (s.getS b) 4 .read false
    let loc ← s.parcelLoc p (s.getS b) 4 .read
    s.mayAccess
    let s' ← s.admitAt s.tile loc 4
    let r ← s'.consume loc 4
    if badRef r p.len then trapAcc .parcelEscape (BitVec.ofNat 64 r) .read 0
    else .ok (s'.setS d (BitVec.ofNat 64 r))

/-- PSTR (R149): the reference is checked before the store is translated. -/
def execPstr (g : Guard) (d a b : BitVec 5) (s : State) : Out :=
  s.plain (.pstr g d a b) g { src := [a, b, d] } fun s => do
    let p ← s.parcelEntry (s.getS a) (s.getS b) 4 .write false
    let r := s.getS d
    if r.toNat / 2 ^ 32 ≠ 0 || badRef (r.toNat % 2 ^ 32) p.len then trapAcc .parcelEscape r .write 0
    else do
      let loc ← s.parcelLoc p (s.getS b) 4 .write
      .ok (s.join (.store (wordBytes 4 r)) loc 0)

/-- The handle of a new parcel (R146). -/
def State.newHandle (s : State) : Word := BitVec.ofNat 64 (s.pkg.toNat * 2 ^ 48 + s.serial * 2 ^ 8)

/-- PNEW (R151): the handle lands when the zeroing is done. Once every serial has been issued, none is reused, and PNEW answers 0
(R146, log 60). -/
def execPnew (g : Guard) (d a : BitVec 5) (s : State) : Out :=
  s.plain (.pnew g d a) g { src := [a], dst := [d] } fun s =>
    let n := (s.getS a).toNat
    let h := s.newHandle
    if n % 64 ≠ 0 || n < 64 || n > 2 ^ 28 then .ok (s.later d 1)
    else if 2 ^ 40 ≤ s.serial then .ok (s.later d 0)
    else match s.dirFree s.myCtx h with
      | none => .ok (s.later d 0)
      | some j =>
        match s.heapRoom s.myCtx n h with
        | none => .ok (s.later d 0)
        | some b => do
          let ps ← s.physical s.myCtx .write s.me.level (dieOf s.tile) (piecesOf b n)
          let s' : State := { s with serial := s.serial + 1 }
          .ok ((s'.putPar s.myCtx { slot := j, handle := h, base := b, len := n, state := 1 }).later d h ps)

/-- PFREE (R151). -/
def execPfree (g : Guard) (a : BitVec 5) (s : State) : Out :=
  s.plain (.pfree g a) g { src := [a] } fun s =>
    match s.parIn s.myCtx (s.getS a) fun n => n == 1 || n == 5 with
    | none => trapOf .parcelAbsent (s.getS a)
    | some p =>
      if p.state = 1 && p.maps ≠ 0 then trapOf .parcelPinned (s.getS a)
      else .ok (s.dirDelete s.myCtx p.slot)

/-- PLEN (R151). -/
def execPlen (g : Guard) (d a : BitVec 5) (s : State) : Out :=
  s.plain (.plen g d a) g { src := [a], dst := [d] } fun s =>
    match s.par s.myCtx (s.getS a) with
    | none => .ok (s.setS d 0)
    | some p => .ok (s.setS d (if 1 ≤ p.state && p.state ≤ 4 then BitVec.ofNat 64 p.len else 0))

/-- PSTAT (R152). -/
def execPstat (g : Guard) (d a : BitVec 5) (s : State) : Out :=
  s.plain (.pstat g d a) g { src := [a], dst := [d] } fun s =>
    match s.par s.myCtx (s.getS a) with
    | none => .ok (s.setS d 0)
    | some p => .ok (s.setS d (BitVec.ofNat 64 (p.last * 2 ^ 16 + p.maps * 2 ^ 8 + p.state)))

/-- The lowest window of a tile that is closed (R153). -/
def Tile.freeWindow (t : Tile) : Option Nat := (List.range 16).find? fun w => (t.windows.find w).isNone

/-- PMAP (R153). -/
def execPmap (g : Guard) (d a : BitVec 5) (s : State) : Out :=
  s.plain (.pmap g d a) g { src := [a], dst := [d] } fun s =>
    match s.par s.myCtx (s.getS a), s.cur.freeWindow with
    | some p, some w =>
      if p.state ≠ 1 || p.maps = 255 then .ok (s.setS d 0)
      else
        let s' := (s.putPar s.myCtx { p with maps := p.maps + 1 }).updTile s.tile fun t =>
          { t with windows := t.windows.put w ⟨p.handle, p.base, p.len⟩ }
        .ok (s'.setS d (BitVec.ofNat 64 (0x804 * 2 ^ 52 + w * 2 ^ 28)))
    | _, _ => .ok (s.setS d 0)

/-- Window w of a tile is closed, and the parcel's MAPS lowered (R153). -/
def State.closeWindow (s : State) (c t w : Nat) : State :=
  match (s.tileAt t).windows.find w with
  | none => s
  | some x =>
    let s := s.updTile t fun y => { y with windows := y.windows.del w }
    match s.par c x.handle with
    | none => s
    | some p => s.putPar c { p with maps := p.maps - 1 }

/-- PUNMAP (R153). -/
def execPunmap (g : Guard) (a : BitVec 5) (s : State) : Out :=
  s.plain (.punmap g a) g { src := [a] } fun s =>
    let x := s.getS a
    if escapes x && offsetOf x < 2 ^ 32 then .ok (s.closeWindow s.myCtx s.tile (offsetOf x / 2 ^ 28)) else .ok s

/-- PRECV (R155): the oldest arrival of the context becomes OPEN. -/
def execPrecv (g : Guard) (d : BitVec 5) (s : State) : Out :=
  s.plain (.precv g d) g { dst := [d] } fun s =>
    match (s.ctxAt s.myCtx).arrivals with
    | [] => .ok (s.setS d 0)
    | h :: r =>
      let s' := s.updCtx s.myCtx fun x => { x with arrivals := r }
      .ok ((match s'.parIn s.myCtx h (· == 4) with
        | none => s'
        | some p => s'.putPar s.myCtx { p with state := 1, peer := 0 }).setS d h)

end Sys2Proof.Machine
end

