-- ==== Sys2Proof/Machine/Push.lean ====
section
/-! DEFINITION. Push.lean: the pushes of engine words (R67, R74, R75, R78), the units of DEP and COPYM, and the steps at issue
of a POST (R154). What a pushed word does when it performs stands in the files of its engine. -/

namespace Sys2Proof.Machine

/-- The check of R67 for vector words: the task needs a window. -/
def State.needWindow (s : State) (e : Eng) : Res Unit :=
  if e = .v && s.cur.winOf s.task = 0 then trapOf .vwinNone 0 else .ok ()

/-- CheckTokens of R67: the tokens that the fields of a DEP name (R74). -/
def State.tokens (s : State) : List (BitVec 7) → Res (List Tok)
  | [] => .ok []
  | x :: r =>
    match depField x with
    | none => s.tokens r
    | some (e, n) =>
      match s.me.nthToken e n with
      | none => trapOf .tokenRange 0
      | some k => do
        let rest ← s.tokens r
        .ok (k :: rest)

/-- A register that an engine word captures or marks at its push is pending (R78, R85). -/
def Task.pushBlocked (t : Task) (w : Instr) : Bool :=
  let (a, b, c) := captures w
  let (d, p) := pendingDst w
  t.sPending a || t.sPending b || t.sPending c || d.any t.sPending || p.any t.pPending

/-- No other task waits for the next free entry of an engine's queue (R341). -/
def Tile.mayPush (t : Tile) (e : Eng) (k : Fin 4) : Bool := (t.nextPusher e).getD k == k

/-- The queue of an engine has a free entry, and it goes to the issuing task (R78, R341). -/
def State.room (s : State) (e : Eng) : Res Unit :=
  let q := s.cur.queue e
  if q.length < Config.queueEntries && s.cur.mayPush e s.task then .ok ()
  else if s.cur.trap.busy && s.cur.trap.holder.toNat == s.task && q.any (fun x => x.task == s.task && x.faulted) then
    .error (.fatal 4)
  else .error (.full e)

/-- The entry of a word at its push by the issuing task (R78). -/
def State.entryOf (s : State) (w : Instr) (e : Eng) (deps : List Tok) (g : Guard) : Entry :=
  let (a, b, c) := captures w
  { uid := s.cur.uid
    task := s.task
    tok := some ⟨e, s.me.pushes e⟩
    word := w
    deps := deps
    guard := g
    a := s.getS a
    b := s.getS b
    c := s.getS c
    rmode := s.me.rmode
    win := s.cur.winOf s.task - 1
    level := s.me.level
    bars := s.cur.liveBars s.me.bars
    took := if e = .l then s.me.stream.length else 0 }

/-- A RAMO that acquires holds every later access of its task until its old value has landed (R238, R249, R263). -/
def acquiresLink : Instr → Bool
  | .ramo _ _ _ _ f => f.getLsbD 1
  | _ => false

/-- A word joins its queue with the next token of its engine, its destination pending (R78); the entry was its task's (R341).
-/
def State.enqueue (s : State) (w : Instr) (e : Eng) (deps : List Tok) (g : Guard) (held : Bool) : State :=
  let x : Entry := { s.entryOf w e deps g with held := held }
  let s := s.updMe fun t =>
    let t := (t.takeToken e)
    let t := match (pendingDst w).1 with
      | none => t
      | some d => t.smark d
    let t := match (pendingDst w).2 with
      | none => t
      | some p => t.pmark p
    if acquiresLink w then { t with bars := addOnce t.bars x.uid } else t
  s.updTile s.tile fun t =>
    { t.setQueue e (t.queue e ++ [x]) with uid := t.uid + 1, served := t.served.set (engIdx e) s.task }

/-- The push of one engine word, under the tokens and the guard of its DEP (R67, R74). -/
def State.pushOne (s : State) (w : Instr) (e : Eng) (fields : List (BitVec 7)) (g : Guard) : Res State := do
  s.needWindow e
  let deps ← s.tokens fields
  if s.me.pushBlocked w then .error .wait
  else do
    s.room e
    .ok (s.enqueue w e deps g false)

/-- The steps at issue of a POST (R154): the parcel is checked and becomes SEALING. -/
def State.seal (s : State) (h dest : Word) : Res State :=
  match s.par s.myCtx h with
  | none => trapOf .parcelAbsent h
  | some p =>
    if p.state ≠ 1 then trapOf .parcelAbsent h
    else if p.maps ≠ 0 then trapOf .parcelPinned h
    else if s.deadBit s.myCtx (dest.toNat % 256) then trapOf .peerDead h
    else .ok (s.putPar s.myCtx { p with state := 2 })

/-- The push of a POST (R154). -/
def State.pushPost (s : State) (d a b : BitVec 5) (fields : List (BitVec 7)) (g : Guard) : Res State := do
  let deps ← s.tokens fields
  if s.me.pushBlocked (.post d a b) then .error .wait
  else do
    s.room .l
    let s' ← s.seal (s.getS a) (s.getS b)
    .ok (s'.enqueue (.post d a b) .l deps g false)

/-- COPYM and its follow-on word (R75, R226): the second word is a 0x31 word that names the same buffer. -/
def followOn (sb : BitVec 4) : Instr → Bool
  | .mmul e .. => e == sb
  | .mmulz e .. => e == sb
  | _ => false

/-- The push of a COPYM and its follow-on word: a C entry, and an M entry that waits to be filled (R226). -/
def State.pushPair (s : State) (w f : Instr) (fields : List (BitVec 7)) (g : Guard) : Res State := do
  let deps ← s.tokens fields
  if s.me.pushBlocked w || s.me.pushBlocked f then .error .wait
  else do
    s.room .c
    s.room .m
    .ok ((s.enqueue w .c deps g false).enqueue f .m [] always true)

/-- The instruction of a word (R66, R79). -/
def legalWord (x : Nat) : Res Instr :=
  match decode x with
  | none => trapOf .illegalEncoding 0
  | some w => .ok w

/-- The bits of a COPYM word (R67). -/
def copymBits (x : Nat) : Bool := bits x 26 6 == 0x37 && bits x 21 5 == 1

/-- The task stands in delay slot k (R74, R75). -/
def Task.inSlot (t : Task) (k : Nat) : Bool := t.slot.any fun d => d.k == k

/-- An engine word that stands alone (R67). -/
def State.pushWord (s : State) (w : Instr) (e : Eng) : Out :=
  s.runWord w always {} fun s => (s.pushOne w e [] always).map fun s' => s'.issued 1

/-- POST (R154). -/
def execPost (d a b : BitVec 5) (s : State) : Out :=
  s.runWord (.post d a b) always {} fun s => (s.pushPost d a b [] always).map fun s' => s'.issued 1

/-- COPYM (R75, R226): a unit of two words. -/
def execCopym (sr : BitVec 5) (d : BitVec 4) (a b : BitVec 5) (s : State) : Out :=
  s.runWord (.copym sr d a b) always {} fun s => do
    let x ← s.fetch (s.me.pc + 4)
    let f ← legalWord x
    if !followOn d f || s.me.inSlot 2 then trapOf .illegalEncoding 0
    else (s.pushPair (.copym sr d a b) f [] always).map fun s' => s'.issued 2

/-- The words after a DEP: an engine word, a POST, or a COPYM with its follow-on word (R74, R75). -/
def State.pushUnit (s : State) (x : Nat) (fields : List (BitVec 7)) (g : Guard) : Res State :=
  if copymBits x then do
    let y ← s.fetch (s.me.pc + 8)
    let w ← legalWord x
    let f ← legalWord y
    match w with
    | .copym sr d a b =>
      if !followOn d f || s.me.slot.isSome then trapOf .illegalEncoding 0
      else (s.pushPair (.copym sr d a b) f fields g).map fun s' => s'.issued 3
    | _ => trapOf .illegalEncoding 0
  else do
    let w ← legalWord x
    if s.me.inSlot 2 then trapOf .illegalEncoding 0
    else match w with
      | .post d a b => (s.pushPost d a b fields g).map fun s' => s'.issued 2
      | _ =>
        match w.engine? with
        | none => trapOf .illegalEncoding 0
        | some e => (s.pushOne w e fields g).map fun s' => s'.issued 2

/-- DEP (R74): the unit that it begins. -/
def execDep (g : Guard) (x y z : BitVec 7) (s : State) : Out :=
  s.runWord (.dep g x y z) always {} fun s => do
    let w ← s.fetch (s.me.pc + 4)
    s.pushUnit w [x, y, z] g

/-- VADD at its push (R168, R78). -/
def execVadd (d : BitVec 5) (a : BitVec 5) (b : BitVec 5) (m : BitVec 3) (t : Ty) (s : State) : Out := s.pushWord (.vadd d a b m t) .v

/-- VSUB at its push (R168, R78). -/
def execVsub (d : BitVec 5) (a : BitVec 5) (b : BitVec 5) (m : BitVec 3) (t : Ty) (s : State) : Out := s.pushWord (.vsub d a b m t) .v

/-- VMUL at its push (R168, R78). -/
def execVmul (d : BitVec 5) (a : BitVec 5) (b : BitVec 5) (m : BitVec 3) (t : Ty) (s : State) : Out := s.pushWord (.vmul d a b m t) .v

/-- VMAD at its push (R168, R78). -/
def execVmad (d : BitVec 5) (a : BitVec 5) (b : BitVec 5) (m : BitVec 3) (t : Ty) (s : State) : Out := s.pushWord (.vmad d a b m t) .v

/-- VMSB at its push (R168, R78). -/
def execVmsb (d : BitVec 5) (a : BitVec 5) (b : BitVec 5) (m : BitVec 3) (t : Ty) (s : State) : Out := s.pushWord (.vmsb d a b m t) .v

/-- VABS at its push (R168, R78). -/
def execVabs (d : BitVec 5) (a : BitVec 5) (m : BitVec 3) (t : Ty) (s : State) : Out := s.pushWord (.vabs d a m t) .v

/-- VNEG at its push (R168, R78). -/
def execVneg (d : BitVec 5) (a : BitVec 5) (m : BitVec 3) (t : Ty) (s : State) : Out := s.pushWord (.vneg d a m t) .v

/-- VMIN at its push (R168, R78). -/
def execVmin (d : BitVec 5) (a : BitVec 5) (b : BitVec 5) (m : BitVec 3) (t : Ty) (s : State) : Out := s.pushWord (.vmin d a b m t) .v

/-- VMAX at its push (R168, R78). -/
def execVmax (d : BitVec 5) (a : BitVec 5) (b : BitVec 5) (m : BitVec 3) (t : Ty) (s : State) : Out := s.pushWord (.vmax d a b m t) .v

/-- VADDS at its push (R168, R78). -/
def execVadds (d : BitVec 5) (a : BitVec 5) (b : BitVec 5) (m : BitVec 3) (t : Ty) (s : State) : Out := s.pushWord (.vadds d a b m t) .v

/-- VSUBS at its push (R168, R78). -/
def execVsubs (d : BitVec 5) (a : BitVec 5) (b : BitVec 5) (m : BitVec 3) (t : Ty) (s : State) : Out := s.pushWord (.vsubs d a b m t) .v

/-- VMULHI at its push (R168, R78). -/
def execVmulhi (d : BitVec 5) (a : BitVec 5) (b : BitVec 5) (m : BitVec 3) (t : Ty) (s : State) : Out := s.pushWord (.vmulhi d a b m t) .v

/-- VAND at its push (R169, R78). -/
def execVand (d : BitVec 5) (a : BitVec 5) (b : BitVec 5) (m : BitVec 3) (t : Ty) (s : State) : Out := s.pushWord (.vand d a b m t) .v

/-- VOR at its push (R169, R78). -/
def execVor (d : BitVec 5) (a : BitVec 5) (b : BitVec 5) (m : BitVec 3) (t : Ty) (s : State) : Out := s.pushWord (.vor d a b m t) .v

/-- VXOR at its push (R169, R78). -/
def execVxor (d : BitVec 5) (a : BitVec 5) (b : BitVec 5) (m : BitVec 3) (t : Ty) (s : State) : Out := s.pushWord (.vxor d a b m t) .v

/-- VNOT at its push (R169, R78). -/
def execVnot (d : BitVec 5) (a : BitVec 5) (m : BitVec 3) (t : Ty) (s : State) : Out := s.pushWord (.vnot d a m t) .v

/-- VSHL at its push (R169, R78). -/
def execVshl (d : BitVec 5) (a : BitVec 5) (b : BitVec 5) (m : BitVec 3) (t : Ty) (s : State) : Out := s.pushWord (.vshl d a b m t) .v

/-- VSHR at its push (R169, R78). -/
def execVshr (d : BitVec 5) (a : BitVec 5) (b : BitVec 5) (m : BitVec 3) (t : Ty) (s : State) : Out := s.pushWord (.vshr d a b m t) .v

/-- VSAR at its push (R169, R78). -/
def execVsar (d : BitVec 5) (a : BitVec 5) (b : BitVec 5) (m : BitVec 3) (t : Ty) (s : State) : Out := s.pushWord (.vsar d a b m t) .v

/-- VCLZ at its push (R169, R78). -/
def execVclz (d : BitVec 5) (a : BitVec 5) (m : BitVec 3) (t : Ty) (s : State) : Out := s.pushWord (.vclz d a m t) .v

/-- VPOPC at its push (R169, R78). -/
def execVpopc (d : BitVec 5) (a : BitVec 5) (m : BitVec 3) (t : Ty) (s : State) : Out := s.pushWord (.vpopc d a m t) .v

/-- VCMP at its push (R170, R78). -/
def execVcmp (d : BitVec 3) (a : BitVec 5) (b : BitVec 5) (m : BitVec 3) (c : VCond) (t : Ty) (s : State) : Out := s.pushWord (.vcmp d a b m c t) .v

/-- VCVT at its push (R171, R78). -/
def execVcvt (d : BitVec 5) (a : BitVec 5) (u : Ty) (m : BitVec 3) (sc : BitVec 1) (r : Rnd) (t : Ty) (s : State) : Out := s.pushWord (.vcvt d a u m sc r t) .v

/-- VRCP at its push (R173, R78). -/
def execVrcp (d : BitVec 5) (a : BitVec 5) (m : BitVec 3) (t : Ty) (s : State) : Out := s.pushWord (.vrcp d a m t) .v

/-- VRSQ at its push (R173, R78). -/
def execVrsq (d : BitVec 5) (a : BitVec 5) (m : BitVec 3) (t : Ty) (s : State) : Out := s.pushWord (.vrsq d a m t) .v

/-- VSQRT at its push (R173, R78). -/
def execVsqrt (d : BitVec 5) (a : BitVec 5) (m : BitVec 3) (t : Ty) (s : State) : Out := s.pushWord (.vsqrt d a m t) .v

/-- VEXP2 at its push (R173, R78). -/
def execVexp2 (d : BitVec 5) (a : BitVec 5) (m : BitVec 3) (t : Ty) (s : State) : Out := s.pushWord (.vexp2 d a m t) .v

/-- VLOG2 at its push (R173, R78). -/
def execVlog2 (d : BitVec 5) (a : BitVec 5) (m : BitVec 3) (t : Ty) (s : State) : Out := s.pushWord (.vlog2 d a m t) .v

/-- VTANH at its push (R173, R78). -/
def execVtanh (d : BitVec 5) (a : BitVec 5) (m : BitVec 3) (t : Ty) (s : State) : Out := s.pushWord (.vtanh d a m t) .v

/-- VSIN at its push (R173, R78). -/
def execVsin (d : BitVec 5) (a : BitVec 5) (m : BitVec 3) (t : Ty) (s : State) : Out := s.pushWord (.vsin d a m t) .v

/-- VCOS at its push (R173, R78). -/
def execVcos (d : BitVec 5) (a : BitVec 5) (m : BitVec 3) (t : Ty) (s : State) : Out := s.pushWord (.vcos d a m t) .v

/-- VREDADD at its push (R175, R78). -/
def execVredadd (d : BitVec 5) (a : BitVec 5) (m : BitVec 3) (t : Ty) (s : State) : Out := s.pushWord (.vredadd d a m t) .v

/-- VREDMAX at its push (R175, R78). -/
def execVredmax (d : BitVec 5) (a : BitVec 5) (m : BitVec 3) (t : Ty) (s : State) : Out := s.pushWord (.vredmax d a m t) .v

/-- VREDMIN at its push (R175, R78). -/
def execVredmin (d : BitVec 5) (a : BitVec 5) (m : BitVec 3) (t : Ty) (s : State) : Out := s.pushWord (.vredmin d a m t) .v

/-- VREDOR at its push (R175, R78). -/
def execVredor (d : BitVec 5) (a : BitVec 5) (m : BitVec 3) (t : Ty) (s : State) : Out := s.pushWord (.vredor d a m t) .v

/-- VREDAND at its push (R175, R78). -/
def execVredand (d : BitVec 5) (a : BitVec 5) (m : BitVec 3) (t : Ty) (s : State) : Out := s.pushWord (.vredand d a m t) .v

/-- VSCAN at its push (R175, R78). -/
def execVscan (d : BitVec 5) (a : BitVec 5) (m : BitVec 3) (t : Ty) (s : State) : Out := s.pushWord (.vscan d a m t) .v

/-- VPERM at its push (R177, R78). -/
def execVperm (d : BitVec 5) (a : BitVec 5) (b : BitVec 5) (m : BitVec 3) (t : Ty) (s : State) : Out := s.pushWord (.vperm d a b m t) .v

/-- VBCAST at its push (R177, R78). -/
def execVbcast (d : BitVec 5) (a : BitVec 5) (m : BitVec 3) (t : Ty) (s : State) : Out := s.pushWord (.vbcast d a m t) .v

/-- VIOTA at its push (R177, R78). -/
def execViota (d : BitVec 5) (m : BitVec 3) (t : Ty) (s : State) : Out := s.pushWord (.viota d m t) .v

/-- VSLIDE at its push (R177, R78). -/
def execVslide (d : BitVec 5) (a : BitVec 5) (b : BitVec 5) (m : BitVec 3) (t : Ty) (s : State) : Out := s.pushWord (.vslide d a b m t) .v

/-- VSEL at its push (R177, R78). -/
def execVsel (d : BitVec 5) (a : BitVec 5) (b : BitVec 5) (m : BitVec 3) (t : Ty) (s : State) : Out := s.pushWord (.vsel d a b m t) .v

/-- VMOVS at its push (R177, R78). -/
def execVmovs (d : BitVec 5) (a : BitVec 5) (b : BitVec 5) (t : Ty) (s : State) : Out := s.pushWord (.vmovs d a b t) .v

/-- VEXT at its push (R177, R78). -/
def execVext (d : BitVec 5) (a : BitVec 5) (b : BitVec 5) (t : Ty) (s : State) : Out := s.pushWord (.vext d a b t) .v

/-- VCMUL at its push (R177, R78). -/
def execVcmul (d : BitVec 5) (a : BitVec 5) (b : BitVec 5) (m : BitVec 3) (t : Ty) (s : State) : Out := s.pushWord (.vcmul d a b m t) .v

/-- VCONJ at its push (R177, R78). -/
def execVconj (d : BitVec 5) (a : BitVec 5) (m : BitVec 3) (t : Ty) (s : State) : Out := s.pushWord (.vconj d a m t) .v

/-- MAND at its push (R178, R78). -/
def execMand (d : BitVec 3) (a : BitVec 3) (b : BitVec 3) (t : Ty) (s : State) : Out := s.pushWord (.mand d a b t) .v

/-- MOR at its push (R178, R78). -/
def execMor (d : BitVec 3) (a : BitVec 3) (b : BitVec 3) (t : Ty) (s : State) : Out := s.pushWord (.mor d a b t) .v

/-- MXOR at its push (R178, R78). -/
def execMxor (d : BitVec 3) (a : BitVec 3) (b : BitVec 3) (t : Ty) (s : State) : Out := s.pushWord (.mxor d a b t) .v

/-- MNOT at its push (R178, R78). -/
def execMnot (d : BitVec 3) (a : BitVec 3) (t : Ty) (s : State) : Out := s.pushWord (.mnot d a t) .v

/-- MPOP at its push (R178, R78). -/
def execMpop (d : BitVec 5) (a : BitVec 3) (m : BitVec 3) (t : Ty) (s : State) : Out := s.pushWord (.mpop d a m t) .v

/-- VANY at its push (R178, R78). -/
def execVany (d : BitVec 3) (a : BitVec 3) (m : BitVec 3) (t : Ty) (s : State) : Out := s.pushWord (.vany d a m t) .v

/-- VALL at its push (R178, R78). -/
def execVall (d : BitVec 3) (a : BitVec 3) (m : BitVec 3) (t : Ty) (s : State) : Out := s.pushWord (.vall d a m t) .v

/-- VLD at its push (R180, R78). -/
def execVld (v : BitVec 5) (a : BitVec 5) (m : BitVec 3) (t : Ty) (s : State) : Out := s.pushWord (.vld v a m t) .v

/-- VLDS at its push (R180, R78). -/
def execVlds (v : BitVec 5) (a : BitVec 5) (x : BitVec 5) (m : BitVec 3) (t : Ty) (s : State) : Out := s.pushWord (.vlds v a x m t) .v

/-- VGATH at its push (R180, R78). -/
def execVgath (v : BitVec 5) (a : BitVec 5) (x : BitVec 5) (m : BitVec 3) (t : Ty) (s : State) : Out := s.pushWord (.vgath v a x m t) .v

/-- VST at its push (R180, R78). -/
def execVst (v : BitVec 5) (a : BitVec 5) (m : BitVec 3) (t : Ty) (s : State) : Out := s.pushWord (.vst v a m t) .v

/-- VSTS at its push (R180, R78). -/
def execVsts (v : BitVec 5) (a : BitVec 5) (x : BitVec 5) (m : BitVec 3) (t : Ty) (s : State) : Out := s.pushWord (.vsts v a x m t) .v

/-- VSCAT at its push (R180, R78). -/
def execVscat (v : BitVec 5) (a : BitVec 5) (x : BitVec 5) (m : BitVec 3) (t : Ty) (s : State) : Out := s.pushWord (.vscat v a x m t) .v

/-- VAMO_ADD at its push (R187, R78). -/
def execVamoAdd (v : BitVec 5) (i : BitVec 5) (a : BitVec 5) (m : BitVec 3) (sc : Scope) (w : Wd) (s : State) : Out := s.pushWord (.vamoAdd v i a m sc w) .v

/-- VAMO_OR at its push (R187, R78). -/
def execVamoOr (v : BitVec 5) (i : BitVec 5) (a : BitVec 5) (m : BitVec 3) (sc : Scope) (w : Wd) (s : State) : Out := s.pushWord (.vamoOr v i a m sc w) .v

/-- VAMO_AND at its push (R187, R78). -/
def execVamoAnd (v : BitVec 5) (i : BitVec 5) (a : BitVec 5) (m : BitVec 3) (sc : Scope) (w : Wd) (s : State) : Out := s.pushWord (.vamoAnd v i a m sc w) .v

/-- VAMO_XOR at its push (R187, R78). -/
def execVamoXor (v : BitVec 5) (i : BitVec 5) (a : BitVec 5) (m : BitVec 3) (sc : Scope) (w : Wd) (s : State) : Out := s.pushWord (.vamoXor v i a m sc w) .v

/-- VAMO_MIN at its push (R187, R78). -/
def execVamoMin (v : BitVec 5) (i : BitVec 5) (a : BitVec 5) (m : BitVec 3) (sc : Scope) (w : Wd) (s : State) : Out := s.pushWord (.vamoMin v i a m sc w) .v

/-- VAMO_MAX at its push (R187, R78). -/
def execVamoMax (v : BitVec 5) (i : BitVec 5) (a : BitVec 5) (m : BitVec 3) (sc : Scope) (w : Wd) (s : State) : Out := s.pushWord (.vamoMax v i a m sc w) .v

/-- VPOP at its push (R188, R78). -/
def execVpop (v : BitVec 5) (b : BitVec 4) (s : State) : Out := s.pushWord (.vpop v b) .v

/-- VPUSH at its push (R188, R78). -/
def execVpush (v : BitVec 5) (b : BitVec 4) (s : State) : Out := s.pushWord (.vpush v b) .v

/-- VPEEK at its push (R188, R78). -/
def execVpeek (v : BitVec 5) (b : BitVec 4) (s : State) : Out := s.pushWord (.vpeek v b) .v

/-- MLDW at its push (R200, R78). -/
def execMldw (a : BitVec 5) (t : Ty) (y : BitVec 4) (p : BitVec 1) (s : State) : Out := s.pushWord (.mldw a t y p) .m

/-- MSWP at its push (R202, R78). -/
def execMswp (s : State) : Out := s.pushWord (.mswp) .m

/-- MTAG at its push (R203, R78). -/
def execMtag (a : BitVec 5) (s : State) : Out := s.pushWord (.mtag a) .m

/-- MMUL at its push (R204, R78). -/
def execMmul (e : BitVec 4) (b : BitVec 5) (x : BitVec 4) (t : Ty) (r : BitVec 2) (p : BitVec 1) (s : State) : Out := s.pushWord (.mmul e b x t r p) .m

/-- MMULZ at its push (R204, R78). -/
def execMmulz (e : BitVec 4) (b : BitVec 5) (x : BitVec 4) (t : Ty) (r : BitVec 2) (p : BitVec 1) (s : State) : Out := s.pushWord (.mmulz e b x t r p) .m

/-- MREL at its push (R206, R78). -/
def execMrel (x : BitVec 4) (s : State) : Out := s.pushWord (.mrel x) .m

/-- MZERO at its push (R206, R78). -/
def execMzero (x : BitVec 4) (k : AKind) (s : State) : Out := s.pushWord (.mzero x k) .m

/-- MSTAT at its push (R207, R78). -/
def execMstat (d : BitVec 5) (x : BitVec 4) (p : BitVec 1) (s : State) : Out := s.pushWord (.mstat d x p) .m

/-- MLDA at its push (R208, R78). -/
def execMlda (e : BitVec 4) (b : BitVec 5) (x : BitVec 4) (k : AKind) (s : State) : Out := s.pushWord (.mlda e b x k) .m

/-- MRD at its push (R209, R78). -/
def execMrd (o : BitVec 1) (e : BitVec 4) (b : BitVec 5) (x : BitVec 4) (t : Ty) (r : Rnd) (s : State) : Out := s.pushWord (.mrd o e b x t r) .m

/-- MRDS at its push (R209, R78). -/
def execMrds (o : BitVec 1) (e : BitVec 4) (b : BitVec 5) (x : BitVec 4) (t : Ty) (r : Rnd) (s : State) : Out := s.pushWord (.mrds o e b x t r) .m

/-- SBDEF at its push (R219, R78). -/
def execSbdef (e : BitVec 4) (a : BitVec 5) (b : BitVec 5) (s : State) : Out := s.pushWord (.sbdef e a b) .c

/-- STDEF at its push (R222, R78). -/
def execStdef (e : BitVec 3) (a : BitVec 5) (b : BitVec 5) (s : State) : Out := s.pushWord (.stdef e a b) .c

/-- STDIM at its push (R223, R78). -/
def execStdim (e : BitVec 3) (a : BitVec 5) (b : BitVec 5) (s : State) : Out := s.pushWord (.stdim e a b) .c

/-- STPOS at its push (R223, R78). -/
def execStpos (e : BitVec 3) (a : BitVec 5) (s : State) : Out := s.pushWord (.stpos e a) .c

/-- STRST at its push (R223, R78). -/
def execStrst (e : BitVec 3) (s : State) : Out := s.pushWord (.strst e) .c

/-- COPY at its push (R224, R78). -/
def execCopy (sc : BitVec 5) (d : BitVec 5) (a : BitVec 5) (b : BitVec 5) (s : State) : Out := s.pushWord (.copy sc d a b) .c

/-- CQNT at its push (R229, R78). -/
def execCqnt (sc : BitVec 5) (d : BitVec 5) (a : BitVec 5) (b : BitVec 5) (s : State) : Out := s.pushWord (.cqnt sc d a b) .c

/-- CEXP at its push (R230, R78). -/
def execCexp (sc : BitVec 5) (d : BitVec 5) (a : BitVec 5) (b : BitVec 5) (s : State) : Out := s.pushWord (.cexp sc d a b) .c

/-- CCVT at its push (R231, R78). -/
def execCcvt (sc : BitVec 5) (d : BitVec 5) (a : BitVec 5) (b : BitVec 5) (s : State) : Out := s.pushWord (.ccvt sc d a b) .c

/-- CFILL at its push (R232, R78). -/
def execCfill (d : BitVec 5) (a : BitVec 5) (b : BitVec 5) (s : State) : Out := s.pushWord (.cfill d a b) .c

/-- RLD at its push (R236, R78). -/
def execRld (a : BitVec 5) (b : BitVec 5) (c : BitVec 5) (sc : Scope) (s : State) : Out := s.pushWord (.rld a b c sc) .l

/-- RST at its push (R237, R78). -/
def execRst (a : BitVec 5) (b : BitVec 5) (c : BitVec 5) (sc : Scope) (s : State) : Out := s.pushWord (.rst a b c sc) .l

/-- RAMO at its push (R238, R78). -/
def execRamo (a : BitVec 5) (b : BitVec 5) (c : BitVec 5) (sc : Scope) (f : BitVec 3) (s : State) : Out := s.pushWord (.ramo a b c sc f) .l

/-- RFENCE at its push (R239, R78). -/
def execRfence (sc : Scope) (s : State) : Out := s.pushWord (.rfence sc) .l

/-- LCNT at its push (R235, R78). -/
def execLcnt (a : BitVec 5) (s : State) : Out := s.pushWord (.lcnt a) .l

/-- LEASE_ASK at its push (R241, R78). -/
def execLeaseAsk (a : BitVec 5) (b : BitVec 5) (c : BitVec 5) (s : State) : Out := s.pushWord (.leaseAsk a b c) .l

/-- LEASE_GIVE at its push (R241, R78). -/
def execLeaseGive (a : BitVec 5) (b : BitVec 5) (s : State) : Out := s.pushWord (.leaseGive a b) .l

/-- LEASE_STAT at its push (R242, R78). -/
def execLeaseStat (a : BitVec 5) (b : BitVec 5) (s : State) : Out := s.pushWord (.leaseStat a b) .l

/-- FCTL at its push (R295, R78). -/
def execFctl (a : BitVec 5) (b : BitVec 5) (s : State) : Out := s.pushWord (.fctl a b) .l

/-- FSTAT at its push (R243, R78). -/
def execFstat (a : BitVec 5) (b : BitVec 5) (s : State) : Out := s.pushWord (.fstat a b) .l

end Sys2Proof.Machine
end

