-- ==== Sys2Proof/Machine/Numbers.lean ====
section
/-! DEFINITION. Numbers.lean: element values, exact arithmetic on them and the one rounding of each operation
(R43-R59). A value is exact until `roundTo` narrows it. -/

namespace Sys2Proof.Machine

/-- An exact value: NaN (signalling or quiet), an infinity, or (-1)^neg · m · 2^e; with `more` the magnitude lies strictly
between m · 2^e and (m + 1) · 2^e. -/
inductive FVal where
  | nan (sig : Bool)
  | inf (neg : Bool)
  | fin (neg : Bool) (m : Nat) (e : Int) (more : Bool)
  deriving DecidableEq, Repr

/-- The zero of a sign. -/
def FVal.zero (neg : Bool) : FVal := .fin neg 0 0 false

/-- An integer as an exact value. -/
def FVal.ofInt (v : Int) : FVal := .fin (decide (v < 0)) v.natAbs 0 false

/-- A floating-point format (R46): exponent bits, bias, fraction bits, and whether it has infinities (R47). -/
structure Fmt where
  e : Nat
  bias : Nat
  f : Nat
  infs : Bool
  deriving DecidableEq, Repr

/-- The formats of R46; none for the types that are not floating point. -/
def fmtOf : Ty → Option Fmt
  | .f32 => some ⟨8, 127, 23, true⟩
  | .bf16 => some ⟨8, 127, 7, true⟩
  | .f16 => some ⟨5, 15, 10, true⟩
  | .e4m3 => some ⟨4, 7, 3, false⟩
  | .e5m2 => some ⟨5, 15, 2, true⟩
  | _ => none

/-- The smallest normal exponent (R46). -/
def Fmt.emin (f : Fmt) : Int := 1 - (f.bias : Int)

/-- The largest finite magnitude as mantissa and exponent (R46, R47). -/
def Fmt.maxM (f : Fmt) : Nat := if f.infs then 2 ^ (f.f + 1) - 1 else 2 ^ (f.f + 1) - 2
def Fmt.maxE (f : Fmt) : Int := if f.infs then (f.bias : Int) - f.f else (f.bias : Int) + 1 - f.f

/-- The sign bit in place. -/
def Fmt.sign (f : Fmt) (neg : Bool) : Nat := if neg then 2 ^ (f.e + f.f) else 0

/-- The encodings of R46 and R47. -/
def Fmt.maxBits (f : Fmt) (neg : Bool) : Nat :=
  f.sign neg + (if f.infs then (2 ^ f.e - 1) * 2 ^ f.f - 1 else 2 ^ (f.e + f.f) - 2)
def Fmt.infBits (f : Fmt) (neg : Bool) : Nat := f.sign neg + (2 ^ f.e - 1) * 2 ^ f.f
def Fmt.nanBits (f : Fmt) : Nat :=
  if f.infs then (2 ^ f.e - 1) * 2 ^ f.f + 2 ^ (f.f - 1) else 2 ^ (f.e + f.f) - 1

/-- The value of an encoding (R46, R47). -/
def Fmt.decode (f : Fmt) (x : Nat) : FVal :=
  let neg := x / 2 ^ (f.e + f.f) % 2 == 1
  let ex := x / 2 ^ f.f % 2 ^ f.e
  let fr := x % 2 ^ f.f
  if f.infs && ex == 2 ^ f.e - 1 then
    if fr == 0 then .inf neg else .nan (decide (fr < 2 ^ (f.f - 1)))
  else if !f.infs && x % 2 ^ (f.e + f.f) == 2 ^ (f.e + f.f) - 1 then .nan false
  else if ex == 0 then .fin neg fr (f.emin - f.f) false
  else .fin neg (2 ^ f.f + fr) ((ex : Int) - f.bias - f.f) false

/-- The encoding of m · 2^q, which the format represents. -/
def Fmt.encode (f : Fmt) (neg : Bool) (m : Nat) (q : Int) : Nat :=
  if m = 0 then f.sign neg
  else
    let (m, q) := if m = 2 ^ (f.f + 1) then (2 ^ f.f, q + 1) else (m, q)
    if m < 2 ^ f.f then f.sign neg + m
    else f.sign neg + (q + f.f + f.bias).toNat * 2 ^ f.f + (m - 2 ^ f.f)

/-- m · 2^e ≤ n · 2^g and m · 2^e < n · 2^g on exact magnitudes. -/
def magLe (m : Nat) (e : Int) (n : Nat) (g : Int) : Bool :=
  if e ≤ g then decide (m ≤ n * 2 ^ (g - e).toNat) else decide (m * 2 ^ (e - g).toNat ≤ n)
def magLt (m : Nat) (e : Int) (n : Nat) (g : Int) : Bool := !magLe n g m e

/-- What one rounding delivers: bits, flags, and whether it was inexact (then SR has taken its draw). -/
structure Rounded where
  bits : Nat
  flags : Byte
  inexact : Bool
  deriving DecidableEq, Repr

/-- A magnitude cut at 2^q: the lower candidate, whether something was cut off, where it stands against one half
(lt, eq, gt), and the first 32 bits cut off (R54, R56). -/
def cut (m : Nat) (e : Int) (more : Bool) (q : Int) : Nat × Bool × Ordering × Nat :=
  if q ≤ e then (m * 2 ^ (e - q).toNat, more, .lt, 0)
  else
    let sh := (q - e).toNat
    let r := m % 2 ^ sh
    let h := if 2 * r < 2 ^ sh then Ordering.lt
      else if 2 * r = 2 ^ sh then (if more then .gt else .eq) else .gt
    (m / 2 ^ sh, more || r != 0, h, r * 2 ^ 32 / 2 ^ sh)

/-- Whether the candidate of larger magnitude is chosen (R53, R56): `odd` of the lower candidate, `u` the low 32 bits of
the draw. -/
def chooseUp (mode : Rnd) (neg odd : Bool) (h : Ordering) (d u : Nat) : Bool :=
  match mode with
  | .rne => h == .gt || (h == .eq && odd)
  | .rz => false
  | .rdn => neg
  | .rup => !neg
  | .rna => h == .gt || h == .eq
  | .sr => decide (u < d)

/-- Whether an overflow delivers an infinity (R54). -/
def overToInf (mode : Rnd) (neg : Bool) : Bool :=
  match mode with
  | .rne | .rna | .sr => true
  | .rz => false
  | .rdn => neg
  | .rup => !neg

/-- The overflow result under sat (R58). -/
def Fmt.tooLarge (f : Fmt) (mode : Rnd) (sat neg : Bool) : Nat :=
  if overToInf mode neg then
    if sat then f.maxBits neg else if f.infs then f.infBits neg else f.nanBits
  else f.maxBits neg

/-- One rounding of an exact value into a floating-point format (R54, R58, R60). -/
def Fmt.round (f : Fmt) (mode : Rnd) (sat : Bool) (v : FVal) (u : Nat) : Rounded :=
  match v with
  | .nan sig => ⟨f.nanBits, flagIf sig fNV, false⟩
  | .inf neg =>
    if sat then ⟨f.maxBits neg, fOF, false⟩
    else if f.infs then ⟨f.infBits neg, 0, false⟩ else ⟨f.nanBits, fNV, false⟩
  | .fin neg m e more =>
    if m = 0 && !more then ⟨f.sign neg, 0, false⟩
    else
      let top : Int := e + (Nat.log2 m : Nat)
      let q := max (top - f.f) (f.emin - f.f)
      let (c, ix, h, d) := cut m e more q
      let c' := if ix && chooseUp mode neg (c % 2 == 1) h d u then c + 1 else c
      let beyond := magLt f.maxM f.maxE c q || (magLe f.maxM f.maxE c q && ix)
      let beyond := magLt f.maxM f.maxE c' q ||
        ((mode == .rz || mode == .rdn || mode == .rup) && beyond)
      if beyond then ⟨f.tooLarge mode sat neg, fOF ||| fNX, ix⟩
      else
        let tiny := ix && magLt c' q 1 f.emin
        ⟨f.encode neg c' q, flagIf ix fNX ||| flagIf tiny fUF, ix⟩

/-- The range of an integer type (R45). -/
def intLo : Ty → Int
  | .i4 | .ci4 => -8
  | .i8 | .ci8 => -128
  | .i16 | .ci16 => -32768
  | .i32 => -2147483648
  | _ => 0
def intHi : Ty → Int
  | .i4 | .ci4 => 7
  | .i8 | .ci8 => 127
  | .ui8 => 255
  | .i16 | .ci16 => 32767
  | .ui16 => 65535
  | .i32 => 2147483647
  | .ui32 => 4294967295
  | _ => 0

/-- Bits of an integer, or of one part of a complex integer. -/
def partBits : Ty → Nat
  | .i4 | .ci4 => 4
  | .i8 | .ui8 | .ci8 => 8
  | .i16 | .ui16 | .ci16 => 16
  | _ => 32

/-- A type whose integers are signed. -/
def tySigned : Ty → Bool
  | .ui8 | .ui16 | .ui32 => false
  | _ => true

/-- The two's-complement or plain encoding of an integer in `n` bits. -/
def encInt (n : Nat) (v : Int) : Nat := (v % (2 ^ n : Nat)).toNat

/-- Sat of R83: the nearest value in the range, SAT when it differs. -/
def satInt (t : Ty) (v : Int) : Int × Byte :=
  if v < intLo t then (intLo t, fSAT) else if intHi t < v then (intHi t, fSAT) else (v, 0)

/-- One rounding of an exact value into an integer type, or one part of a complex one (R59). -/
def roundInt (t : Ty) (mode : Rnd) (v : FVal) (u : Nat) : Rounded :=
  let n := partBits t
  match v with
  | .nan _ => ⟨0, fNV, false⟩
  | .inf neg => ⟨encInt n (if neg then intLo t else intHi t), fSAT, false⟩
  | .fin neg m e more =>
    let (c, ix, h, d) := cut m e more 0
    let c' := if ix && chooseUp mode neg (c % 2 == 1) h d u then c + 1 else c
    let (r, fl) := satInt t (if neg then -(c' : Int) else c')
    ⟨encInt n r, fl ||| flagIf ix fNX, ix⟩

/-- Round of R83 into any type but the complex ones, whose parts it rounds one at a time. -/
def roundTo (t : Ty) (mode : Rnd) (sat : Bool) (v : FVal) (u : Nat) : Rounded :=
  match fmtOf t with
  | some f => f.round mode sat v u
  | none => roundInt t mode v u

/-- The value of an element's encoding: floating point, or an integer (one part of a complex one). -/
def valOf (t : Ty) (x : Nat) : FVal :=
  match fmtOf t with
  | some f => f.decode x
  | none => .ofInt (if tySigned t then sext x (partBits t) else ((x % 2 ^ partBits t : Nat) : Int))

/-- The integer value of an integer element (R45). -/
def intOf (t : Ty) (x : Nat) : Int :=
  if tySigned t then sext x (partBits t) else ((x % 2 ^ partBits t : Nat) : Int)

def FVal.isNan : FVal → Bool
  | .nan _ => true
  | _ => false
def FVal.isSig : FVal → Bool
  | .nan s => s
  | _ => false
def FVal.isInf : FVal → Bool
  | .inf _ => true
  | _ => false
def FVal.isZero : FVal → Bool
  | .fin _ m _ more => m == 0 && !more
  | _ => false
def FVal.neg? : FVal → Bool
  | .nan _ => false
  | .inf n => n
  | .fin n _ _ _ => n

/-- The value with its sign turned. -/
def FVal.negate : FVal → FVal
  | .nan s => .nan s
  | .inf n => .inf !n
  | .fin n m e k => .fin (!n) m e k

/-- The exact sum (R48), with the flags it raises (R60). Neither operand is a truncated magnitude. -/
def FVal.add (mode : Rnd) (a b : FVal) : FVal × Byte :=
  match a, b with
  | .nan s, y => (.nan false, flagIf (s || y.isSig) fNV)
  | _, .nan s => (.nan false, flagIf s fNV)
  | .inf n, .inf k => if n = k then (.inf n, 0) else (.nan false, fNV)
  | .inf n, _ => (.inf n, 0)
  | _, .inf n => (.inf n, 0)
  | .fin n m e _, .fin k r g _ =>
    let q := min e g
    let x : Int := (m * 2 ^ (e - q).toNat : Nat)
    let y : Int := (r * 2 ^ (g - q).toNat : Nat)
    let z := (if n then -x else x) + (if k then -y else y)
    if z = 0 then
      if m = 0 && r = 0 && n == k then (.zero n, 0) else (.zero (mode == .rdn), 0)
    else (.fin (decide (z < 0)) z.natAbs q false, 0)

/-- The exact product (R48, R60). -/
def FVal.mul (a b : FVal) : FVal × Byte :=
  match a, b with
  | .nan s, y => (.nan false, flagIf (s || y.isSig) fNV)
  | _, .nan s => (.nan false, flagIf s fNV)
  | .inf n, y => if y.isZero then (.nan false, fNV) else (.inf (n ^^ y.neg?), 0)
  | x, .inf n => if x.isZero then (.nan false, fNV) else (.inf (n ^^ x.neg?), 0)
  | .fin n m e _, .fin k r g _ => (.fin (n ^^ k) (m * r) (e + g) false, 0)

/-- The exact value of a fused multiply and add, a · b + c (R54): one rounding of the whole. -/
def FVal.fma (mode : Rnd) (a b c : FVal) : FVal × Byte :=
  let (p, f) := a.mul b
  let (r, g) := p.add mode c
  (r, f ||| g)

/-- The order of two values that are not NaN; zeros of either sign are equal. -/
def FVal.cmp (a b : FVal) : Ordering :=
  let key : FVal → Int × Int := fun v => match v with
    | .inf n => (if n then -1 else 1, 0)
    | _ => (0, 0)
  match a, b with
  | .fin n m e _, .fin k r g _ =>
    let q := min e g
    let x : Int := (m * 2 ^ (e - q).toNat : Nat)
    let y : Int := (r * 2 ^ (g - q).toNat : Nat)
    compare (if n then -x else x) (if k then -y else y)
  | x, y => compare (key x).1 (key y).1

/-- Levels of the codebook times 512 (R50). -/
def cb4Level (i : Nat) : Int :=
  ([-512, -360, -272, -208, -152, -100, -50, 0, 44, 88, 134, 184, 240, 304, 388, 512] : List Int).getD (i % 16) 0

/-- The level as an exact value (R50); index 7 is +0. -/
def cb4Val (i : Nat) : FVal := .fin (decide (cb4Level i < 0)) (cb4Level i).natAbs (-9) false

/-- The rounded block scale of R51, as a value: S × (sc + 1) / 256 into F32 under RNE, no flag; a NaN keeps whether S was
signalling (R52). -/
def blockScale (sc : Nat) (s : BitVec 32) : FVal :=
  match valOf .f32 s.toNat with
  | .nan sig => .nan sig
  | v => valOf .f32 (roundTo .f32 .rne false (v.mul (.fin false (sc + 1) (-8) false)).1 0).bits

end Sys2Proof.Machine
end

