-- ==== Sys2Proof/Machine/Special.lean ====
section
/-! DEFINITION. Special.lean: the special functions of R172-R174. Each is enclosed between two neighbouring multiples of a
power of two, from which the one rounding of R173 follows; exact results are exact. -/

namespace Sys2Proof.Machine

/-- Fractional bits of the fixed-point enclosures. -/
def fixP : Nat := 256

/-- Lower bounds of π, ln 2 and 2 / ln 2 at that scale; each lies less than one unit below the value. -/
def fixPi : Nat := 0x3243f6a8885a308d313198a2e03707344a4093822299f31d0082efa98ec4e6c89
def fixLn2 : Nat := 0xb17217f7d1cf79abc9e3b39803f2f6af40f343267298b62d8a0d175b8baafa2b
def fixTwoOverLn2 : Nat := 0x2e2a8eca5705fc2eefa1ffb41a474fa23ad5deaa375a569622c9459b34684c91f

/-- A product at scale 2^fixP, rounded down. -/
def fixMul (a b : Nat) : Nat := a * b / 2 ^ fixP

/-- A magnitude strictly between lo · 2^e and hi · 2^e, as a truncated exact value. -/
def enclose (neg : Bool) : Nat → Nat → Nat → Int → FVal
  | 0, lo, _, e => .fin neg lo e true
  | n + 1, lo, hi, e =>
    if hi ≤ lo + 1 then .fin neg lo e true else enclose neg n (lo / 2) ((hi + 1) / 2) (e + 1)

/-- The integer square root, from bit `b` down. -/
def isqrtFrom (n : Nat) : Nat → Nat → Nat
  | 0, r => r
  | b + 1, r => isqrtFrom n b (if (r + 2 ^ b) * (r + 2 ^ b) ≤ n then r + 2 ^ b else r)
def isqrt (n : Nat) : Nat := isqrtFrom n (Nat.log2 n / 2 + 1) 0

/-- 1 / (m · 2^e). -/
def fRcp (neg : Bool) (m : Nat) (e : Int) : FVal :=
  let k : Nat := Nat.log2 m + 64
  let one : Nat := 2 ^ k
  .fin neg (one / m) (-e - (k : Int)) (one % m != 0)

/-- √(m · 2^e). -/
def fSqrt (m : Nat) (e : Int) : FVal :=
  let sh : Nat := 128 + (if (e - 128) % 2 = 0 then 0 else 1)
  let r := isqrt (m * 2 ^ sh)
  .fin false r ((e - sh) / 2) (r * r != m * 2 ^ sh)

/-- 1 / √(m · 2^e). -/
def fRsq (m : Nat) (e : Int) : FVal :=
  let j : Nat := 2 * Nat.log2 m + 128
  let k : Nat := if (e + j) % 2 = 0 then j else j + 1
  let r := isqrt (2 ^ k / m)
  .fin false r (-(e + k) / 2) (r * r * m != 2 ^ k)

/-- Σ yⁿ / n! from the nth term on, for a fixed-point y < 2; rounded down by less than one unit for each term. -/
def expFrom (y : Nat) : Nat → Nat → Nat → Nat
  | 0, _, _ => 0
  | f + 1, n, t => t + expFrom y f (n + 1) (fixMul t y / (n + 1))

/-- 2^x for a fixed-point x in [0, 1): a lower bound, less than 2^10 units low. -/
def fixExp2 (x : Nat) : Nat := expFrom (fixMul x fixLn2) 100 0 (2 ^ fixP)

/-- An exact m · 2^e at scale 2^fixP, rounded down. -/
def toFix (m : Nat) (e : Int) : Nat := if 0 ≤ e + fixP then m * 2 ^ (e + fixP).toNat else m / 2 ^ (-(e + fixP)).toNat

/-- 2^±(m · 2^e) (R172). Beyond ±2^12 the value stays on its side of every format. -/
def fExp2 (neg : Bool) (m : Nat) (e : Int) : FVal :=
  if magLe 1 12 m e then .fin false 1 (if neg then -4096 else 4096) true
  else
    let whole := toFix m e / 2 ^ fixP
    let frac := toFix m e % 2 ^ fixP
    let exact := 0 ≤ e + fixP
    if frac = 0 && exact then .fin false 1 (if neg then -(whole : Int) else whole) false
    else if neg then
      let x := 2 ^ fixP - frac
      let lo := fixExp2 (x - 1)
      enclose false 600 lo (min (lo + 2048) (2 ^ (fixP + 1))) (-(whole : Int) - 1 - fixP)
    else
      let lo := fixExp2 frac
      enclose false 600 lo (lo + 2048) ((whole : Int) - fixP)

/-- Σ zⁿ / n over odd n, for a fixed-point z < 1/4. -/
def atanhFrom (zz : Nat) : Nat → Nat → Nat → Nat
  | 0, _, _ => 0
  | f + 1, n, t => t / n + atanhFrom zz f (n + 2) (fixMul t zz)

/-- log₂(m · 2^e), m > 0 (R172): with f in [3/4, 3/2), E + (2 / ln 2) · atanh((f - 1) / (f + 1)). -/
def fLog2 (m : Nat) (e : Int) : FVal :=
  let g := Nat.log2 m
  if m = 2 ^ g then .ofInt (e + g)
  else
    let big := 3 * 2 ^ g ≤ 2 * m
    let d := if big then 2 ^ (g + 1) else 2 ^ g
    let k : Int := e + g + if big then 1 else 0
    let up := decide (d < m)
    let z := (if up then m - d else d - m) * 2 ^ fixP / (m + d)
    let lo := atanhFrom (fixMul z z) 80 1 z
    let lo' := fixMul lo fixTwoOverLn2
    let hi' := fixMul (lo + 1024) (fixTwoOverLn2 + 1) + 1
    let one : Int := (2 ^ fixP : Nat)
    let (x, y) : Int × Int := if up then (k * one + lo', k * one + hi') else (k * one - hi', k * one - lo')
    if 0 ≤ x then enclose false 600 x.toNat y.toNat (-(fixP : Int)) else enclose true 600 (-y).toNat (-x).toNat (-(fixP : Int))

/-- tanh(m · 2^e), m > 0 (R172). -/
def fTanh (neg : Bool) (m : Nat) (e : Int) : FVal :=
  let one := 2 ^ fixP
  if magLe 1 7 m e then enclose neg 600 (one - 1) one (-(fixP : Int))
  else if magLt m e 1 (-20) then
    let y := toFix (m * m) (2 * e)
    let lo := one - y / 3 - 4
    let hi := min one (lo + 2 * fixMul y y / 15 + 16)
    enclose neg 600 (m * lo) (m * hi) (e - fixP)
  else
    let x := fixMul (toFix m e) fixTwoOverLn2
    let w := x / one
    let lo := fixExp2 (x % one) * 2 ^ w
    let hi := (fixExp2 (x % one) + 2 ^ 20) * 2 ^ w
    enclose neg 600 ((lo - one) * one / (lo + one)) (min one ((hi - one) * one / (hi + one) + 1)) (-(fixP : Int))

/-- Σ (-1)ⁿ yⁿ / (k + 1)(k + 2)… from a term on: the sine and cosine series in y², added and taken off in turn. -/
def trigFrom (yy : Nat) : Nat → Nat → Nat → Nat → Nat → Nat × Nat
  | 0, _, _, a, b => (a, b)
  | f + 1, k, t, a, b =>
    let t' := fixMul t yy / ((k + 1) * (k + 2))
    let t'' := fixMul t' yy / ((k + 3) * (k + 4))
    trigFrom yy f (k + 4) t'' (a + t) (b + t')

/-- sin(π t), 0 < t < 1/2, t = n / 2^k (R172). -/
def sinPi (neg : Bool) (n k : Nat) : FVal :=
  let one := 2 ^ fixP
  if 4 * n ≤ 2 ^ k then
    let y := toFix (n * n) (-(2 * k : Nat))
    let yy := fixMul y (fixMul fixPi fixPi)
    let (a, b) := trigFrom yy 20 1 one 0 0
    enclose neg 900 (fixPi * n * (a - b - 4096)) ((fixPi + 1) * n * min one (a - b + 4096)) (-(2 * fixP + k : Nat))
  else
    let r := 2 ^ k - 2 * n
    let y := toFix (r * r) (-(2 * k + 2 : Nat))
    let yy := fixMul y (fixMul fixPi fixPi)
    let (a, b) := trigFrom yy 20 0 one 0 0
    enclose neg 600 (a - b - 4096) (min one (a - b + 4096)) (-(fixP : Int))

/-- sin(π x) for x = n / 2^k ≥ 0, n taken modulo 2^(k+1): exact at the multiples of one half. -/
def sinTurn (neg : Bool) (n k : Nat) : FVal :=
  let r := n % 2 ^ (k + 1)
  let neg := neg ^^ decide (2 ^ k ≤ r)
  let t := r % 2 ^ k
  let t := if 2 ^ k < 2 * t then 2 ^ k - t else t
  if t = 0 then .zero false else if 2 * t = 2 ^ k then .fin neg 1 0 false else sinPi neg t k

/-- sin(π x) and cos(π x) for x = ±m · 2^e (R172, R174). -/
def fSin (neg : Bool) (m : Nat) (e : Int) : FVal :=
  if 0 ≤ e then .zero neg
  else
    match sinTurn neg m (-e).toNat with
    | .fin _ 0 _ false => .zero neg
    | v => v
def fCos (m : Nat) (e : Int) : FVal :=
  if 0 < e then .fin false 1 0 false
  else
    let k := (-e).toNat + 1
    sinTurn false (2 * m + 2 ^ (k - 1)) k

/-- f(x) of a finite x that is no special case, and the cases of R174, with the flags that these raise. Member 0 VRCP,
1 VRSQ, 2 VSQRT, 3 VEXP2, 4 VLOG2, 5 VTANH, 6 VSIN, 7 VCOS. -/
def specialOf (member : Nat) (x : FVal) : FVal × Byte :=
  match x with
  | .nan s => (.nan false, flagIf s fNV)
  | .inf n =>
    match member with
    | 0 => (.zero n, 0)
    | 1 => if n then (.nan false, fNV) else (.zero false, 0)
    | 2 => if n then (.nan false, fNV) else (.inf false, 0)
    | 3 => if n then (.zero false, 0) else (.inf false, 0)
    | 4 => if n then (.nan false, fNV) else (.inf false, 0)
    | 5 => (.fin n 1 0 false, 0)
    | _ => (.nan false, fNV)
  | .fin n m e _ =>
    if m = 0 then
      match member with
      | 0 => (.inf n, fDZ)
      | 1 => (.inf n, fDZ)
      | 2 => (.zero n, 0)
      | 3 => (.fin false 1 0 false, 0)
      | 4 => (.inf true, fDZ)
      | 5 => (.zero n, 0)
      | 6 => (.zero n, 0)
      | _ => (.fin false 1 0 false, 0)
    else
      match member with
      | 0 => (fRcp n m e, 0)
      | 1 => if n then (.nan false, fNV) else (fRsq m e, 0)
      | 2 => if n then (.nan false, fNV) else (fSqrt m e, 0)
      | 3 => (fExp2 n m e, 0)
      | 4 => if n then (.nan false, fNV) else (fLog2 m e, 0)
      | 5 => (fTanh n m e, 0)
      | 6 => (fSin n m e, 0)
      | _ => (fCos m e, 0)

/-- The mode of R173: VSQRT rounds under RMODE; other members round F32 to the fixed choice between the two bounds, which is
open (log 8), and BF16 and F16 under RNE. -/
def specialMode (member : Nat) (t : Ty) (x : Nat) (neg : Bool) (rmode : Rnd) : Rnd :=
  if member = 2 then rmode
  else if t = .f32 then
    if Config.specialPicksLarger member x then (if neg then .rdn else .rup) else .rz
  else .rne

/-- One element of a special function (R172-R174); `u` is the draw of R56. -/
def special (member : Nat) (t : Ty) (rmode : Rnd) (x u : Nat) : Rounded :=
  let (v, f) := specialOf member (valOf t x)
  let r := roundTo t (specialMode member t x v.neg? rmode) false v u
  { r with flags := r.flags ||| f }

end Sys2Proof.Machine
end

