-- ==== Sys2Proof/Machine/Streams.lean ====
section
/-! DEFINITION. Streams.lean: stream buffers (R217, R218, R274), address streams and the layout unit (R220, R221, R278, R279),
compressed chunks (R283-R286). -/

namespace Sys2Proof.Machine

/-! ### Stream buffers -/

/-- Bytes between the pointers (R218). -/
def SBuf.fill (b : SBuf) : Nat := (b.pp - b.cp).toNat

/-- The fire bytes (R217). -/
def SBuf.fireBytes (b : SBuf) : Nat := (b.fire * b.ty.ew + 7) / 8

/-- A consumer's and a producer's request fires (R218). A request larger than the buffer never does (R274). -/
def SBuf.canTake (b : SBuf) (n : Nat) : Bool := decide (max n b.fireBytes ≤ b.fill)
def SBuf.canPut (b : SBuf) (n : Nat) : Bool := decide (b.fill + n ≤ b.size)

/-- The location of byte p + i of a buffer in a tile's SRAM (R218). -/
def SBuf.loc (b : SBuf) (t : Nat) (p : BitVec 32) (i : Nat) : Nat :=
  sramLoc t (b.base + (p + BitVec.ofNat 32 i).toNat % b.size)

/-- The n bytes at a pointer, and whether one of them is poisoned. -/
def State.sbBytes (s : State) (t : Nat) (b : SBuf) (p : BitVec 32) (n : Nat) : List Byte :=
  (List.range n).map fun i => s.byte (b.loc t p i)
def State.sbPoisoned (s : State) (t : Nat) (b : SBuf) (p : BitVec 32) (n : Nat) : Bool :=
  (List.range n).any fun i => s.poison.contains (b.loc t p i)

/-- Bytes written at the producer pointer, each with its poison mark; the pointer does not move. -/
def State.sbFill (s : State) (t : Nat) (b : SBuf) : Nat → List (Byte × Bool) → State
  | _, [] => s
  | i, (x, bad) :: r => (s.store (b.loc t b.pp i) [x] bad).sbFill t b (i + 1) r

def Tile.setSb (t : Tile) (n : Nat) (b : SBuf) : Tile := { t with sbs := t.sbs.put n b }

/-- A producer's request: the bytes land, then PP advances (R218). -/
def State.sbPut (s : State) (t n : Nat) (b : SBuf) (bs : List (Byte × Bool)) : State :=
  (s.sbFill t b 0 bs).updTile t fun x => x.setSb n { b with pp := b.pp + BitVec.ofNat 32 bs.length }

/-- A consumer has taken n bytes (R218). -/
def State.sbTake (s : State) (t n : Nat) (b : SBuf) (k : Nat) : State :=
  s.updTile t fun x => x.setSb n { b with cp := b.cp + BitVec.ofNat 32 k }

/-- The source endpoint of a C word; 31 where it has none. -/
def sourceOf : Instr → Nat
  | .copy r .. | .cqnt r .. | .cexp r .. | .ccvt r .. => r.toNat
  | .copym r .. => r.toNat
  | _ => 31

/-- The bytes that a C word has taken from its source buffer and not used up, before which CP still stands (R224, R244). -/
def Entry.ahead (x : Entry) : Nat := x.inb.length - x.own

/-- CP passes k bytes of a word's source buffer. -/
def Entry.passes (x : Entry) (b : SBuf) (k : Nat) : Entry :=
  { x with tail := some (b.cp + BitVec.ofNat 32 k, k + match x.tail with
    | some (p, j) => if p = b.cp then j else 0
    | none => 0) }

/-- Another consumer of a buffer from which the C word at the head has taken bytes fires: the request of that word moves CP whole
first (R275). -/
def Tile.passAhead (t : Tile) (n : Nat) : Tile :=
  match t.cq, t.sbs.find n with
  | x :: r, some b =>
    if sourceOf x.word = 16 + n ∧ x.own < x.inb.length then
      { t.setSb n { b with cp := b.cp + BitVec.ofNat 32 x.ahead } with
        cq := ({ x.passes b x.ahead with own := x.inb.length } : Entry) :: r }
    else t
  | _, _ => t

/-! ### Tensor entries and the layout unit -/

/-- A tensor-table entry (R278). -/
structure TEnt where
  base : Word
  ty : Ty
  ndim : Nat
  swz : Nat
  compressed : Bool
  ext : List Nat
  tile : List Nat
  stride : List Int
  deriving DecidableEq, Repr

/-- The 128 bytes of an entry as its fields. -/
def tentOf (b : List Byte) : TEnt :=
  let f := fun (o n : Nat) => leNat ((b.drop o).take n)
  { base := BitVec.ofNat 64 (f 0 8)
    ty := (Ty.ofCode (f 8 1 % 16)).getD .i8
    ndim := f 9 1
    swz := f 10 1
    compressed := f 11 1 % 2 == 1
    ext := (List.range 5).map fun d => f (16 + 4 * d) 4
    tile := (List.range 5).map fun d => f (36 + 2 * d) 2
    stride := (List.range 5).map fun d => sext (f (64 + 8 * d) 8) 64 }

/-- Entry i of a context's tensor table, which lies at a physical address (R348). -/
def State.tent (s : State) (c i : Nat) : TEnt := tentOf (s.bytesAt ((s.ctxAt c).record.ttbase.toNat + 128 * i) 128)

/-- Digits of k in mixed radix, innermost first; the last digit is not reduced. -/
def digits : List Nat → Nat → List Nat
  | [], _ => []
  | r :: rs, k => k % r :: digits rs (k / r)

/-- The product of a list. -/
def prod (l : List Nat) : Nat := l.foldl (· * ·) 1

/-- Bytes of one row of a tile, and bytes of a tile (R279). -/
def TEnt.rowBytes (e : TEnt) : Nat := e.tile.getD 0 1 * e.ty.ew / 8
def TEnt.posBytes (e : TEnt) : Nat := prod (e.tile.take e.ndim) * e.ty.ew / 8

/-- Tiles along each dimension, and all of them. -/
def TEnt.grid (e : TEnt) : List Nat := (List.range e.ndim).map fun d => ceilDiv (e.ext.getD d 0) (e.tile.getD d 1)
def TEnt.positions (e : TEnt) : Nat := prod e.grid

/-- Byte o of tile position k (R279): its address, and the bits of it that lie inside every extent. -/
def TEnt.byteAt (e : TEnt) (k o : Nat) : Word × Byte :=
  let t := digits e.grid k
  let r := o / e.rowBytes
  let q := o % e.rowBytes
  let u := q / 16 ^^^ r % 2 ^ e.swz
  let off := 16 * u + q % 16
  let rows := digits ((e.tile.take e.ndim).drop 1) r
  let c := fun d => t.getD d 0 * e.tile.getD d 1 + rows.getD (d - 1) 0
  let c0 := t.getD 0 0 * e.tile.getD 0 1 + off * 8 / e.ty.ew
  let inside := (List.range (e.ndim - 1)).all fun d => decide (c (d + 1) < e.ext.getD (d + 1) 0)
  let a : Int := (List.range (e.ndim - 1)).foldl (fun a d => a + c (d + 1) * e.stride.getD (d + 1) 0) 0
  let first := t.getD 0 0 * e.tile.getD 0 1 * e.ty.ew / 8
  let lo := decide (c0 < e.ext.getD 0 0)
  let hi := if e.ty.ew = 4 then decide (c0 + 1 < e.ext.getD 0 0) else lo
  let mask : Byte := (if lo then (if e.ty.ew = 4 then 0x0F else 0xFF) else 0) ||| (if hi then 0xF0 else 0)
  (e.base + wrap64 a + BitVec.ofNat 64 (first + off), if inside then mask else 0)

/-! ### Address streams -/

def Tile.stream (t : Tile) (n : Nat) : Option AStream := t.sts.find n
def Tile.setStream (t : Tile) (n : Nat) (x : AStream) : Tile := { t with sts := t.sts.put n x }

/-- Bytes of a position and the number of positions (R220, R221). -/
def AStream.posBytes (x : AStream) (e : TEnt) : Nat := if x.tensor then e.posBytes else x.chunk
def AStream.positions (x : AStream) (e : TEnt) : Nat := if x.tensor then e.positions else prod (x.ext.take x.ndim)

/-- The address of byte o of position k of a LINEAR stream (R221). -/
def AStream.linear (x : AStream) (k o : Nat) : Word :=
  let c := digits (x.ext.take x.ndim) k
  let a : Int := (List.range x.ndim).foldl (fun a d => a + (c.getD d 0 : Int) * x.stride.getD d 0) 0
  x.base + wrap64 a + BitVec.ofNat 64 o

/-- Byte o of position k: its address and which of its bits exist. -/
def AStream.byteAt (x : AStream) (e : TEnt) (k o : Nat) : Word × Byte :=
  if x.tensor then e.byteAt k o else (x.linear k o, 0xFF)

/-- The position n bytes on (R221). -/
def AStream.forward (x : AStream) (e : TEnt) (n : Nat) : AStream :=
  let b := x.posBytes e
  if b = 0 then x else { x with k := x.k + (x.o + n) / b, o := (x.o + n) % b }

/-- The position of byte i from here; TENSOR_BOUNDS beyond the end (R221). -/
def AStream.posOf (x : AStream) (e : TEnt) (i : Nat) : Res (Nat × Nat) :=
  let b := x.posBytes e
  let k := if b = 0 then x.k else x.k + (x.o + i) / b
  if x.positions e ≤ k || b = 0 then trapOf .tensorBounds (BitVec.ofNat 64 k) else .ok (k, (x.o + i) % b)

/-- The entry of a stream. -/
def State.streamEnt (s : State) (w : Who) (x : AStream) : TEnt :=
  if x.tensor then s.tent w.ctx x.entry else ⟨0, .i8, 0, 0, false, [], [], []⟩

/-- The stream reads or writes compressed chunks (R283). -/
def AStream.packed (x : AStream) (e : TEnt) : Bool := x.tensor && e.compressed

/-- n bytes from byte i of a compressed stream, from the chunks that the expander keeps; elements beyond an extent are zero
(R221). -/
def AStream.keptBytes (x : AStream) (e : TEnt) : Nat → Nat → Res (List PByte)
  | _, 0 => .ok []
  | i, n + 1 => do
    let (k, o) ← x.posOf e i
    let (_, m) := x.byteAt e k o
    let (b, bad) := (x.kept.get [] k).getD o ((0, false) : PByte)
    let rest ← x.keptBytes e (i + 1) n
    .ok ((b &&& m, bad) :: rest)

/-- The locations of n bytes from byte i of a stream, checked as R119 says for accesses of kind `kind`, with the bits that
exist; a byte none of whose bits exists has no location. -/
def State.streamLocs (s : State) (w : Who) (x : AStream) (e : TEnt) (kind : AccKind) : Nat → Nat → Res (List (Option Nat × Byte))
  | _, 0 => .ok []
  | i, n + 1 => do
    let (k, o) ← x.posOf e i
    let (a, m) := x.byteAt e k o
    let l ← (if m = 0 then .ok none else (s.resolve w a 1 kind).map some)
    let rest ← s.streamLocs w x e kind (i + 1) n
    .ok ((l, m) :: rest)

/-- How many of some places, from the first on, lie one after another in one 256-byte block and exist whole, or do not exist:
what one request takes in. -/
def runOf : List (Option Nat × Byte) → Nat
  | [] => 0
  | [_] => 1
  | (a, m) :: (b, n) :: r =>
    let next := match a, b with
      | none, none => true
      | some x, some y => y == x + 1 && y / 256 == x / 256 && m == 0xFF && n == 0xFF
      | _, _ => false
    if next then runOf ((b, n) :: r) + 1 else 1

/-- Bytes written to locations; bits that do not exist stay. -/
def State.writeLocs (s : State) : List (Option Nat × Byte) → List (Byte × Bool) → State
  | (some l, m) :: r, (b, bad) :: bs =>
    (s.store l [if m = 0xFF then b else (s.byte l &&& ~~~m) ||| (b &&& m)] (bad || (m != 0xFF && s.poison.contains l))).writeLocs r bs
  | (none, _) :: r, _ :: bs => s.writeLocs r bs
  | _, _ => s

/-! ### Compressed chunks -/

/-- One byte into a CRC-32C (R283). -/
def crcByte (c : BitVec 32) (b : Byte) : BitVec 32 :=
  (List.range 8).foldl (fun x _ => if x.getLsbD 0 then (x >>> 1) ^^^ 0x82F63B78 else x >>> 1) (c ^^^ b.zeroExtend 32)
def crc32c (bs : List Byte) : BitVec 32 := ~~~(bs.foldl crcByte 0xFFFFFFFF)

/-- Payload bytes of a sector mode (R284). -/
def modeBytes : Nat → Nat
  | 0 => 0
  | 1 => 4
  | 2 => 7
  | _ => 16

/-- The 16 bytes of a sector from its payload (R284). -/
def expandSector (mode : Nat) (p : List Byte) : List Byte :=
  match mode with
  | 0 => List.replicate 16 0
  | 1 => p ++ p ++ p ++ p
  | 2 =>
    let w := leNat (p.take 4)
    p.take 4 ++ (p.drop 4).flatMap fun d => le 4 (encInt 32 ((w : Int) + sext d.toNat 8))
  | _ => p

/-- The sectors from a mode list and the payload. -/
def expandSectors : List Nat → List Byte → List Byte
  | [], _ => []
  | m :: ms, p => expandSector m (p.take (modeBytes m)) ++ expandSectors ms (p.drop (modeBytes m))

/-- The 4,096 bytes of a stored chunk and whether it fails its check, when it is delivered as zeros (R283-R285). -/
def expandChunk (b : List Byte) : List Byte × Bool :=
  let f := fun (o n : Nat) => leNat ((b.drop o).take n)
  let map := f 32 64
  let modes := (List.range 256).map fun i => map / 4 ^ i % 4
  let need := modes.foldl (fun n m => n + modeBytes m) 0
  let out := expandSectors modes ((b.drop 96).take (f 4 2))
  let bad := f 4 2 != need || f 6 2 != 0 || f 16 16 != 0 || (crc32c out).toNat != f 0 4
  if bad then (List.replicate 4096 0, true) else (out, false)

/-- A stored chunk is 4,224 bytes apart from the next (R283). -/
def chunkAddr (e : TEnt) (k : Nat) : Word := e.base + BitVec.ofNat 64 (4224 * k)

/-- Locations of a range of addresses, each byte checked as R119 says. -/
def State.rangeLocs (s : State) (w : Who) (k : AccKind) (a : Word) : Nat → Nat → Res (List Nat)
  | _, 0 => .ok []
  | i, n + 1 => do
    let l ← s.resolve w (a + BitVec.ofNat 64 i) 1 k
    let rest ← s.rangeLocs w k a (i + 1) n
    .ok (l :: rest)

/-- What an access on the way comes to, where a fault leaves it undone: only consumed poison goes on (R382). -/
def fatalOnly {α : Type} (r : Res α) : Res (Option α) :=
  match r with
  | .ok x => .ok (some x)
  | .error (.fatal k) => .error (.fatal k)
  | .error _ => .ok none

/-- A failed chunk is appended to the bad-chunk list (R285, R286), if its context has one that can be reached (log 87); slice ports
admit its words (R305). -/
def State.badChunk (s : State) (w : Who) (k entry : Nat) : Res State := do
  let a := (s.ctxAt w.ctx).badchunk
  if a = 0 then .ok s
  else
    match ← fatalOnly (s.resolve w a 8 .amo), ← fatalOnly (s.resolve w (a + 8) 8 .amo) with
    | some l, some c => do
      let cap := s.readNat l 8
      let n ← s.consume c 8
      let s ← s.admitAll w.tile ((List.range 8).map (l + ·) ++ (List.range 8).map (c + ·))
      let s := s.store c (le 8 (n + 1))
      if cap ≤ n then .ok s
      else match ← fatalOnly (s.rangeLocs w .write (a + BitVec.ofNat 64 (64 + 16 * n)) 0 16) with
        | some ls => (s.admitAll w.tile ls).map fun s => (s.writeLocs (ls.map fun l => (some l, 0xFF))
            ((le 8 k ++ le 2 entry ++ le 1 (tileY w.tile) ++ le 1 (tileX w.tile) ++ le 4 0).map fun b => (b, false)))
        | none => .ok s
    | _, _ => .ok s

/-- The expander reads at most `lim` bytes more of the stored chunk k of stream n, of which it has read `raw` (R246); once it has
them all, it checks and keeps the chunk (R285, R227). Poison of any byte of the stored chunk marks all of its bytes (R382, log 62). -/
def State.keepChunk (s : State) (w : Who) (n : Nat) (x : AStream) (e : TEnt) (k : Nat) (raw : List PByte) (lim : Nat) :
    Res (State × List PByte) := do
  let read := fun (l : Nat) => (s.byte l, s.poison.contains l)
  let head ← s.rangeLocs w .read (chunkAddr e k) raw.length (min lim (96 - raw.length))
  let top := raw ++ head.map read
  let size := 96 + if top.length < 96 then 0 else min (leNat (rawBytes ((top.drop 4).take 2))) 4096
  let rest ← s.rangeLocs w .read (chunkAddr e k) top.length (min (lim - head.length) (size - top.length))
  let all := top ++ rest.map read
  let s ← s.admitAll w.tile (head ++ rest)
  if all.length < size || all.length < 96 then .ok (s, all)
  else
    let (bytes, bad) := expandChunk (rawBytes all)
    let poison := !bad && all.any Prod.snd
    let s := s.updTile w.tile fun t =>
      t.setStream n { x with kept := Tab.put (x.kept.filter fun p => decide (x.k ≤ p.1)) k (bytes.map fun b => (b, poison)) }
    (if bad then s.badChunk w k x.entry else .ok s).map fun s => (s, [])

/-- The first of the chunks that n bytes from a stream's position need and the expander does not keep. -/
def AStream.needs (x : AStream) (e : TEnt) (n : Nat) : Option Nat :=
  if !x.packed e || n = 0 then none
  else ((List.range ((x.o + n - 1) / 4096 + 1)).map (x.k + ·)).find? fun k => (x.kept.find k).isNone && decide (k < x.positions e)

/-- The first mode that represents a sector exactly, and its payload (R284). -/
def packSector (b : List Byte) : Nat × List Byte :=
  let w := fun i => leNat ((b.drop (4 * i)).take 4)
  let d := fun i => sext ((w i + 2 ^ 32 - w 0) % 2 ^ 32) 32
  let small := fun (x : Int) => decide (-128 ≤ x) && decide (x ≤ 127)
  if b.all (· == 0) then (0, [])
  else if w 1 = w 0 && w 2 = w 0 && w 3 = w 0 then (1, b.take 4)
  else if small (d 1) && small (d 2) && small (d 3) then
    (2, b.take 4 ++ ([1, 2, 3].map fun i => BitVec.ofInt 8 (d i)))
  else (3, b)

/-- The stored form of chunk k (R283). -/
def packChunk (k : Nat) (b : List Byte) : List Byte :=
  let ps := (List.range 256).map fun i => packSector ((b.drop (16 * i)).take 16)
  let payload := ps.flatMap Prod.snd
  let map := ps.foldr (fun p m => p.1 + 4 * m) 0
  le 4 (crc32c b).toNat ++ le 2 payload.length ++ le 2 0 ++ le 8 k ++ List.replicate 16 0 ++ le 64 map ++ payload

end Sys2Proof.Machine
end

