-- ==== Sys2Proof/Machine/Vector.lean ====
section
/-! DEFINITION. Vector.lean: what the vector words do when they perform at the head of the V queue (R158-R189). -/

namespace Sys2Proof.Machine

/-! ### Registers and masks of a window (R158, R161, R162) -/

/-- Register n and mask m of window `win`. -/
def Tile.vget (t : Tile) (win n : Nat) : BitVec 4096 := t.vs.get 0 (32 * win + n)
def Tile.vset (t : Tile) (win n : Nat) (v : BitVec 4096) : Tile := { t with vs := t.vs.set 0 (32 * win + n) v }
def Tile.mget (t : Tile) (win m : Nat) : BitVec 1024 := if m = 0 then BitVec.allOnes 1024 else t.masks.get 0 (8 * win + m)
def Tile.mset (t : Tile) (win m : Nat) (v : BitVec 1024) : Tile :=
  if m = 0 then t else { t with masks := t.masks.set 0 (8 * win + m) v }

/-- Element e of a register image for elements of ew bits (R161). -/
def elem (ew v e : Nat) : Nat := v / 2 ^ (ew * e) % 2 ^ ew

/-- An image from its elements in increasing order. -/
def pack (ew : Nat) : List Nat → Nat
  | [] => 0
  | x :: r => x % 2 ^ ew + 2 ^ ew * pack ew r

/-! ### Element operations. Each gives the element, the flags raised, and the generator after its draws (R166). -/

/-- What an element operation delivers. -/
structure EOut where
  x : Nat
  flags : Byte := 0
  gen : BitVec 64

/-- One rounding of an exact value; under SR an inexact result takes one draw (R56). -/
def roundDraw (t : Ty) (mode : Rnd) (sat : Bool) (v : FVal) (g : BitVec 64) : EOut :=
  let r := roundTo t mode sat v ((nextGen g).toNat % 2 ^ 32)
  ⟨r.bits, r.flags, if mode = .sr && r.inexact then nextGen g else g⟩

/-- A rounded result with the flags of its exact computation. -/
def roundWith (t : Ty) (mode : Rnd) (v : FVal × Byte) (g : BitVec 64) : EOut :=
  let r := roundDraw t mode false v.1 g
  { r with flags := r.flags ||| v.2 }

/-- The parts of a complex element, and an element from its parts (R49). -/
def re (t : Ty) (x : Nat) : Int := sext x (partBits t)
def im (t : Ty) (x : Nat) : Int := sext (x / 2 ^ partBits t) (partBits t)
def joinParts (t : Ty) (r i : Int) : Nat := encInt (partBits t) r + 2 ^ partBits t * encInt (partBits t) i

/-- A complex result, each part saturated or wrapped. -/
def satParts (t : Ty) (r i : Int) : Nat × Byte :=
  let (a, f) := satInt t r
  let (b, h) := satInt t i
  (joinParts t a b, f ||| h)

/-- a + b or a - b (R168). -/
def vAddSub (t : Ty) (mode : Rnd) (sub : Bool) (a b : Nat) (g : BitVec 64) : EOut :=
  if t.isFlt then roundWith t mode ((valOf t a).add mode (if sub then (valOf t b).negate else valOf t b)) g
  else if t.isCpx then
    ⟨if sub then joinParts t (re t a - re t b) (im t a - im t b) else joinParts t (re t a + re t b) (im t a + im t b), 0, g⟩
  else ⟨encInt t.ew (if sub then intOf t a - intOf t b else intOf t a + intOf t b), 0, g⟩

/-- a · b (R168). -/
def vMul (t : Ty) (mode : Rnd) (a b : Nat) (g : BitVec 64) : EOut :=
  if t.isFlt then roundWith t mode ((valOf t a).mul (valOf t b)) g else ⟨encInt t.ew (intOf t a * intOf t b), 0, g⟩

/-- a · b + d, or d - a · b, with one rounding (R168). -/
def vMulAdd (t : Ty) (mode : Rnd) (neg : Bool) (a b d : Nat) (g : BitVec 64) : EOut :=
  if t.isFlt then
    roundWith t mode (FVal.fma mode (if neg then (valOf t a).negate else valOf t a) (valOf t b) (valOf t d)) g
  else ⟨encInt t.ew (if neg then intOf t d - intOf t a * intOf t b else intOf t a * intOf t b + intOf t d), 0, g⟩

/-- |a| (R168): on FLT only the sign bit changes. -/
def vAbs (t : Ty) (a : Nat) : Nat :=
  if t.isFlt then a % 2 ^ (t.ew - 1) else encInt t.ew (if intOf t a < 0 then -intOf t a else intOf t a)

/-- -a (R168). -/
def vNeg (t : Ty) (a : Nat) : Nat :=
  if t.isFlt then (a + 2 ^ (t.ew - 1)) % 2 ^ t.ew
  else if t.isCpx then joinParts t (-re t a) (-im t a)
  else encInt t.ew (-intOf t a)

/-- The canonical NaN of a floating-point type (R47). -/
def nanOf (t : Ty) : Nat := ((fmtOf t).map Fmt.nanBits).getD 0

/-- a orders below b, with -0 below +0 (R168). -/
def floatBelow (a b : FVal) : Bool :=
  match a.cmp b with
  | .lt => true
  | .eq => a.neg? && !b.neg?
  | .gt => false

/-- The lesser or the greater of two elements (R168). -/
def vPick (t : Ty) (greater : Bool) (a b : Nat) : Nat × Byte :=
  if t.isFlt then
    let (x, y) := (valOf t a, valOf t b)
    let f := flagIf (x.isSig || y.isSig) fNV
    if x.isNan then (if y.isNan then nanOf t else b, f)
    else if y.isNan then (a, f)
    else (if floatBelow y x == greater then a else b, f)
  else (if decide (intOf t b < intOf t a) == greater then a else b, 0)

/-- The saturating sum and difference (R168). -/
def vSatAddSub (t : Ty) (sub : Bool) (a b : Nat) : Nat × Byte :=
  if t.isCpx then
    if sub then satParts t (re t a - re t b) (im t a - im t b) else satParts t (re t a + re t b) (im t a + im t b)
  else
    let (v, f) := satInt t (if sub then intOf t a - intOf t b else intOf t a + intOf t b)
    (encInt t.ew v, f)

/-- The bit operations of R169. -/
def vBit (op ew a b : Nat) : Nat :=
  match op with
  | 0 => a &&& b
  | 1 => a ||| b
  | 2 => a ^^^ b
  | 3 => 2 ^ ew - 1 - a
  | 4 => a * 2 ^ (b % ew) % 2 ^ ew
  | 5 => a / 2 ^ (b % ew)
  | 6 => encInt ew (sext a ew / (2 ^ (b % ew) : Nat))
  | 7 => if a = 0 then ew else ew - 1 - Nat.log2 a
  | _ => (List.range ew).foldl (fun n i => n + a / 2 ^ i % 2) 0

/-- VCMP of one element (R170): the result and its flag. -/
def vCompare (c : VCond) (t : Ty) (a b : Nat) : Bool × Byte :=
  let by3 := fun (o : Ordering) => match c with
    | .eq => o == .eq
    | .ne => o != .eq
    | .lt => o == .lt
    | .le => o != .gt
    | .gt => o == .gt
    | .ge => o != .lt
  if t.isFlt then
    let (x, y) := (valOf t a, valOf t b)
    if x.isNan || y.isNan then
      (c == .ne, flagIf (if c == .eq || c == .ne then x.isSig || y.isSig else true) fNV)
    else (by3 (x.cmp y), 0)
  else if t.isCpx then (if c == .ne then a != b else a == b, 0)
  else (by3 (compare (intOf t a) (intOf t b)), 0)

/-- VCVT of one element from type u to type t (R171). -/
def vConvert (t u : Ty) (rnd : Rnd) (sat : Bool) (a : Nat) (g : BitVec 64) : EOut :=
  if t.isCpx then
    let (x, f) := satParts t (re u a) (im u a)
    ⟨x, f, g⟩
  else roundDraw t rnd sat (valOf u a) g

/-- VCMUL of one element (R177). -/
def vCmul (t : Ty) (a b : Nat) : Nat × Byte :=
  satParts t (re t a * re t b - im t a * im t b) (re t a * im t b + im t a * re t b)

/-! ### Sums (R175, R63, R48) -/

/-- What a sum of exact values has met: the finite part at a common exponent, NaNs, infinities, and how many terms were
zeros of either sign. -/
structure FSum where
  total : Int := 0
  nan : Bool := false
  sig : Bool := false
  pos : Bool := false
  neg : Bool := false
  count : Nat := 0
  negZeros : Nat := 0
  posZeros : Nat := 0

/-- One more term, at exponent q at most its own. -/
def FSum.push (s : FSum) (q : Int) (v : FVal) : FSum :=
  let s := { s with count := s.count + 1 }
  match v with
  | .nan g => { s with nan := true, sig := s.sig || g }
  | .inf true => { s with neg := true }
  | .inf false => { s with pos := true }
  | .fin n m e _ =>
    let k : Int := (m * 2 ^ (e - q).toNat : Nat)
    { s with
      total := if n then s.total - k else s.total + k
      negZeros := if m = 0 && n then s.negZeros + 1 else s.negZeros
      posZeros := if m = 0 && !n then s.posZeros + 1 else s.posZeros }

/-- The exact sum and the flags of R60; `q` is the common exponent. -/
def FSum.value (s : FSum) (mode : Rnd) (q : Int) : FVal × Byte :=
  if s.nan || (s.pos && s.neg) then (.nan false, flagIf (s.sig || (s.pos && s.neg)) fNV)
  else if s.pos then (.inf false, 0)
  else if s.neg then (.inf true, 0)
  else if s.total ≠ 0 then (.fin (decide (s.total < 0)) s.total.natAbs q false, 0)
  else if s.count = 0 then (.zero false, 0)
  else if s.negZeros = s.count then (.zero true, 0)
  else if s.posZeros = s.count then (.zero false, 0)
  else (.zero (mode == .rdn), 0)

/-- The least exponent among finite values. -/
def leastExp (l : List FVal) : Int :=
  l.foldl (fun q v => match v with
    | .fin _ _ e _ => min q e
    | _ => q) 0

/-! ### Whole words -/

/-- The state of a pass over the elements: results in reverse order, flags, generator. -/
structure Pass where
  out : List Nat := []
  flags : Byte := 0
  gen : BitVec 64

/-- Elements 0 to n - 1: an active one receives f's result, another its old value. -/
def overElems (n : Nat) (act : Nat → Bool) (old : Nat → Nat) (f : Nat → BitVec 64 → EOut) (g : BitVec 64) : Pass :=
  (List.range n).foldl (fun p e =>
    if act e then
      let r := f e p.gen
      ⟨r.x :: p.out, p.flags ||| r.flags, r.gen⟩
    else { p with out := old e :: p.out }) { gen := g }

/-- What a word that accesses no memory writes. -/
inductive VWrite where
  | reg (d : BitVec 5) (v : Nat)
  | mask (d : BitVec 3) (v : Nat)
  | scalar (d : BitVec 5) (v : Word)
  | pred (d : BitVec 3) (v : Bool)
  | none

/-- The result of such a word: its write, the flags, and the generator. -/
structure VRes where
  write : VWrite
  flags : Byte := 0
  gen : BitVec 64

/-- The sources of a word: its tile, the window, and the captured rounding mode. -/
structure VSrc where
  t : Tile
  win : Nat
  mode : Rnd

def VSrc.v (x : VSrc) (n : BitVec 5) : Nat := (x.t.vget x.win n.toNat).toNat
def VSrc.m (x : VSrc) (n : BitVec 3) : BitVec 1024 := x.t.mget x.win n.toNat

/-- A word that writes active elements of vd from elements of va, vb and vd (R168, R169, R177). -/
def VSrc.each (x : VSrc) (d : BitVec 5) (m : BitVec 3) (t : Ty) (f : Nat → BitVec 64 → EOut) : VRes :=
  let p := overElems t.count (x.m m).getLsbD (elem t.ew (x.v d)) f x.t.gv
  ⟨.reg d (pack t.ew p.out.reverse), p.flags, p.gen⟩

/-- The same for an operation without draws. -/
def VSrc.each2 (x : VSrc) (d a b : BitVec 5) (m : BitVec 3) (t : Ty) (f : Nat → Nat → Nat × Byte) : VRes :=
  let (va, vb) := (x.v a, x.v b)
  x.each d m t fun e g =>
    let (r, fl) := f (elem t.ew va e) (elem t.ew vb e)
    ⟨r, fl, g⟩

/-- A word of two sources with draws. -/
def VSrc.each2g (x : VSrc) (d a b : BitVec 5) (m : BitVec 3) (t : Ty) (f : Nat → Nat → BitVec 64 → EOut) : VRes :=
  let (va, vb) := (x.v a, x.v b)
  x.each d m t fun e g => f (elem t.ew va e) (elem t.ew vb e) g

/-- VSQRT and the other special functions (R172). -/
def VSrc.special (x : VSrc) (member : Nat) (d a : BitVec 5) (m : BitVec 3) (t : Ty) : VRes :=
  let va := x.v a
  x.each d m t fun e g =>
    let r := Machine.special member t x.mode (elem t.ew va e) ((nextGen g).toNat % 2 ^ 32)
    ⟨r.bits, r.flags, if member = 2 && x.mode = .sr && r.inexact then nextGen g else g⟩

/-- Every element of vd receives one value (R175). -/
def VRes.spread (d : BitVec 5) (t : Ty) (r : EOut) : VRes :=
  ⟨.reg d (pack t.ew (List.replicate t.count r.x)), r.flags, r.gen⟩

/-- The active elements of va, in increasing order. -/
def VSrc.active (x : VSrc) (a : BitVec 5) (m : BitVec 3) (t : Ty) : List Nat :=
  ((List.range t.count).filter (x.m m).getLsbD).map (elem t.ew (x.v a))

/-- VREDADD (R175). -/
def VSrc.redAdd (x : VSrc) (d a : BitVec 5) (m : BitVec 3) (t : Ty) : VRes :=
  let es := x.active a m t
  VRes.spread d t (
    if t.isFlt then
      let vs := es.map (valOf t)
      let q := leastExp vs
      roundWith t x.mode ((vs.foldl (fun (s : FSum) v => s.push q v) {}).value x.mode q) x.t.gv
    else if t.isCpx then ⟨joinParts t (es.foldl (fun (s : Int) e => s + re t e) 0) (es.foldl (fun (s : Int) e => s + im t e) 0), 0, x.t.gv⟩
    else ⟨encInt t.ew (es.foldl (fun (s : Int) e => s + intOf t e) 0), 0, x.t.gv⟩)

/-- VREDMAX and VREDMIN (R175). -/
def VSrc.redPick (x : VSrc) (greater : Bool) (d a : BitVec 5) (m : BitVec 3) (t : Ty) : VRes :=
  match x.active a m t with
  | [] =>
    let v := match fmtOf t with
      | some f => f.infBits greater
      | none => encInt t.ew (if greater then intLo t else intHi t)
    VRes.spread d t ⟨v, 0, x.t.gv⟩
  | e :: es =>
    let (r, f) := es.foldl (fun (p : Nat × Byte) y =>
      let (z, h) := vPick t greater p.1 y
      (z, p.2 ||| h)) (e, flagIf (t.isFlt && (valOf t e).isSig) fNV)
    VRes.spread d t ⟨if t.isFlt && (valOf t r).isNan then nanOf t else r, f, x.t.gv⟩

/-- VREDOR and VREDAND (R175). -/
def VSrc.redBit (x : VSrc) (isOr : Bool) (d a : BitVec 5) (m : BitVec 3) (t : Ty) : VRes :=
  let r := (x.active a m t).foldl (fun r e => if isOr then r ||| e else r &&& e) (if isOr then 0 else 2 ^ t.ew - 1)
  VRes.spread d t ⟨r, 0, x.t.gv⟩

/-- The state of VSCAN after some elements: the running sums and the pass. -/
structure Scan where
  sum : FSum := {}
  r : Int := 0
  i : Int := 0
  pass : Pass

/-- VSCAN (R175): each element's exact prefix sum, rounded once. -/
def VSrc.scan (x : VSrc) (d a : BitVec 5) (m : BitVec 3) (t : Ty) : VRes :=
  let va := x.v a
  let q := if t.isFlt then leastExp ((x.active a m t).map (valOf t)) else 0
  let z := (List.range t.count).foldl (fun (z : Scan) e =>
    let y := elem t.ew va e
    let z := if !(x.m m).getLsbD e then z
      else if t.isFlt then { z with sum := z.sum.push q (valOf t y) }
      else if t.isCpx then { z with r := z.r + re t y, i := z.i + im t y }
      else { z with r := z.r + intOf t y }
    let o : EOut := if t.isFlt then roundWith t x.mode (z.sum.value x.mode q) z.pass.gen
      else ⟨if t.isCpx then joinParts t z.r z.i else encInt t.ew z.r, 0, z.pass.gen⟩
    { z with pass := ⟨o.x :: z.pass.out, z.pass.flags ||| o.flags, o.gen⟩ }) { pass := { gen := x.t.gv } }
  ⟨.reg d (pack t.ew z.pass.out.reverse), z.pass.flags, z.pass.gen⟩

/-- VCMP (R170). -/
def VSrc.compare (x : VSrc) (d : BitVec 3) (a b : BitVec 5) (m : BitVec 3) (c : VCond) (t : Ty) : VRes :=
  let (va, vb) := (x.v a, x.v b)
  let p := (List.range t.count).foldl (fun (p : List Nat × Byte) e =>
    if (x.m m).getLsbD e then
      let (r, f) := vCompare c t (elem t.ew va e) (elem t.ew vb e)
      ((if r then 1 else 0) :: p.1, p.2 ||| f)
    else (0 :: p.1, p.2)) ([], 0)
  ⟨.mask d (pack 1 p.1.reverse), p.2, x.t.gv⟩

/-- VCVT (R171). -/
def VSrc.convert (x : VSrc) (d a : BitVec 5) (u : Ty) (m : BitVec 3) (sat : Bool) (r : Rnd) (t : Ty) : VRes :=
  let va := x.v a
  let c := min t.count u.count
  let p := overElems t.count (fun e => decide (e < c) && (x.m m).getLsbD e) (elem t.ew (x.v d))
    (fun e g => vConvert t u r sat (elem u.ew va e) g) x.t.gv
  ⟨.reg d (pack t.ew p.out.reverse), p.flags, p.gen⟩

/-- A mask word (R178): bits below n computed, 0 above. -/
def VSrc.maskOp (x : VSrc) (d : BitVec 3) (t : Ty) (v : BitVec 1024) : VRes :=
  ⟨.mask d (v.toNat % 2 ^ t.count), 0, x.t.gv⟩

/-- The mask bits that MPOP, VANY and VALL read. -/
def VSrc.voted (x : VSrc) (a m : BitVec 3) (t : Ty) : List (Bool × Bool) :=
  (List.range t.count).map fun e => ((x.m a).getLsbD e, (x.m m).getLsbD e)

/-- What a vector word that accesses no memory computes, with S(a) and S(b) as captured; none of a memory word. -/
def vCompute (x : VSrc) (sa sb : Word) : Instr → Option VRes
  | .vadd d a b m t => some (x.each2g d a b m t (vAddSub t x.mode false))
  | .vsub d a b m t => some (x.each2g d a b m t (vAddSub t x.mode true))
  | .vmul d a b m t => some (x.each2g d a b m t (vMul t x.mode))
  | .vmad d a b m t =>
    let vd := x.v d
    let (va, vb) := (x.v a, x.v b)
    some (x.each d m t fun e g => vMulAdd t x.mode false (elem t.ew va e) (elem t.ew vb e) (elem t.ew vd e) g)
  | .vmsb d a b m t =>
    let vd := x.v d
    let (va, vb) := (x.v a, x.v b)
    some (x.each d m t fun e g => vMulAdd t x.mode true (elem t.ew va e) (elem t.ew vb e) (elem t.ew vd e) g)
  | .vabs d a m t => some (x.each2 d a a m t fun y _ => (vAbs t y, 0))
  | .vneg d a m t => some (x.each2 d a a m t fun y _ => (vNeg t y, 0))
  | .vmin d a b m t => some (x.each2 d a b m t (vPick t false))
  | .vmax d a b m t => some (x.each2 d a b m t (vPick t true))
  | .vadds d a b m t => some (x.each2 d a b m t (vSatAddSub t false))
  | .vsubs d a b m t => some (x.each2 d a b m t (vSatAddSub t true))
  | .vmulhi d a b m t => some (x.each2 d a b m t fun y z => (encInt t.ew (intOf t y * intOf t z / (2 ^ t.ew : Nat)), 0))
  | .vand d a b m t => some (x.each2 d a b m t fun y z => (vBit 0 t.ew y z, 0))
  | .vor d a b m t => some (x.each2 d a b m t fun y z => (vBit 1 t.ew y z, 0))
  | .vxor d a b m t => some (x.each2 d a b m t fun y z => (vBit 2 t.ew y z, 0))
  | .vnot d a m t => some (x.each2 d a a m t fun y z => (vBit 3 t.ew y z, 0))
  | .vshl d a b m t => some (x.each2 d a b m t fun y z => (vBit 4 t.ew y z, 0))
  | .vshr d a b m t => some (x.each2 d a b m t fun y z => (vBit 5 t.ew y z, 0))
  | .vsar d a b m t => some (x.each2 d a b m t fun y z => (vBit 6 t.ew y z, 0))
  | .vclz d a m t => some (x.each2 d a a m t fun y z => (vBit 7 t.ew y z, 0))
  | .vpopc d a m t => some (x.each2 d a a m t fun y z => (vBit 8 t.ew y z, 0))
  | .vcmp d a b m c t => some (x.compare d a b m c t)
  | .vcvt d a u m sat r t => some (x.convert d a u m (sat == 1) r t)
  | .vrcp d a m t => some (x.special 0 d a m t)
  | .vrsq d a m t => some (x.special 1 d a m t)
  | .vsqrt d a m t => some (x.special 2 d a m t)
  | .vexp2 d a m t => some (x.special 3 d a m t)
  | .vlog2 d a m t => some (x.special 4 d a m t)
  | .vtanh d a m t => some (x.special 5 d a m t)
  | .vsin d a m t => some (x.special 6 d a m t)
  | .vcos d a m t => some (x.special 7 d a m t)
  | .vredadd d a m t => some (x.redAdd d a m t)
  | .vredmax d a m t => some (x.redPick true d a m t)
  | .vredmin d a m t => some (x.redPick false d a m t)
  | .vredor d a m t => some (x.redBit true d a m t)
  | .vredand d a m t => some (x.redBit false d a m t)
  | .vscan d a m t => some (x.scan d a m t)
  | .vperm d a b m t =>
    let va := x.v a
    some (x.each2 d a b m t fun _ i => (elem t.ew va (i % t.count), 0))
  | .vbcast d _ m t => some (x.each d m t fun _ g => ⟨sa.toNat % 2 ^ t.ew, 0, g⟩)
  | .viota d m t =>
    let p := (List.range t.count).foldl (fun (p : List Nat × Nat) e =>
      (p.2 % 2 ^ t.ew :: p.1, if (x.m m).getLsbD e then p.2 + 1 else p.2)) ([], 0)
    some ⟨.reg d (pack t.ew p.1.reverse), 0, x.t.gv⟩
  | .vslide d a _ m t =>
    let va := x.v a
    some (x.each d m t fun e g =>
      let i : Int := e + sb.toInt
      ⟨if 0 ≤ i ∧ i < t.count then elem t.ew va i.toNat else 0, 0, g⟩)
  | .vsel d a b m t =>
    let (va, vb) := (x.v a, x.v b)
    some (x.each d 0 t fun e g => ⟨if (x.m m).getLsbD e then elem t.ew va e else elem t.ew vb e, 0, g⟩)
  | .vmovs d _ _ t =>
    let vd := x.v d
    some (x.each d 0 t fun e g => ⟨if sb.toNat = e then sa.toNat % 2 ^ t.ew else elem t.ew vd e, 0, g⟩)
  | .vext d a _ t =>
    let sg := t == .i4 || t == .i8 || t == .i16 || t == .i32
    some ⟨.scalar d (if t.count ≤ sb.toNat then 0
      else if sg then wrap64 (sext (elem t.ew (x.v a) sb.toNat) t.ew)
      else BitVec.ofNat 64 (elem t.ew (x.v a) sb.toNat)), 0, x.t.gv⟩
  | .vcmul d a b m t => some (x.each2 d a b m t (vCmul t))
  | .vconj d a m t => some (x.each2 d a a m t fun y _ => satParts t (re t y) (-im t y))
  | .mand d a b t => some (x.maskOp d t (x.m a &&& x.m b))
  | .mor d a b t => some (x.maskOp d t (x.m a ||| x.m b))
  | .mxor d a b t => some (x.maskOp d t (x.m a ^^^ x.m b))
  | .mnot d a t => some (x.maskOp d t (~~~x.m a))
  | .mpop d a m t =>
    some ⟨.scalar d (BitVec.ofNat 64 ((x.voted a m t).filter fun p => p.1 && p.2).length), 0, x.t.gv⟩
  | .vany d a m t => some ⟨.pred d ((x.voted a m t).any fun p => p.1 && p.2), 0, x.t.gv⟩
  | .vall d a m t => some ⟨.pred d ((x.voted a m t).all fun p => !p.2 || p.1), 0, x.t.gv⟩
  | _ => none

/-- The write of a word into its window or its task. -/
def Tile.applyV (t : Tile) (win task : Nat) : VWrite → Tile
  | .reg d v => t.vset win d.toNat (BitVec.ofNat 4096 v)
  | .mask d v => t.mset win d.toNat (BitVec.ofNat 1024 v)
  | .scalar d v => t.updTask task fun y => y.sset d v
  | .pred d v => t.updTask task fun y => y.pset d v
  | .none => t

/-- A rounding mode by its code; the codes 6 and 7 never stand in RMODE (R55). -/
def modeOf (c : BitVec 3) : Rnd := (Rnd.ofCode c.toNat).getD .rne

/-- A word that accesses no memory performs whole (R167): its write, its flags for the task that pushed it (R61). -/
def Tile.performV (t : Tile) (e : Entry) (r : VRes) : Tile :=
  let x := { t.applyV e.win e.task r.write with gv := r.gen }
  x.updTask e.task fun y => y.raise r.flags

/-! ### Memory words (R180-R187) -/

/-- What one element of a memory word does. -/
inductive VAcc where
  | load
  | store
  | amo (op : Nat)

/-- A memory word: its access, element type or width, register, governing mask, count, and element addresses. -/
structure VMem where
  acc : VAcc
  bytes : Nat
  nibble : Bool
  v : BitVec 5
  m : BitVec 3
  count : Nat
  addr : Nat → Word

/-- Element addresses of the three forms (R180), and of VAMO (R187). -/
def vContig (sa : Word) (ew e : Nat) : Word := sa + BitVec.ofNat 64 (e * ew / 8)
def vStride (sa x : Word) (e : Nat) : Word := sa + BitVec.ofNat 64 e * x
def vIndexed (sa : Word) (ew vx size e : Nat) : Word := sa + wrap64 (sext (elem ew vx e) ew * size)

def vMemOf (x : VSrc) (sa sb : Word) : Instr → Option VMem
  | .vld v _ m t => some ⟨.load, (t.ew + 7) / 8, t.ew = 4, v, m, t.count, vContig sa t.ew⟩
  | .vlds v _ _ m t => some ⟨.load, (t.ew + 7) / 8, t.ew = 4, v, m, t.count, vStride sa sb⟩
  | .vgath v _ i m t =>
    let vx := x.v i
    some ⟨.load, (t.ew + 7) / 8, t.ew = 4, v, m, t.count, vIndexed sa t.ew vx (t.ew / 8)⟩
  | .vst v _ m t => some ⟨.store, (t.ew + 7) / 8, t.ew = 4, v, m, t.count, vContig sa t.ew⟩
  | .vsts v _ _ m t => some ⟨.store, (t.ew + 7) / 8, t.ew = 4, v, m, t.count, vStride sa sb⟩
  | .vscat v _ i m t =>
    let vx := x.v i
    some ⟨.store, (t.ew + 7) / 8, t.ew = 4, v, m, t.count, vIndexed sa t.ew vx (t.ew / 8)⟩
  | .vamoAdd v i _ m _ w => some (amoForm 0 v i m w)
  | .vamoOr v i _ m _ w => some (amoForm 2 v i m w)
  | .vamoAnd v i _ m _ w => some (amoForm 1 v i m w)
  | .vamoXor v i _ m _ w => some (amoForm 3 v i m w)
  | .vamoMin v i _ m _ w => some (amoForm 4 v i m w)
  | .vamoMax v i _ m _ w => some (amoForm 5 v i m w)
  | _ => none
where
  amoForm (op : Nat) (v i : BitVec 5) (m : BitVec 3) (w : Wd) : VMem :=
    let vx := x.v i
    ⟨.amo op, wdBytes w, false, v, m, 512 / wdBytes w, vIndexed sa 32 vx (wdBytes w)⟩

/-- The word at the head of a queue is replaced, or has performed: its token completes. -/
def Tile.setHead (t : Tile) (e : Eng) (x : Entry) : Tile := t.setQueue e (x :: (t.queue e).drop 1)
def Tile.popDone (t : Tile) (e : Eng) (x : Entry) : Tile := (t.setQueue e ((t.queue e).drop 1)).complete x.task x.tok

/-- A fault at the head of a queue: the word stays at its progress point, and the fault waits for delivery (R184, R212, R244,
R380). -/
def State.faultHead (s : State) (t : Nat) (e : Eng) (x : Entry) (i : TrapInfo) : State :=
  s.updTile t fun u =>
    { u.setHead e { x with faulted := true } with faults := u.faults ++ [⟨e, x.task, x.uid, i, false⟩] }

/-- The bits of an element. -/
def VMem.ew (w : VMem) : Nat := if w.nibble then 4 else 8 * w.bytes

/-- A word of stores, whose requests to other tiles need not wait for one another. -/
def VMem.stores (w : VMem) : Bool :=
  match w.acc with
  | .store => true
  | _ => false

/-- The kind of its accesses. -/
def VMem.kind (w : VMem) : AccKind :=
  match w.acc with
  | .load => .read
  | .store => .write
  | .amo _ => .amo

/-- What element e does at its location, with the register's value (R181, R187). -/
def VMem.op (w : VMem) (reg e : Nat) : MemOp :=
  let n := elem w.ew reg e
  match w.acc with
  | .load => .load w.bytes false
  | .store => if w.nibble then .half n (e % 2 == 1) else .store (le w.bytes n)
  | .amo op => .amo op (if w.bytes = 8 then .d64 else .w32) (BitVec.ofNat 64 n) 0

/-- An atomic of 64 bits whose operand is an address of the PARCEL aperture (R187). -/
def VMem.escapes (w : VMem) (reg e : Nat) : Bool :=
  match w.acc with
  | .amo _ => w.bytes == 8 && Machine.escapes (BitVec.ofNat 64 (elem 64 reg e))
  | _ => false

/-- Element e has performed: a load writes it (R181). -/
def State.vPut (s : State) (t : Nat) (x : Entry) (w : VMem) (e : Nat) (bs : List Byte) : State :=
  match w.acc with
  | .load =>
    let reg := ((s.tileAt t).vget x.win w.v.toNat).toNat
    let n := if w.nibble then leNat bs / 16 ^ (e % 2) % 16 else leNat bs
    s.updTile t fun y => y.vset x.win w.v.toNat (BitVec.ofNat 4096 (reg - elem w.ew reg e * 2 ^ (w.ew * e) + n * 2 ^ (w.ew * e)))
  | _ => s

/-- Element e of a memory word, active, performs (R181, R187), or its request leaves for the tile that owns its location
(R271): then the answer says so. -/
def State.vElement (s : State) (t : Nat) (x : Entry) (w : VMem) (e : Nat) : Res (State × Bool) := do
  let a := w.addr e
  let reg := ((s.tileAt t).vget x.win w.v.toNat).toNat
  let op := w.op reg e
  let loc ← s.resolve (s.whoOf t x) a w.bytes w.kind
  if w.escapes reg e then trapAcc .parcelEscape a .amo 0
  else if elsewhere t loc then (s.sendReqAt t x.task op loc (.word x.uid e)).map fun s' => (s', true)
  else do
    let s1 ← s.admitAt t loc op.size
    let (s', bs) ← s1.perform op loc a
    .ok (s'.vPut t x w e bs, false)

/-- What a stretch of elements of a memory word comes to: the state, the next element, the elements whose requests are out, and
the stop met there. -/
structure VRun where
  s : State
  e : Nat
  out : List Nat
  stop : Option Stop := none

/-- Elements from e on, at most `n` of them (R182, R184). A load or an atomic at another tile is waited for before the next
element (log 32). -/
def State.vElements (s : State) (t : Nat) (x : Entry) (w : VMem) (e : Nat) (out : List Nat) : Nat → VRun
  | 0 => ⟨s, e, out, none⟩
  | n + 1 =>
    if w.count ≤ e then ⟨s, e, out, none⟩
    else if !((s.tileAt t).mget x.win w.m.toNat).getLsbD e then s.vElements t x w (e + 1) out n
    else match s.vElement t x w e with
      | .error st => ⟨s, e, out, some st⟩
      | .ok (s', false) => s'.vElements t x w (e + 1) out n
      | .ok (s', true) =>
        if w.stores then s'.vElements t x w (e + 1) (out ++ [e]) n else ⟨s', e, out ++ [e], some .wait⟩

/-- The V word of a push number, at the head of its queue, and its form. -/
def Tile.vWaiting (t : Tile) (uid : Nat) : Option (Entry × VMem) :=
  match t.vq.head? with
  | none => none
  | some x => if x.uid = uid then (vMemOf ⟨t, x.win, modeOf x.rmode⟩ x.a x.b x.word).map fun w => (x, w) else none

/-- The answer to the request of element e of a V word has come (R271, R311): a load writes its element, an atomic that would
have stored a PARCEL-aperture address faults there (R132, R187), a store is no longer out. -/
def State.vLand (s : State) (t : Nat) (x : Entry) (w : VMem) (e : Nat) (bs : List Byte) : State :=
  let y : Entry := { x with out := x.out.filter fun o => o != e }
  match w.acc with
  | .store => s.updTile t fun u => u.setHead .v y
  | .amo _ => if bs = [] then s.faultHead t .v y ⟨.parcelEscape, w.addr e, .amo, 0⟩
    else s.updTile t fun u => u.setHead .v { y with prog := e + 1 }
  | .load => (s.vPut t x w e bs).updTile t fun u => u.setHead .v { y with prog := e + 1 }

/-! ### Stream-buffer transfers (R188, R189) -/

/-- The buffer bytes of a register, and a register from bytes. -/
def regBytes (v : BitVec 4096) : List Byte := le 512 v.toNat
def regOf (bs : List Byte) : BitVec 4096 := BitVec.ofNat 4096 (leNat bs)

/-- VPOP, VPUSH and VPEEK fire (R188); until then they wait. -/
def State.vTransfer (s : State) (t : Nat) (x : Entry) : Res State :=
  let y := s.tileAt t
  match x.word with
  | .vpush v b =>
    match y.sbs.find b.toNat with
    | none => .error .wait
    | some q =>
      if !q.canPut 512 then .error .wait
      else .ok (s.sbPut t b.toNat q ((regBytes (y.vget x.win v.toNat)).map fun z => (z, false)))
  | .vpop v b => take v b true
  | .vpeek v b => take v b false
  | _ => .error .wait
where
  take (v : BitVec 5) (b : BitVec 4) (pop : Bool) : Res State :=
    let s := s.updTile t fun z => z.passAhead b.toNat
    match (s.tileAt t).sbs.find b.toNat with
    | none => .error .wait
    | some q =>
      if !q.canTake 512 then .error .wait
      else if s.sbPoisoned t q q.cp 512 then .error (.fatal 6)
      else
        let r := regOf (s.sbBytes t q q.cp 512)
        let s' := s.updTile t fun z => z.vset x.win v.toNat r
        .ok (if pop then s'.sbTake t b.toNat q 512 else s')

end Sys2Proof.Machine
end

