-- ==== Sys2Proof/Machine/Matrix.lean ====
section
/-! DEFINITION. Matrix.lean: what the matrix words do when they issue, when rows enter and leave the array, when a plane is
loaded and when rows are converted (R190-R213, R62-R65). -/

namespace Sys2Proof.Machine

/-! ### Planes and pairs -/

def Tile.plane (t : Tile) (p : Nat) : Plane := if p = 0 then t.plane0 else t.plane1
def Tile.setPlane (t : Tile) (p : Nat) (x : Plane) : Tile := if p = 0 then { t with plane0 := x } else { t with plane1 := x }

/-- A plane that is EMPTY (R190). -/
def Plane.cleared : Plane := {}

/-- The kind of a pair of weight format and activation type (R192). -/
def pairKind (w y : Ty) : Option AKind :=
  match w, y with
  | .e4m3, .e4m3 | .e4m3, .e5m2 | .e5m2, .e4m3 | .e5m2, .e5m2 => some .f32
  | .bf16, .bf16 | .f16, .f16 => some .f32
  | .cb4, .e4m3 | .cb4, .e5m2 | .cb4, .bf16 => some .f32
  | .i8, .i8 | .i8, .ui8 | .ui8, .i8 | .ui8, .ui8 => some .i32
  | .i4, .i4 | .i4, .i8 | .i4, .ui8 => some .i32
  | .ci8, .ci8 | .ci4, .ci4 | .ci4, .ci8 => some .cpx
  | _, _ => none

/-- Bytes of one k row of a weight record, and of the record as it is read (R191). -/
def weightRow (w : Ty) : Nat := if w.isCpx then 64 * w.ew / 8 else 128 * w.ew / 8
def recordBytes (w : Ty) (depth : Nat) : Nat := depth * weightRow w + if w = .cb4 then 320 else 0

/-- Bytes of an activation row (R196). -/
def rowBytesOf (y : Ty) (depth : Nat) : Nat := (depth * y.ew / 8 + 15) / 16 * 16

/-! ### Accumulators (R193, R194) -/

/-- A row of a slot. -/
def Tile.slotRow (t : Tile) (slot r : Nat) : BitVec 4096 := t.slots.get 0 (128 * slot + r)
def Tile.setSlotRow (t : Tile) (slot r : Nat) (v : BitVec 4096) : Tile := { t with slots := t.slots.set 0 (128 * slot + r) v }

/-- The slot reads 0 (R194). -/
def Tile.zeroSlot (t : Tile) (slot : Nat) : Tile :=
  { t with slots := t.slots.filter fun p => !(p.1 / 128 == slot) }

/-- A row for the name is inside the array (R193). -/
def Tile.inflight (t : Tile) (x : Nat) : Bool := t.rows.any fun r => r.acc == x

/-- The lowest-numbered free slot. -/
def Tile.freeAcc (t : Tile) : Option Nat := (List.range 12).find? fun k => !(t.accs.any fun p => p.2.slot == k)

/-- A binding word takes a slot for its name where the name is not VALID (R194, of an MZERO too, which R212 lists without a
fault: log 52), or traps with TADDR 0 (log 37); over another kind, with `turn`, the slot is
zeroed and changes its kind (R204, R206, R208). -/
def Tile.bindAcc (t : Tile) (x : Nat) (kind : AKind) (task : Nat) (turn : Bool) : Res Tile :=
  match t.accs.find x with
  | some a =>
    if a.kind = kind || !turn then .ok t
    else .ok { t.zeroSlot a.slot with accs := t.accs.put x { a with kind := kind } }
  | none =>
    match t.freeAcc with
    | some k =>
      let tag := ((t.accPast.find x).map AccPast.lastTag).getD 0
      .ok { t.zeroSlot k with accs := t.accs.put x ⟨k, false, kind, task, tag⟩, accPast := t.accPast.del x }
    | none => if t.accs.all fun p => p.2.owner == task then trapOf .accExhausted 0 else .error .wait

/-- MREL of a name (R206): VALID and DIRTY clear and the slot is free; the rest of the status stays for MSTAT. -/
def Tile.release (t : Tile) (x : Nat) : Tile :=
  match t.accs.find x with
  | none => t
  | some a => { t with accs := t.accs.del x, accPast := t.accPast.put x ⟨a.kind, a.owner, a.lastTag⟩ }

/-! ### Issue (R198) -/

/-- The word at the head of M leaves its queue and its token completes. -/
def Tile.doneM (t : Tile) (x : Entry) : Tile := { t with mq := t.mq.drop 1 }.complete x.task x.tok

/-- An MMUL bound for the name still has rows to enter. -/
def Tile.entering (t : Tile) (x : Nat) : Bool :=
  t.array.any fun e => match e.word with
    | .mmul _ _ a _ _ _ => a.toNat == x
    | .mmulz _ _ a _ _ _ => a.toNat == x
    | _ => false

/-- The condition of MREL, MZERO, MLDA, MRD and MRDS (R198). -/
def Tile.settled (t : Tile) (x : Nat) : Bool := !t.inflight x && !t.entering x && t.conv.isNone

/-- A row of an MMUL that waits to enter, or is inside, uses the plane. -/
def Tile.planeUsed (t : Tile) (p : Nat) : Bool :=
  (t.rows.any fun r => r.plane == p) ||
  t.array.any fun e => match e.word with
    | .mmul _ _ _ _ _ q => q.toNat == p
    | .mmulz _ _ _ _ _ q => q.toNat == p
    | _ => false

/-- The rounding mode of an MMUL (R204). -/
def mmulMode (rs : BitVec 2) (rmode : BitVec 3) : BitVec 3 :=
  match rs.toNat with
  | 0 => rmode
  | 1 => 0
  | 2 => 1
  | _ => 5

/-- An MMUL or MMULZ issues (R204): its checks, the binding, then its rows wait to enter. Its FORMAT_MISMATCH has TADDR 0
(log 37). -/
def Tile.issueMmul (t : Tile) (x : Entry) (e : BitVec 4) (acc : BitVec 4) (y : Ty) (p : BitVec 1) (z : Bool) : Res Tile :=
  let pl := t.plane p.toNat
  if t.array.isSome || pl.st = 1 then .error .wait
  else if rowCount x.b = 0 then .ok (t.doneM x)
  else if pl.st = 0 then trapOf .formatMismatch 0
  else match pairKind pl.fmt y with
    | none => trapOf .formatMismatch 0
    | some kind =>
      if ((t.sbs.find e.toNat).any fun b => b.ty != y) ||
          (!z && (t.accs.find acc.toNat).any fun a => a.kind != kind) then trapOf .formatMismatch 0
      else do
        let t' ← t.bindAcc acc.toNat kind x.task z
        .ok { t' with mq := t'.mq.drop 1, array := some x }

/-- The status that MSTAT reads (R207). -/
def Tile.mstat (t : Tile) (x : Nat) (plane : Bool) : Word :=
  BitVec.ofNat 64 (
    if plane then
      let p := t.plane x
      if p.st = 0 then 0 else p.st * 2 ^ 12 + p.fmt.code * 2 ^ 8 + p.depth
    else
      let free := 12 - t.accs.length
      match t.accs.find x with
      | none =>
        match t.accPast.find x with
        | none => free * 2 ^ 28
        | some a => a.lastTag.toNat * 2 ^ 32 + free * 2 ^ 28 + a.owner * 2 ^ 18 + a.kind.code * 2 ^ 16
      | some a =>
        a.lastTag.toNat * 2 ^ 32 + free * 2 ^ 28 + a.slot * 2 ^ 20 + a.owner * 2 ^ 18 + a.kind.code * 2 ^ 16 +
          (if t.inflight x then 4 else 0) + (if a.dirty then 2 else 0) + 1)

/-- Types that MRD admits for a kind (R209). -/
def mrdAdmits (k : AKind) (y : Ty) : Bool :=
  match k with
  | .cpx => y == .i32 || y.isCpx
  | _ => !y.isCpx && y != .cb4

/-- The rows that an MRD or MRDS converts, as they stand when it issues: the words pushed before it have written, and none
pushed after it has (R198, R211). -/
def Tile.readout (t : Tile) (x : Entry) (acc : Nat) : Readout :=
  match t.accs.find acc with
  | none => ⟨none, []⟩
  | some a => ⟨some a.kind, (List.range (rowCount x.b)).map fun i => t.slotRow a.slot (rowFirst x.b + i)⟩

/-- An MRD or MRDS issues (R209). -/
def Tile.issueMrd (t : Tile) (x : Entry) (acc : BitVec 4) (y : Ty) : Res Tile :=
  if !t.settled acc.toNat then .error .wait
  else if rowCount x.b = 0 then .ok (t.doneM x)
  else
    let r := t.readout x acc.toNat
    if r.kind.any fun k => !mrdAdmits k y then trapOf .formatMismatch 0
    else .ok { t with mq := t.mq.drop 1, conv := some { x with acc := some r } }

/-- A row has left into the name after an MRD or MRDS of it issued: that word no longer clears DIRTY (R193, R209). -/
def Entry.crossed (x : Entry) (acc : Nat) : Entry :=
  match x.word with
  | .mrd _ _ _ a _ _ => if a.toNat = acc then { x with stage := 1 } else x
  | .mrds _ _ _ a _ _ => if a.toNat = acc then { x with stage := 1 } else x
  | _ => x

/-- MSWP (R202): rows inside the array keep the weights they entered with. -/
def Tile.swapPlanes (t : Tile) : Tile :=
  { t with
    plane0 := t.plane1
    plane1 := t.plane0
    rows := t.rows.map fun r => ({ r with plane := 1 - r.plane } : Row) }

/-- A replay of a plane's REC, which is no push of a task, is loading: no saved M word performs before it is done (R213). -/
def Tile.replaying (t : Tile) : Bool := (t.plane0.load.toList ++ t.plane1.load.toList).any fun e => e.tok.isNone

/-- A replay is loading or has still to issue: no row enters and none is converted (R213). -/
def Tile.replayDue (t : Tile) : Bool := t.replaying || t.mq.any fun e => e.tok.isNone

/-- The head of the M queue issues (R198). An MLDW at issue changes STATE and REC of its plane alone (R200). -/
def Tile.issueM (t : Tile) (x : Entry) : Res Tile :=
  if t.replaying then .error .wait
  else match x.word with
  | .mldw _ _ _ p =>
    if t.plane0.load.isSome || t.plane1.load.isSome || (x.tok.isSome && t.planeUsed p.toNat) then .error .wait
    else .ok ({ t with mq := t.mq.drop 1 }.setPlane p.toNat { t.plane p.toNat with st := 1, replay := none, load := some x })
  | .mswp =>
    if t.plane0.load.isSome || t.plane1.load.isSome || t.array.isSome then .error .wait
    else .ok (t.swapPlanes.doneM x)
  | .mtag _ => if t.array.isSome then .error .wait else .ok ({ t with rtag := BitVec.ofNat 16 x.a.toNat }.doneM x)
  | .mmul e _ acc y _ p => t.issueMmul x e acc y p false
  | .mmulz e _ acc y _ p => t.issueMmul x e acc y p true
  | .mrel acc => if t.settled acc.toNat then .ok ((t.release acc.toNat).doneM x) else .error .wait
  | .mzero acc k =>
    if !t.settled acc.toNat then .error .wait
    else do
      let t' ← t.bindAcc acc.toNat k x.task true
      match t'.accs.find acc.toNat with
      | none => .error .wait
      | some a => .ok ({ t'.zeroSlot a.slot with accs := t'.accs.put acc.toNat { a with dirty := true } }.doneM x)
  | .mstat d n p => .ok ((t.updTask x.task fun y => y.sset d (t.mstat n.toNat (p == 1))).doneM x)
  | .mlda e _ acc k =>
    if x.stage ≠ 0 || !t.settled acc.toNat then .error .wait
    else if rowCount x.b = 0 then .ok (t.doneM x)
    else if (t.sbs.find e.toNat).any fun b => b.ty != (if k = .f32 then .f32 else .i32) then trapOf .formatMismatch 0
    else do
      let t' ← t.bindAcc acc.toNat k x.task true
      .ok { t' with mq := { x with stage := 1 } :: t'.mq.drop 1 }
  | .mrd _ _ _ acc y _ => t.issueMrd x acc y
  | .mrds _ _ _ acc y _ => t.issueMrd x acc y
  | _ => .error .wait

/-! ### Rows enter (R204) -/

/-- An activation row enters the array from its buffer (R196, R197, R204). -/
def State.enterRow (s : State) (t : Nat) (x : Entry) (e acc : Nat) (y : Ty) (rs : BitVec 2) (p : Nat) (z : Bool) : Res State :=
  let s := s.updTile t fun v => v.passAhead e
  let u := s.tileAt t
  match u.sbs.find e with
  | none => .error .wait
  | some b =>
    let n := rowBytesOf y (u.plane p).depth
    if u.replayDue || (u.plane p).st ≠ 2 || !b.canTake n then .error .wait
    else if s.sbPoisoned t b b.cp n then .error (.fatal 6)
    else
      let final := decide (rowCount x.b ≤ x.prog + 1)
      let r : Row :=
        { plane := p, acc := acc, row := rowFirst x.b + x.prog, tag := u.rtag, act := s.sbBytes t b b.cp n, ty := y,
          rm := mmulMode rs x.rmode, zero := z, task := x.task, last := if final then x.tok else none }
      .ok ((s.sbTake t e b n).updTile t fun v =>
        { v with
          rtag := v.rtag + 1
          rows := v.rows ++ [r]
          array := if final then none else some { x with prog := x.prog + 1 } })

/-! ### Rows leave (R62-R65) -/

/-- The weights of group g in column j, with the activation elements they meet. -/
def groupPairs (pl : Plane) (y : Ty) (act : Nat) (rows : List Nat) (g j : Nat) : List (Nat × Nat) :=
  ((List.range 64).filter fun i => decide (64 * g + i < pl.depth)).map fun i =>
    (elem y.ew act (64 * g + i), elem pl.fmt.ew (rows.getD (64 * g + i) 0) j)

/-- A weight as an exact value: a level of the codebook, or an element. -/
def weightVal (w : Ty) (x : Nat) : FVal := if w = .cb4 then cb4Val x else valOf w x

/-- The exact sum G of a floating-point group with its scales (R63), and the flags. -/
def groupSum (pl : Plane) (y : Ty) (mode : Rnd) (ps : List (Nat × Nat)) (g j : Nat) : FVal × Byte :=
  let ms := ps.map fun p => (valOf y p.1).mul (weightVal pl.fmt p.2)
  let fl := ms.foldl (fun f m => f ||| m.2) 0
  let vs := ms.map Prod.fst
  let q := leastExp vs
  let (v, f) := (vs.foldl (fun (s : FSum) v => s.push q v) {}).value mode q
  if pl.fmt = .cb4 then
    let base := pl.depth * 64
    let sc := (pl.bytes.getD (base + 2 * j + g) 0).toNat
    let s := leNat ((pl.bytes.drop (base + 256)).take 4)
    let (r, h) := (v.mul (.fin false (sc + 1) (-8) false)).1.mul (valOf .f32 s)
    (r, fl ||| f ||| h)
  else (v, fl ||| f)

/-- One group added into the 128 elements of a row (R62-R64): elements, flags, and generator. -/
def addGroup (pl : Plane) (y : Ty) (kind : AKind) (mode : Rnd) (act : Nat) (rows : List Nat) (g : Nat) (p : List Nat × Byte × BitVec 64) :
    List Nat × Byte × BitVec 64 :=
  let old := p.1
  match kind with
  | .f32 =>
    (List.range 128).foldl (fun (q : List Nat × Byte × BitVec 64) j =>
      let (v, f) := groupSum pl y mode (groupPairs pl y act rows g j) g j
      let r := roundWith .f32 mode ((valOf .f32 (old.getD j 0)).add mode v) q.2.2
      (q.1 ++ [r.x], q.2.1 ||| f ||| r.flags, r.gen)) ([], p.2.1, p.2.2)
  | .i32 =>
    (List.range 128).foldl (fun (q : List Nat × Byte × BitVec 64) j =>
      let v := (groupPairs pl y act rows g j).foldl (fun (s : Int) z => s + intOf y z.1 * intOf pl.fmt z.2) 0
      let (r, f) := satInt .i32 (sext (old.getD j 0) 32 + v)
      (q.1 ++ [encInt 32 r], q.2.1 ||| flagIf (f != 0) fACC, q.2.2)) ([], p.2.1, p.2.2)
  | .cpx =>
    (List.range 64).foldl (fun (q : List Nat × Byte × BitVec 64) j =>
      let ps := groupPairs pl y act rows g j
      let w := pl.fmt
      let a := ps.foldl (fun (s : Int) z => s + re y z.1 * re w z.2 - im y z.1 * im w z.2) 0
      let b := ps.foldl (fun (s : Int) z => s + re y z.1 * im w z.2 + im y z.1 * re w z.2) 0
      let (r, f) := satInt .i32 (sext (old.getD (2 * j) 0) 32 + a)
      let (i, h) := satInt .i32 (sext (old.getD (2 * j + 1) 0) 32 + b)
      (q.1 ++ [encInt 32 r, encInt 32 i], q.2.1 ||| flagIf (f != 0 || h != 0) fACC, q.2.2)) ([], p.2.1, p.2.2)

/-- The k rows of a plane's weights, each as one number. -/
def Plane.rows (p : Plane) : List Nat :=
  (List.range p.depth).map fun k => leNat ((p.bytes.drop (k * weightRow p.fmt)).take (weightRow p.fmt))

/-- The oldest row leaves the array into its accumulator (R197, R204), added as the pair of its weights and its activations
says, whatever kind the name has by then: its element values, flags and draws. -/
def Tile.rowExit (t : Tile) : Res Tile :=
  match t.rows with
  | [] => .error .wait
  | r :: rest =>
    match t.accs.find r.acc with
    | none => .error .wait
    | some a =>
      let pl := t.plane r.plane
      let old := (t.slotRow a.slot r.row).toNat
      let start := if r.zero then List.replicate 128 0 else (List.range 128).map (elem 32 old)
      let rows := pl.rows
      let act := leNat r.act
      let kind := (pairKind pl.fmt r.ty).getD a.kind
      let one := addGroup pl r.ty kind (modeOf r.rm) act rows 0 (start, 0, t.gm)
      let two := if 64 < pl.depth then addGroup pl r.ty kind (modeOf r.rm) act rows 1 one else one
      let t := { t.setSlotRow a.slot r.row (BitVec.ofNat 4096 (pack 32 two.1)) with
        rows := rest
        gm := two.2.2
        conv := t.conv.map fun (x : Entry) => x.crossed r.acc
        accs := t.accs.put r.acc { a with dirty := true, lastTag := r.tag } }
      .ok ((t.updTask r.task fun y => y.raise two.2.1).complete r.task r.last)

/-! ### Planes are loaded (R200) -/

/-- At most `lim` more bytes of a record at `a`, of which `got` have been read: each of its 64-byte pieces is read as R119 says, once
a slice port admits it (R305); the first argument bounds the pieces. A record of CB4 is read with the bytes that pad its last piece,
and poison in these is consumed too (log 88). -/
def State.readPieces (s : State) (w : Who) (a : Word) : Nat → Nat → List Byte → Res (State × List Byte)
  | 0, _, got => .ok (s, got)
  | n + 1, lim, got =>
    let o := got.length % 64
    let k := min lim (64 - o)
    if k = 0 then .ok (s, got)
    else do
      let loc ← s.resolve w (a + BitVec.ofNat 64 (got.length - o)) 64 .read
      if s.poisoned (loc + o) k then .error (.fatal 6)
      else do
        let s' ← s.admitAt w.tile (loc + o) k
        s'.readPieces w a n (lim - k) (got ++ s.bytesAt (loc + o) k)

/-- At most `lim` more bytes of the record of an MLDW are read, after those that it holds (R200, R246). -/
def State.planeRead (s : State) (t : Nat) (x : Entry) (y : Ty) (depth lim : Nat) : Res (State × List Byte) :=
  let a := x.a
  if a.toNat % 64 ≠ 0 then trapAcc .misaligned a .read 0
  else if !(canonical a || spaceOf a == 0x800 || spaceOf a == 0x803) then trapAcc .apertureMiss a .read 0
  else
    let left := recordBytes y depth - x.inb.length
    s.readPieces (s.whoOf t x) a (left / 64 + 2) (min lim left) (rawBytes x.inb)

/-- The plane that loads takes in at most `lim` bytes of its record; with the last it becomes LOADED and REC is recorded, with the
task for which the word is performed (log 77). A fault leaves it EMPTY and its word at the head of M (R212). -/
def State.planeLoad (s : State) (t p lim : Nat) : Res State :=
  match ((s.tileAt t).plane p).load with
  | none => .error .wait
  | some x =>
    match x.word with
    | .mldw _ y n _ =>
      let depth := 8 * (n.toNat + 1)
      match s.planeRead t x y depth lim with
      | .ok (s', bs) =>
        .ok (s'.updTile t fun u =>
          if bs.length < recordBytes y depth then
            u.setPlane p { u.plane p with load := some { x with inb := clean bs } }
          else
            (u.setPlane p { st := 2, fmt := y, depth := depth, bytes := bs, replay := some (x.a, y, depth, x.task) }).complete x.task x.tok)
      | .error (.trap i) =>
        .ok (s.updTile t fun u =>
          { u.setPlane p Plane.cleared with
            mq := { x with faulted := true, inb := [] } :: u.mq
            faults := u.faults ++ [⟨.m, x.task, x.uid, i, false⟩] })
      | .error e => .error e
    | _ => .error .wait

/-! ### Accumulator rows from a buffer, and rows converted (R208-R210) -/

/-- MLDA takes its next row (R208); a saved one not while a replay loads (R213). -/
def State.mldaRow (s : State) (t : Nat) : Res State :=
  let u := s.tileAt t
  match u.mq with
  | [] => .error .wait
  | x :: rest =>
    match x.word with
    | .mlda e _ acc _ =>
      let s := s.updTile t fun v => v.passAhead e.toNat
      let u := s.tileAt t
      match u.sbs.find e.toNat, u.accs.find acc.toNat with
      | some b, some a =>
        if x.stage = 0 || u.replaying || !b.canTake 512 then .error .wait
        else if s.sbPoisoned t b b.cp 512 then .error (.fatal 6)
        else
          let v := regOf (s.sbBytes t b b.cp 512)
          .ok ((s.sbTake t e.toNat b 512).updTile t fun z =>
            let z := { z.setSlotRow a.slot (rowFirst x.b + x.prog) v with accs := z.accs.put acc.toNat { a with dirty := true } }
            if rowCount x.b ≤ x.prog + 1 then z.doneM x else { z with mq := { x with prog := x.prog + 1 } :: rest })
      | _, _ => .error .wait
    | _ => .error .wait

/-- The state of a row under conversion: output elements, the tile, flags. -/
structure Conv where
  s : State
  out : List Nat := []
  flags : Byte := 0

/-- One element or part is converted (R209): its value, its overflow token, its flags. -/
def Conv.elem (c : Conv) (t : Nat) (y : Ty) (mode : Rnd) (scale : Option Nat) (tokens : Option Nat) (kind : AKind)
    (acc row : Nat) (i bits32 : Nat) : Conv :=
  let u := c.s.tileAt t
  let base := if kind = .f32 then valOf .f32 bits32 else .ofInt (sext bits32 32)
  let (v, f0) := match scale with
    | none => (base, 0)
    | some z => base.mul (valOf .f32 z)
  let r := roundDraw y mode true v u.gm
  let fl := r.flags ||| f0
  let s := c.s.updTile t fun w => { w with gm := r.gen }
  let flown := (r.flags &&& (fOF ||| fSAT)) != 0
  match tokens with
  | none => ⟨s, r.x :: c.out, c.flags ||| fl⟩
  | some k =>
    if !flown then ⟨s, r.x :: c.out, c.flags ||| fl⟩
    else
      let col := if kind = .cpx then i / 2 else i
      let tok := le 4 bits32 ++ [BitVec.ofNat 8 row, BitVec.ofNat 8 col, if kind = .cpx && i % 2 = 1 then 1 else 0,
        BitVec.ofNat 8 (y.code + 16 * acc)]
      match u.sbs.find k with
      | none => ⟨s, r.x :: c.out, c.flags ||| fl ||| fCVT⟩
      | some b =>
        if b.canPut 8 then ⟨s.sbPut t k b (tok.map fun z => (z, false)), r.x :: c.out, c.flags ||| fl⟩
        else ⟨s, r.x :: c.out, c.flags ||| fl ||| fCVT⟩

/-- The next row of the word in the converter (R209, R210). A name that is not VALID reads as zeros, which the scale of an MRDS
multiplies as it does any element, with the flags of that product (log 51). -/
def State.convRow (s : State) (t : Nat) : Res State :=
  let u := s.tileAt t
  match u.conv with
  | none => .error .wait
  | some x =>
    match x.word with
    | .mrd o e _ acc y r => go x o e acc y r none
    | .mrds o e _ acc y r => go x o e acc y r (some (x.b.toNat / 2 ^ 32))
    | _ => .error .wait
where
  go (x : Entry) (o : BitVec 1) (e acc : BitVec 4) (y : Ty) (r : Rnd) (scale : Option Nat) : Res State :=
    let u := s.tileAt t
    match u.sbs.find e.toNat with
    | none => .error .wait
    | some b =>
      let cols := if y.isCpx then 64 else 128
      let n := cols * y.ew / 8
      if u.replayDue || !b.canPut n then .error .wait
      else
        let row := rowFirst x.b + x.prog
        let rd := x.acc.getD ⟨none, []⟩
        let tok := if o = 1 then some ((e.toNat + 1) % 16) else none
        let old := (rd.rows.getD x.prog 0).toNat
        let kind := rd.kind.getD (if y.isCpx then .cpx else .f32)
        let c := (List.range 128).foldl (fun (c : Conv) i =>
          c.elem t y r scale tok kind acc.toNat row i (elem 32 old i)) { s := s }
        let bytes := le n (pack (if y.isCpx then partBits y else y.ew) c.out.reverse)
        match (c.s.tileAt t).sbs.find e.toNat with
        | none => .error .wait
        | some b' =>
          let s' := (c.s.sbPut t e.toNat b' (bytes.map fun z => (z, false))).updTile t fun w =>
            w.updTask x.task fun y => y.raise c.flags
          if rowCount x.b ≤ x.prog + 1 then
            .ok (s'.updTile t fun w =>
              let w := { w with conv := none }.complete x.task x.tok
              if rowCount x.b = 128 && rd.kind.isSome && x.stage = 0 then
                match w.accs.find acc.toNat with
                | none => w
                | some a => { w with accs := w.accs.put acc.toNat { a with dirty := false } }
              else w)
          else .ok (s'.updTile t fun w => { w with conv := some { x with prog := x.prog + 1 } })

end Sys2Proof.Machine
end

