-- ==== Sys2Proof/Machine/Copy.lean ====
section
/-! DEFINITION. Copy.lean: what the words of the C queue do (R214-R233, R244): definitions, transfers piece by piece, transforms
block by block, and the counter add. -/

namespace Sys2Proof.Machine

/-- A C word at the head of its queue has performed: it leaves and its token completes (R215); the expander keeps nothing
beyond it. -/
def Tile.doneC (t : Tile) (x : Entry) : Tile :=
  { t with
    cq := t.cq.drop 1
    sts := t.sts.map fun (kv : Nat × AStream) => (kv.1, ({ kv.2 with kept := [] } : AStream)) }.complete x.task x.tok

/-- The head of the C queue is replaced. -/
def Tile.headC (t : Tile) (x : Entry) : Tile := { t with cq := x :: t.cq.drop 1 }

/-- The trap of an operand or record outside its limits (R216). -/
def illegalAt {α : Type} (a : Word) : Res α := trapOf .illegalEncoding a

/-! ### Definitions (R217-R223) -/

/-- A 64-byte definition record, read as R219 says, once a slice port admits it (R305). -/
def State.record (s : State) (w : Who) (a : Word) : Res (State × List Byte) :=
  if a.toNat % 64 ≠ 0 then trapAcc .misaligned a .read 0
  else if !(canonical a || spaceOf a == 0x800 || spaceOf a == 0x803) then trapAcc .apertureMiss a .read 0
  else (s.resolve w a 64 .read).bind fun l => (s.admitAt w.tile l 64).map fun s' => (s', s.bytesAt l 64)

def field (b : List Byte) (o n : Nat) : Nat := leNat ((b.drop o).take n)

/-- SBDEF (R217, R219). -/
def State.sbdef (s : State) (t : Nat) (x : Entry) (n : Nat) : Res State := do
  let (s, r) ← s.record (s.whoOf t x) x.a
  let size := field r 4 4
  let fire := field r 8 4
  match Ty.ofCode (field r 0 1) with
  | none => illegalAt x.a
  | some ty =>
    if field r 1 1 ≠ 0 || field r 12 52 ≠ 0 || size % 64 ≠ 0 || size < 64 || size > Config.sramBytes ||
        fire = 0 || fire > size * 8 / ty.ew then illegalAt x.a
    else if x.b.toNat % 64 ≠ 0 then trapOf .misaligned x.b
    else if x.b.toNat + size > Config.sramBytes then trapOf .apertureMiss x.b
    else .ok (s.updTile t fun u =>
      (u.setSb n { ty := ty, qthr := BitVec.ofNat 16 (field r 2 2), size := size, fire := fire, base := x.b.toNat }).doneC x)

/-- The record of an address stream, checked (R220). -/
def streamOf (r : List Byte) (base : Word) : Option AStream :=
  let ext := (List.range 5).map fun d => field r (12 + 4 * d) 4
  let stride := (List.range 5).map fun d => sext (field r (32 + 4 * d) 4) 32
  let nd := field r 1 1
  let ch := field r 8 4
  let x : AStream :=
    { tensor := field r 0 1 == 1, ndim := nd, qthr := BitVec.ofNat 16 (field r 2 2), entry := field r 4 2, chunk := ch,
      ext := ext, stride := stride, base := base }
  if field r 6 2 ≠ 0 || field r 52 12 ≠ 0 then none
  else if field r 0 1 = 0 then
    if 1 ≤ nd && nd ≤ 5 && x.entry = 0 && 1 ≤ ch && ch ≤ 65536 && (ext.drop nd).all (· == 0) && (stride.drop nd).all (· == 0)
    then some x else none
  else if field r 0 1 = 1 then
    if nd = 0 && ch = 0 && x.entry ≤ 63 && ext.all (· == 0) && stride.all (· == 0) then some x else none
  else none

/-- STDEF (R220-R222): a tensor id goes through the cast-on tensor map. -/
def State.stdef (s : State) (t : Nat) (x : Entry) (n : Nat) : Res State := do
  let w := s.whoOf t x
  let (s, r) ← s.record w x.a
  match streamOf r x.b with
  | none => illegalAt x.a
  | some d =>
    if !d.tensor then .ok (s.updTile t fun u => (u.setStream n d).doneC x)
    else if x.b ≠ 0 then illegalAt x.b
    else
      let slot := ((s.tileAt t).node.map Prod.fst).getD 0
      if ((s.ctxAt w.ctx).tmap.get [] slot).contains d.entry then
        .ok (s.updTile t fun u => (u.setStream n { d with base := 0, entry := 64 * slot + d.entry }).doneC x)
      else trapOf .tensorBounds (BitVec.ofNat 64 d.entry)

/-- STDIM, STPOS and STRST (R223). -/
def AStream.withDim (d : AStream) (sa sb : Word) : AStream :=
  let i := sa.toNat % 8
  { d with
    ext := d.ext.set i (sa.toNat / 2 ^ 32)
    stride := d.stride.set i (sext sb.toNat 32)
    ndim := max d.ndim (i + 1)
    k := 0
    o := 0
    kept := [] }
def AStream.atPos (d : AStream) (k : Nat) : AStream := { d with k := k, o := 0, kept := [] }

def State.streamWord (s : State) (t : Nat) (x : Entry) (n : Nat) (f : AStream → Res AStream) : Res State :=
  match (s.tileAt t).stream n with
  | none => trapOf .tensorBounds 0
  | some d => do
    let d' ← f d
    .ok (s.updTile t fun u => (u.setStream n d').doneC x)

/-! ### Endpoints (R214, R225) -/

/-- Region and collar port of fp i of a tile (R287). -/
def portIdx (t i : Nat) : Nat := 4 * quarterOf t + i
def Region.port (r : Region) (p : Nat) : Port := r.ports.get {} p
def Region.setPort (r : Region) (p : Nat) (x : Port) : Region := { r with ports := r.ports.set {} p x }

/-- A port carries beats from the tile to the region (R287). -/
def isInput (p : Nat) : Bool := decide (p % 4 < 2)

/-- The oldest frame leaves an output port; beats that a save moved out of the FIFO come before new ones (R300). -/
def Port.takeFrame (p : Port) : Port :=
  let all := (p.fifo ++ p.spill).drop 16
  { p with fifo := all.take 64, spill := all.drop 64, taken := p.taken + 16 }

/-- A port is bound (R294). -/
def Region.bound (r : Region) (p : Nat) : Bool := r.live.any fun i => i.ports.getLsbD p && r.mask.getLsbD p

/-- The port fp i of a tile, if it is bound. -/
def State.boundPort (s : State) (t i : Nat) : Res Port :=
  let r := s.regionAt (blockOf t)
  if r.bound (portIdx t i) then .ok (r.port (portIdx t i)) else trapOf .portUnbound 0
def State.putPort (s : State) (t i : Nat) (p : Port) : State :=
  s.updRegion (blockOf t) fun r => r.setPort (portIdx t i) p

/-! ### The source of a piece (R218, R224, R225, R274) -/

/-- Source bytes at some places are taken in: a run of the tile's own SRAM or of shared memory at once, a run in another tile's
SRAM by a request, whose answer lands at `dest` (R271). `moved` says that some have been, the last result that a request is
out. -/
def State.gatherIn (s : State) (t : Nat) (x : Entry) (dest : Nat → Dest) (moved : Bool) :
    Nat → List (Option Nat × Byte) → Res (State × Entry × Bool)
  | 0, _ => .ok (s, x, false)
  | _, [] => .ok (s, x, false)
  | f + 1, (none, m) :: ps =>
    let n := runOf ((none, m) :: ps)
    s.gatherIn t { x with inb := x.inb ++ List.replicate n (0, false) } dest moved f (((none, m) :: ps).drop n)
  | f + 1, (some l, m) :: ps =>
    let n := min 64 (runOf ((some l, m) :: ps))
    let r := if elsewhere t l then
        (s.sendReqAt t x.task (.move n) l (dest x.inb.length)).map fun s' => (s', x, true)
      else (s.admitAt t l n).map fun s' =>
        (s', { x with inb := x.inb ++ (s.marked l n).map fun b => (b.1 &&& m, b.2) }, false)
    match r with
    | .error e => if moved then .ok (s, x, false) else .error e
    | .ok (s', x', out) => if out then .ok (s', x', out) else s'.gatherIn t x' dest true f (((some l, m) :: ps).drop n)

/-- The word takes in source bytes, of a stream at most `lim` (R246), until it holds `need`, of the `total` that it still needs: a
stream as R119 says, through the expander where it is compressed; a port by whole frames; a buffer by requests of its fire bytes, or
of what is still needed when that is less (R274). CP moves with the pieces that these bytes make (R224, R244), and passes what is
left of one request where the next must wait (log 61). -/
def State.srcFill (s : State) (t : Nat) (x : Entry) (c need total lim : Nat) : Res (State × Entry) :=
  let u := s.tileAt t
  if need ≤ x.inb.length then .ok (s, x)
  else if x.out ≠ [] then .error .wait
  else if c < 8 then
    match u.stream c with
    | none => trapOf .tensorBounds 0
    | some d =>
      let w := s.whoOf t x
      let e := s.streamEnt w d
      if d.packed e then
        match d.needs e need with
        | some k => (s.keepChunk w c d e k x.raw lim).map fun r => (r.1, { x with raw := r.2 })
        | none => (d.keptBytes e 0 need).map fun bs => (s, { x with inb := bs })
      else do
        let ps ← s.streamLocs w d e .read x.inb.length (min lim (need - x.inb.length))
        (s.gatherIn t x (.word x.uid ·) false need ps).map fun r =>
          (r.1, if r.2.2 then { r.2.1 with out := [r.2.1.inb.length] } else r.2.1)
  else if c < 16 then do
    let p ← s.boundPort t (c - 8)
    if p.fifo.length < 16 then .error .wait
    else
      let bs := (p.fifo.take 16).flatMap fun b => le 32 b.data.toNat
      .ok (s.putPort t (c - 8) p.takeFrame, { x with inb := x.inb ++ clean bs, own := x.own + 512 })
  else
    match u.sbs.find (c - 16) with
    | none => .error .wait
    | some b =>
      let n := min b.fireBytes (total - x.inb.length)
      if b.fill < x.ahead + n then
        if x.ahead = 0 then .error .wait
        else .ok (s.updTile t fun u => u.setSb (c - 16) { b with cp := b.cp + BitVec.ofNat 32 x.ahead },
          { x.passes b x.ahead with own := x.inb.length })
      else
        let at_ := fun i => b.loc t b.cp (x.ahead + i)
        .ok (s, { x with inb := x.inb ++ (List.range n).map fun i => (s.byte (at_ i), s.poison.contains (at_ i)) })

/-- The mark keeps what the word uses up of a source that is no stream. -/
def Entry.usedUp (x : Entry) (src n : Nat) : Entry :=
  if src < 8 then x else { x with mark := x.mark.map fun m => { m with used := m.used ++ x.inb.take n } }

/-- A piece has used up n source bytes: they leave the word, and its stream, or CP of its buffer, moves on (R224). -/
def State.srcUse (s : State) (t : Nat) (x : Entry) (c n : Nat) : State × Entry :=
  let y : Entry := { x.usedUp c n with inb := x.inb.drop n, own := x.own - n }
  if c < 8 then
    (s.updTile t fun u => match u.stream c with
      | none => u
      | some d =>
        let d' := d.forward (s.streamEnt (s.whoOf t x) d) n
        u.setStream c { d' with kept := d'.kept.filter fun p => decide (d'.k ≤ p.1) }, y)
  else match if c < 16 || n ≤ x.own then none else (s.tileAt t).sbs.find (c - 16) with
    | none => (s, y)
    | some b => (s.sbTake t (c - 16) b (n - x.own), y.passes b (n - x.own))

/-- How many of the next bytes of a destination stream fall in one 64-byte block of addresses, at most n (R224). -/
def AStream.run (d : AStream) (e : TEnt) (block : Option Nat) : Nat → Nat → Nat
  | _, 0 => 0
  | i, n + 1 =>
    match d.posOf e i with
    | .error _ => if i = 0 then 1 else 0
    | .ok (k, o) =>
      let (a, m) := d.byteAt e k o
      let b := a.toNat / 64
      if m = 0 then 1 + d.run e block (i + 1) n
      else match block with
        | none => 1 + d.run e (some b) (i + 1) n
        | some c => if b = c then 1 + d.run e block (i + 1) n else 0

/-- The bytes of the next piece of a transfer that still has n to move (R224, R274): into a compressed stream, a chunk
(R284). -/
def State.pieceLen (s : State) (t : Nat) (x : Entry) (src dst n : Nat) : Nat :=
  let u := s.tileAt t
  if dst < 8 then
    match u.stream dst with
    | none => min n 64
    | some d =>
      let e := s.streamEnt (s.whoOf t x) d
      if d.packed e then min n 4096 else d.run e none 0 (min n 64)
  else if dst < 16 then min n 512
  else if 8 ≤ src && src < 16 then min n 512
  else
    match u.sbs.find (dst - 16) with
    | none => min n 64
    | some b => min n (64 - b.pp.toNat % 64)

/-- Beats of one frame, padded with zero bytes (R225, R289). -/
def frameBeats (bs : List PByte) : List Beat :=
  let full := bs ++ List.replicate (512 - bs.length) (0, false)
  (List.range 16).map fun i =>
    let b := (full.drop (32 * i)).take 32
    ⟨BitVec.ofNat 256 (leNat (rawBytes b)), i == 0, i == 15, b.any Prod.snd⟩

/-- Bytes of a piece go to their places: a run of the tile's own SRAM or of shared memory at once, a run in another tile's SRAM
by a request, which is acknowledged (R271, R308). Bits that do not exist stay. `moved` says that some have gone. -/
def State.putOut (s : State) (t : Nat) (x : Entry) (moved : Bool) : Nat → List (Option Nat × Byte) → List PByte → Res (State × Entry)
  | 0, _, _ => .ok (s, x)
  | _, [], _ => .ok (s, x)
  | f + 1, (none, m) :: ps, bs =>
    let n := runOf ((none, m) :: ps)
    s.putOut t { x with put := x.put + n } moved f (((none, m) :: ps).drop n) (bs.drop n)
  | f + 1, (some l, m) :: ps, bs =>
    let n := min 64 (runOf ((some l, m) :: ps))
    let run := bs.take n
    let r := if elsewhere t l then
        let op : MemOp := if m = 0xFF then .put run else .half (leNat (rawBytes run)) false (run.any Prod.snd)
        (s.sendReqAt t x.task op l (.word x.uid (x.prog + x.put))).map fun s' =>
          (s', { x with put := x.put + n, out := x.out ++ [x.prog + x.put] })
      else (s.admitAt t l n).map fun s' =>
        (s'.writeLocs (((some l, m) :: ps).take n) run, { x with put := x.put + n })
    match r with
    | .error e => if moved then .ok (s, x) else .error e
    | .ok (s', x') => s'.putOut t x' true f (((some l, m) :: ps).drop n) (bs.drop n)

/-- The locations of a chunk that is written whole (R284); it is packed from the bytes of the transfer, also where they stand for
elements beyond an extent (log 80). -/
def State.chunkLocs (s : State) (w : Who) (d : AStream) (e : TEnt) (bs : List PByte) : Res (List (Option Nat × Byte) × List PByte) :=
  if d.positions e ≤ d.k then trapOf .tensorBounds (BitVec.ofNat 64 d.k)
  else
    let stored := packChunk d.k (rawBytes bs)
    (s.rangeLocs w .write (chunkAddr e d.k) 0 stored.length).map fun ls =>
      (ls.map fun l => (some l, 0xFF), stored.map fun b => (b, bs.any Prod.snd))

/-- A destination takes a piece (R224, R225): a stream writes it, at most `lim` bytes of it now (R246), in a compressed one as a chunk,
whose last bytes go with the piece's; a buffer takes it as one request of `request` bytes, a port as one frame (log 36). -/
def State.dstPut (s : State) (t : Nat) (x : Entry) (c request : Nat) (bs : List PByte) (lim : Nat) : Res (State × Entry) :=
  let u := s.tileAt t
  let w := s.whoOf t x
  let all : Entry := { x with put := bs.length }
  if bs = [] || bs.length ≤ x.put then .ok (s, x)
  else if c < 8 then
    match u.stream c with
    | none => trapOf .tensorBounds 0
    | some d =>
      let e := s.streamEnt w d
      if d.packed e then do
        let (ls, stored) ← s.chunkLocs w d e bs
        let part := x.put + lim < min stored.length bs.length
        let n := if part then lim else stored.length - x.put
        let now := (ls.drop x.put).take n
        let s' ← s.admitAll t (now.filterMap Prod.fst)
        .ok (s'.writeLocs now (stored.drop x.put), if part then { x with put := x.put + lim } else all)
      else do
        let ps ← s.streamLocs w d e .write 0 bs.length
        s.putOut t x false bs.length ((ps.drop x.put).take lim) (bs.drop x.put)
  else if c < 16 then do
    let p ← s.boundPort t (c - 8)
    if p.fifo.length + 16 > 64 then .error .wait
    else .ok (s.putPort t (c - 8) { p with fifo := p.fifo ++ frameBeats bs, entered := p.entered + 16 }, all)
  else
    match u.sbs.find (c - 16) with
    | none => .error .wait
    | some b => if b.canPut request then .ok (s.sbPut t (c - 16) b bs, all) else .error .wait

/-- A destination stream moves on by a piece that has landed. -/
def State.dstMove (s : State) (t : Nat) (x : Entry) (c n : Nat) : State :=
  if 8 ≤ c then s
  else s.updTile t fun u => match u.stream c with
    | none => u
    | some d => u.setStream c (d.forward (s.streamEnt (s.whoOf t x) d) n)

/-- The stream of a code is compressed. -/
def State.packedAt (s : State) (t : Nat) (x : Entry) (c : Nat) : Bool :=
  c < 8 && ((s.tileAt t).stream c).any fun d => d.packed (s.streamEnt (s.whoOf t x) d)

/-- A word that would end with a chunk of a compressed destination partly written, or that does not begin at a chunk, traps at
the chunk's start (R284). -/
def State.chunkWhole (s : State) (t : Nat) (x : Entry) (c rest : Nat) : Res Unit :=
  match (s.tileAt t).stream c with
  | none => .ok ()
  | some d =>
    if s.packedAt t x c && (rest < 4096 || d.o ≠ 0) then trapOf .tensorBounds (BitVec.ofNat 64 d.k) else .ok ()

/-! ### One step of a transfer or transform -/

/-- The position of the stream of a code. -/
def Tile.posAt (t : Tile) (c : Nat) : Nat × Nat := ((t.stream c).map fun d => (d.k, d.o)).getD (0, 0)
def Tile.setPos (t : Tile) (c : Nat) (p : Nat × Nat) : Tile :=
  match if c < 8 then t.stream c else none with
  | none => t
  | some d => t.setStream c { d with k := p.1, o := p.2 }

/-- A C word gives back what it has taken and not used (R244): the bytes of a stream, or of a buffer before which CP stands, are taken
again. Where CP has passed some of them, it goes back where no other consumer came between and the bytes are still there; else they
stay with the word, as those of a port do (log 61). -/
def Tile.giveBack (u : Tile) (x : Entry) (src : Nat) : Tile × Entry :=
  let y : Entry := { x with inb := x.inb.take x.own, raw := [] }
  match if 16 ≤ src && x.own != 0 then u.sbs.find (src - 16) else none, x.tail with
  | some b, some (p, k) =>
    if p = b.cp ∧ x.own ≤ k ∧ b.fill + x.own ≤ b.size then
      let cp := b.cp - BitVec.ofNat 32 x.own
      (u.setSb (src - 16) { b with cp := cp }, { y with inb := [], own := 0, tail := some (cp, k - x.own) })
    else (u, y)
  | _, _ => (u, y)

/-- A C word stands at a fault. It is at the first byte of the piece; with `back`, and where it has a mark, at the start of the
chunk that it expands or writes (R227, R244). -/
def State.faultC (s : State) (t : Nat) (x : Entry) (src dst : Nat) (back : Bool) (i : TrapInfo) : State :=
  match if back then x.mark else none with
  | none =>
    let r := (s.tileAt t).giveBack { x with put := 0 } src
    (s.setTile t r.1).faultHead t .c r.2 i
  | some m =>
    let u := ((s.tileAt t).setPos src m.src).setPos dst m.dst
    let u := if x.draws then { u with gc := m.gen } else u
    let r := u.giveBack { x with put := 0, prog := m.prog, aux := m.out, inb := m.used ++ x.inb, own := m.used.length + x.own, mark := none } src
    (s.setTile t r.1).faultHead t .c r.2 i

/-- What a word makes of the source bytes of one step: the piece for its destination, the bytes that wait to leave afterwards,
its new progress, how many of the source bytes it has used up, and flags and generator. -/
structure COut where
  out : List PByte
  aux : List PByte
  prog : Nat
  took : Nat
  flags : Byte := 0
  gen : BitVec 64

/-- A fault at the destination sends the word back to a mark (R227, R244, R294): in a chunk that it expands into a stream or a port, or
in one that it gathers. -/
def State.goesBack (s : State) (t : Nat) (x : Entry) (src dst : Nat) : Bool :=
  if s.packedAt t x dst then
    match x.word with
    | .cqnt .. | .cexp .. => true
    | _ => false
  else
    match x.word with
    | .copy .. | .ccvt .. => dst < 16 && s.packedAt t x src
    | _ => false

/-- A piece ends where the expanded chunk ends, so that a fault at the destination is exact at the chunk (R227); a frame does not
(log 61). -/
def State.atChunk (s : State) (t : Nat) (x : Entry) (src dst : Nat) : Bool := dst < 8 && s.goesBack t x src dst

/-- The place where the word stands, as a mark. -/
def State.markHere (s : State) (t : Nat) (x : Entry) (src dst : Nat) : Entry :=
  { x with mark := some (x.mark.getD ⟨x.prog, (s.tileAt t).posAt src, (s.tileAt t).posAt dst, x.aux, (s.tileAt t).gc, []⟩) }

/-- The mark ends with the chunk (R227): where the expanded chunk is used up, or the gathered one is written. -/
def State.endMark (s : State) (t : Nat) (x : Entry) (src dst : Nat) (wrote : Bool) : Entry :=
  let p := (s.tileAt t).posAt src
  if if s.packedAt t x dst then wrote else p.2 == 0 || x.mark.any fun m => m.src.1 != p.1 then { x with mark := none } else x

/-- One step of a C word: it takes in `need` source bytes of the `total` that it needs, makes its piece of them, and writes
that, of either side at most `lim` bytes now (R246); a buffer must have room for `request` bytes, and for the piece. Once the piece has
landed, the streams, CP and the progress move on together (R224, R244); between one buffer and itself the piece is taken first
(R227). -/
def State.stepC (s : State) (t : Nat) (x0 : Entry) (src dst need total request lim : Nat) (make : List PByte → Res COut) : Res State :=
  let x := if s.goesBack t x0 src dst then s.markHere t x0 src dst else x0
  let same := decide (16 ≤ src) && src == dst
  match s.srcFill t x src need total lim with
  | .error (.trap i) => .ok (s.faultC t x src dst false i)
  | .error e => .error e
  | .ok (s1, x1) =>
    if x1.inb.length < need then .ok (s1.updTile t fun u => u.headC x1)
    else match make (x1.inb.take need) with
    | .error (.trap i) => .ok (s1.faultC t x1 src dst false i)
    | .error e => .error e
    | .ok o =>
      let from_ := if same then s1.srcUse t x1 src o.took else (s1, x1)
      match from_.1.dstPut t from_.2 dst (max request o.out.length) o.out lim with
      | .error (.trap i) => if x1.out ≠ [] then .error .wait else .ok (s1.faultC t x1 src dst true i)
      | .error .wait => if x1 = x then .error .wait else .ok (s1.updTile t fun u => u.headC x1)
      | .error e => .error e
      | .ok (s2, x2) =>
        if x2.put < o.out.length || x2.out ≠ [] then
          if x2 = x0 then .error .wait else .ok (s2.updTile t fun u => u.headC x2)
        else
          let used := if same then (s2, x2) else s2.srcUse t x2 src o.took
          let s3 := (used.1.dstMove t x2 dst o.out.length).updTile t fun u =>
            { u with gc := o.gen }.updTask x.task fun y => y.raise o.flags
          let y : Entry := { used.2 with prog := o.prog, aux := o.aux, put := 0 }
          .ok (s3.updTile t fun u => u.headC (s3.endMark t y src dst (!o.out.isEmpty)))

/-- The answer to a request of the C word at the head has come (R271): source bytes, of which those beyond an extent are zero,
an acknowledgement, or the end of its counter add. -/
def State.cLand (s : State) (t : Nat) (x : Entry) (off : Nat) (bs : List PByte) : State :=
  let y : Entry := { x with out := x.out.filter fun o => o != off }
  if x.stage = 4 then s.updTile t fun u => u.doneC x
  else if bs = [] then s.updTile t fun u => u.headC y
  else
    let mask := fun i => match (s.tileAt t).stream (sourceOf x.word) with
      | none => (0xFF : Byte)
      | some d =>
        let e := s.streamEnt (s.whoOf t x) d
        match d.posOf e (off + i) with
        | .ok (k, o) => (d.byteAt e k o).2
        | .error _ => 0
    s.updTile t fun u => u.headC { y with inb := x.inb ++ bs.mapIdx fun i b => (b.1 &&& mask i, b.2) }

/-! ### COPY and COPYM (R224-R227) -/

/-- All bytes of a word have landed: a COPYM waits to fill its follow-on (stage 3), a counter waits for its add (stage 2),
else the word has performed. -/
def Tile.landedC (t : Tile) (x : Entry) (counter : Word) : Tile :=
  match x.word with
  | .copym .. => t.headC { x with stage := 3 }
  | _ => if counter = 0 then t.doneC x else t.headC { x with stage := 2 }

/-- The bytes of the expanded chunk under way from a stream's position on. -/
def State.chunkLeft (s : State) (t src : Nat) : Nat := 4096 - ((s.tileAt t).posAt src).2

/-- The next piece of a COPY or COPYM (R224, R225). A frame of a port takes room for 512 bytes in a buffer, also the last, of which PP
moves by what is left alone (log 36). Of a piece that an expanded chunk ends in, the part of that chunk is written
first, so that a fault at the destination is exact at the chunk (R227). -/
def State.copyPiece (s : State) (t : Nat) (x : Entry) (src dst lim : Nat) : Res State :=
  let n := x.a.toNat
  if n ≤ x.prog then .ok (s.updTile t fun u => u.landedC { x with inb := [], own := 0, mark := none } x.b)
  else do
    s.chunkWhole t x dst (n - x.prog)
    let m := s.pieceLen t x src dst (n - x.prog)
    let request := if 8 ≤ src && src < 16 && 16 ≤ dst then 512 else m
    let part := if s.atChunk t x src dst then min m (s.chunkLeft t src) else m
    s.stepC t x src dst m (n - x.prog) request lim fun bs =>
      .ok { out := bs.take part, aux := [], prog := x.prog + part, took := part, gen := (s.tileAt t).gc }

/-! ### Transforms (R228-R233) -/

/-- The fields of a control word (R228). -/
structure Ctl where
  sty : Ty
  dty : Ty
  rnd : Rnd
  sat : Bool
  sc : Nat
  s : BitVec 32

/-- A control word within its limits; the types that the word admits are checked with `ok`. RND 6 and 7 trap for each transform,
CQNT included, whose rounding R229 otherwise ignores (R53, R228, log 53). -/
def ctlOf (w : Word) (ok : Ty → Ty → Bool) : Res Ctl :=
  match Ty.ofCode (bits w.toNat 0 4), Ty.ofCode (bits w.toNat 4 4) with
  | some st, some dt =>
    if bits w.toNat 52 12 ≠ 0 || !ok st dt || bits w.toNat 8 3 > 5 then illegalAt w
    else .ok ⟨st, dt, (Rnd.ofCode (bits w.toNat 8 3)).getD .rne, w.getLsbD 11, bits w.toNat 12 8, BitVec.ofNat 32 (bits w.toNat 20 32)⟩
  | _, _ => illegalAt w

def isWideFloat (t : Ty) : Bool := t == .f32 || t == .bf16 || t == .f16
def cqntTypes (st dt : Ty) : Bool := isWideFloat st && (dt == .i8 || dt == .e4m3)
def cexpTypes (st dt : Ty) : Bool := isWideFloat dt && (st == .i8 || st == .e4m3 || st == .cb4)
def ccvtTypes (st dt : Ty) : Bool := dt != .cb4 && (st.isCpx == dt.isCpx)

/-- The declared type of an endpoint that is a buffer equals a type (R228). -/
def Tile.declared (t : Tile) (c : Nat) (y : Ty) : Bool :=
  c < 16 || match t.sbs.find (c - 16) with
    | none => true
    | some b => b.ty == y

/-- RND and the types of R228 are checked, and the buffers' declared types, before anything moves; a
mismatch has TADDR 0 (log 37). -/
def State.ctlChecked (s : State) (t : Nat) (x : Entry) (src dst : Nat) : Res Ctl :=
  let u := s.tileAt t
  match x.word with
  | .cqnt .. => do
    let c ← ctlOf x.b cqntTypes
    if x.a.toNat % 64 ≠ 0 then illegalAt x.a
    else if u.declared src c.sty then .ok c else trapOf .formatMismatch 0
  | .cexp .. => do
    let c ← ctlOf x.b cexpTypes
    if x.a.toNat % 64 ≠ 0 then illegalAt x.a
    else if u.declared dst c.dty then .ok c else trapOf .formatMismatch 0
  | _ => do
    let c ← ctlOf x.b ccvtTypes
    if u.declared src c.sty && u.declared dst c.dty then .ok c else trapOf .formatMismatch 0

/-- A quotient of exact values, for the scales of R229; b is finite and not zero. -/
def FVal.quot (a b : FVal) : FVal :=
  match a, b with
  | .fin n m e _, .fin k r g _ =>
    if m = 0 then .zero (n ^^ k) else .fin (n ^^ k) (m * 2 ^ 256 / r) (e - g - 256) (m * 2 ^ 256 % r != 0)
  | .inf n, _ => .inf n
  | v, _ => v

/-- |v|. -/
def FVal.abs : FVal → FVal
  | .fin _ m e k => .fin false m e k
  | .inf _ => .inf false
  | v => v

def FVal.isFin : FVal → Bool
  | .fin .. => true
  | _ => false

/-- The record of one 64-element block (R229), and NV for a signalling NaN. -/
def quantBlock (t : BitVec 16) (sty dty : Ty) (xs : List Nat) : List Byte × Byte :=
  let vs := xs.map (valOf sty)
  let fins := (vs.filter FVal.isFin).map FVal.abs
  let q := leastExp fins
  let sum := (fins.foldl (fun (s : FSum) v => s.push q v) {}).value .rne q
  let mean := (sum.1.mul (.fin false 1 (-6) false)).1
  let limit := ((valOf .f16 t.toNat).mul mean).1
  let isOut := fun (v : FVal) => !v.isFin || (!limit.isNan && v.abs.cmp limit == .gt)
  let mx := (vs.filter fun v => !isOut v).foldl (fun m v => if v.abs.cmp m == .gt then v.abs else m) (.zero false)
  let scale := (roundTo .f32 .rne false (mx.quot (.ofInt (if dty = .i8 then 127 else 448))) 0).bits
  let sv := valOf .f32 scale
  let qs := vs.map fun v => if isOut v || sv.isZero then 0 else (roundTo dty .rne true (v.quot sv) 0).bits
  let outs := ((List.range 64).zip (vs.map isOut)).filter fun p => p.2
  let body := qs.flatMap (le 1) ++ le 4 scale ++ le 1 outs.length ++ le 3 0 ++
    outs.flatMap fun p => le 2 p.1 ++ le 2 (roundTo .bf16 .rne false (vs.getD p.1 (.zero false)) 0).bits
  (body ++ List.replicate ((16 - body.length % 16) % 16) 0, flagIf (vs.any FVal.isSig) fNV)

/-- Elements converted in turn, with draws from G_C (R215). -/
def convertAll (f : Nat → BitVec 64 → EOut) (n : Nat) (g : BitVec 64) : Pass :=
  overElems n (fun _ => true) (fun _ => 0) f g

/-- The elements that a block record expands to (R230); none where the record is malformed. The SAT bit applies to outliers as
well, and of two entries with one index the first counts (log 63). -/
def expandRecord (c : Ctl) (r : List Byte) (g : BitVec 64) : Option Pass :=
  let m := field r 68 1
  let outs := (List.range m).map fun u => (field r (72 + 4 * u) 2, field r (74 + 4 * u) 2)
  if m > 64 || outs.any fun p => decide (63 < p.1) then none
  else
    let scale := valOf .f32 (field r 64 4)
    some (convertAll (fun e g =>
      match outs.find? fun p => p.1 == e with
      | some p => roundDraw c.dty c.rnd c.sat (valOf .bf16 p.2) g
      | none =>
        let (v, f) := (valOf c.sty (field r e 1)).mul scale
        let o := roundDraw c.dty c.rnd c.sat v g
        { o with flags := o.flags ||| f }) 64 g)

/-- The elements of a CB4 block (R230, R52), under the SAT bit (log 63). -/
def expandCb4 (c : Ctl) (r : List Byte) (g : BitVec 64) : Pass :=
  let bs := blockScale (field r 32 1) c.s
  let idx := leNat (r.take 32)
  convertAll (fun e g =>
    let (v, f) := (cb4Val (elem 4 idx e)).mul bs
    let o := roundDraw c.dty c.rnd c.sat v g
    { o with flags := o.flags ||| f }) 64 g

/-- n elements of CCVT from a source image (R231). -/
def convertRun (c : Ctl) (img n : Nat) (g : BitVec 64) : Pass :=
  let bs := blockScale c.sc c.s
  convertAll (fun e g =>
    if c.sty = .cb4 then
      let (v, f) := (cb4Val (elem 4 img e)).mul bs
      let o := roundDraw c.dty c.rnd c.sat v g
      { o with flags := o.flags ||| f }
    else vConvert c.dty c.sty c.rnd c.sat (elem c.sty.ew img e) g) n g

/-- The address of the next source byte, for a record that breaks its limits (R230); of a port, which has none, 0 (log 37). -/
def State.srcAddr (s : State) (t : Nat) (x : Entry) (c : Nat) : Word :=
  let u := s.tileAt t
  if c < 8 then
    match u.stream c with
    | none => 0
    | some d => (d.byteAt (s.streamEnt (s.whoOf t x) d) d.k d.o).1
  else if c < 16 then 0
  else match u.sbs.find (c - 16) with
    | none => 0
    | some b => BitVec.ofNat 64 (0x800 * 2 ^ 52 + b.base + (b.cp - BitVec.ofNat 32 x.own).toNat % b.size)

/-- Output that a transform has gathered leaves: a frame for a port, a piece for a buffer, a chunk for a compressed stream
(R225, R274, R284). -/
def State.drainAux (s : State) (t : Nat) (x : Entry) (src dst n lim : Nat) : Res State :=
  s.stepC t x src dst 0 0 n lim fun _ =>
    .ok { out := x.aux.take n, aux := x.aux.drop n, prog := x.prog, took := 0, gen := (s.tileAt t).gc }

/-- How many gathered bytes leave next; none while a frame or a chunk is not full and more comes. -/
def State.auxLen (s : State) (t : Nat) (x : Entry) (dst rest : Nat) : Nat :=
  let n := x.aux.length
  if 16 ≤ dst then s.pieceLen t x 16 dst n
  else if 8 ≤ dst then if 512 ≤ n || rest = 0 then min n 512 else 0
  else if 4096 ≤ n then 4096 else 0

/-- Where the output of a block goes: at once to a plain stream, and a record of CQNT to a buffer; else it is gathered. -/
def State.blockOut (s : State) (t : Nat) (x : Entry) (dst : Nat) (whole : Bool) (out : List PByte) (n took : Nat) (flags : Byte)
    (gen : BitVec 64) : COut :=
  if (dst < 8 && !s.packedAt t x dst) || (16 ≤ dst && whole) then
    { out := out, aux := [], prog := x.prog + n, took := took, flags := flags, gen := gen }
  else { out := [], aux := x.aux ++ out, prog := x.prog + n, took := took, flags := flags, gen := gen }

/-- One block of a CQNT (R229), whose record is one request of a buffer (R274); into a compressed stream it begins at a chunk
(R284). -/
def State.cqntStep (s : State) (t : Nat) (x : Entry) (c : Ctl) (src dst rest lim : Nat) : Res State := do
  let u := s.tileAt t
  s.chunkWhole t x dst 4096
  let k := 64 * c.sty.ew / 8
  let thr := if src < 8 then ((u.stream src).map AStream.qthr).getD 0 else ((u.sbs.find (src - 16)).map SBuf.qthr).getD 0
  let record := fun (bs : List PByte) =>
    quantBlock thr c.sty c.dty ((List.range 64).map (elem c.sty.ew (leNat (rawBytes bs))))
  s.stepC t x src dst k (rest * c.sty.ew / 8) 0 lim fun bs =>
    .ok (s.blockOut t x dst true ((record bs).1.map fun b => (b, bs.any Prod.snd)) 64 k (record bs).2 u.gc)

/-- One block of a CEXP (R230). A record says its own length; a word that takes it from a buffer needs at least 80 bytes for
each record that it has not begun (R229, R274). -/
def State.cexpStep (s : State) (t : Nat) (x : Entry) (c : Ctl) (src dst rest lim : Nat) : Res State := do
  let u := s.tileAt t
  s.chunkWhole t x dst (if x.aux = [] then rest * c.dty.ew / 8 else 4096)
  let least := if c.sty = .cb4 then 48 else 80
  let m := field (rawBytes x.inb) 68 1
  let k := if c.sty = .cb4 then 48 else if x.inb.length < 72 then 72 else (72 + 4 * m + 15) / 16 * 16
  let total := if x.inb.length < 72 then rest / 64 * least else k + (rest / 64 - 1) * least
  if c.sty ≠ .cb4 && 72 ≤ x.inb.length && 64 < m then
    .ok (s.faultC t x src dst false ⟨.illegalEncoding, s.srcAddr t x src, .read, 0⟩)
  else s.stepC t x src dst k total 0 lim fun bs =>
    if c.sty ≠ .cb4 && x.inb.length < 72 then
      .ok { out := [], aux := x.aux, prog := x.prog, took := 0, gen := u.gc }
    else
      match if c.sty = .cb4 then some (expandCb4 c (rawBytes bs) u.gc) else expandRecord c (rawBytes bs) u.gc with
      | none => illegalAt (s.srcAddr t x src)
      | some p =>
        let out := le (64 * c.dty.ew / 8) (pack c.dty.ew p.out.reverse)
        .ok (s.blockOut t x dst false (out.map fun b => (b, bs.any Prod.snd)) 64 k p.flags p.gen)

/-- One piece of a CCVT (R231): the elements whose results it holds; what is left of the last one begins the next piece. A source
of 4-bit elements may be used up to the middle of a byte. Of a piece that an expanded chunk ends in, the part of that chunk is
written first (R227), but for a byte of results, or an element, that stands in two chunks. -/
def State.ccvtStep (s : State) (t : Nat) (x : Entry) (c : Ctl) (src dst rest lim : Nat) : Res State := do
  let left := x.aux.length + ceilDiv (rest * c.dty.ew) 8
  s.chunkWhole t x dst left
  let m := s.pieceLen t x 16 dst left
  let n := min rest (ceilDiv ((m - x.aux.length) * 8) c.dty.ew)
  let bit := x.prog * c.sty.ew % 8
  let need := ceilDiv (bit + n * c.sty.ew) 8
  let least := if c.dty.ew = 4 then 2 else 1
  let inside := (8 * s.chunkLeft t src - bit) / c.sty.ew / least * least
  let part := if s.atChunk t x src dst then min n (max inside least) else n
  s.stepC t x src dst need (ceilDiv (bit + rest * c.sty.ew) 8) m lim fun bs =>
    let p := convertRun c (leNat (rawBytes bs) / 2 ^ bit) part (s.tileAt t).gc
    let made := (le (ceilDiv (part * c.dty.ew) 8) (pack c.dty.ew p.out.reverse)).map fun b =>
      (b, (bs.take (ceilDiv (bit + part * c.sty.ew) 8)).any Prod.snd)
    .ok
      { out := (x.aux ++ made).take m
        aux := (x.aux ++ made).drop m
        prog := x.prog + part
        took := if part = rest then need else (bit + part * c.sty.ew) / 8
        flags := p.flags
        gen := p.gen }

/-- The next step of a transform (R229-R231). `src` and `dst` are its endpoints. What a CQNT or CEXP leaves of a chunk at its
end traps at the chunk's start (R284). -/
def State.transform (s : State) (t : Nat) (x : Entry) (src dst lim : Nat) : Res State := do
  let c ← s.ctlChecked t x src dst
  let rest := x.a.toNat - x.prog
  match x.word with
  | .ccvt .. =>
    if rest = 0 && x.aux.isEmpty then .ok (s.updTile t fun u => u.doneC x) else s.ccvtStep t x c src dst rest lim
  | w =>
    let n := s.auxLen t x dst rest
    if n ≠ 0 then s.drainAux t x src dst n lim
    else if rest ≠ 0 then
      match w with
      | .cqnt .. => s.cqntStep t x c src dst rest lim
      | _ => s.cexpStep t x c src dst rest lim
    else if x.aux.isEmpty then .ok (s.updTile t fun u => u.doneC x)
    else .ok (s.faultC t x src dst true ⟨.tensorBounds, BitVec.ofNat 64 ((s.tileAt t).posAt dst).1, .read, 0⟩)

/-- The next piece of a CFILL (R232). -/
def State.fillPiece (s : State) (t : Nat) (x : Entry) (dst lim : Nat) : Res State :=
  let n := x.a.toNat
  if n ≤ x.prog then .ok (s.updTile t fun u => u.doneC x)
  else do
    s.chunkWhole t x dst (n - x.prog)
    let m := s.pieceLen t x 16 dst (n - x.prog)
    let bs : List PByte := (List.range m).map fun i => ((wordBytes 8 x.b).getD ((x.prog + i) % 8) 0, false)
    s.stepC t x 31 dst 0 0 m lim fun _ => .ok { out := bs, aux := [], prog := x.prog + m, took := 0, gen := (s.tileAt t).gc }

/-! ### The events of the copy engine -/

/-- More bytes than any piece, chunk or record has. -/
def whole : Nat := 65536

/-- The head of the C queue begins (R215): a definition performs whole; a transfer or transform passes the checks of its
operands, and its pieces follow. -/
def State.issueC (s : State) (t : Nat) (x : Entry) : Res State :=
  match x.word with
  | .sbdef e _ _ => s.sbdef t x e.toNat
  | .stdef e _ _ => s.stdef t x e.toNat
  | .stdim e _ _ => s.streamWord t x e.toNat fun d =>
      if d.tensor then .ok d else if 4 < x.a.toNat % 8 then illegalAt x.a else .ok (d.withDim x.a x.b)
  | .stpos e _ => s.streamWord t x e.toNat fun d => .ok (d.atPos x.a.toNat)
  | .strst e => s.streamWord t x e.toNat fun d => .ok (d.atPos 0)
  | .copy .. => transfer
  | .copym .. => transfer
  | .cqnt sr d _ _ => transformStart sr.toNat d.toNat
  | .cexp sr d _ _ => transformStart sr.toNat d.toNat
  | .ccvt sr d _ _ => transformStart sr.toNat d.toNat
  | .cfill _ _ _ =>
    if x.stage ≠ 0 then .error .wait
    else if escapes x.b then trapOf .parcelEscape x.b
    else .ok (s.updTile t fun u => if x.a = 0 then u.doneC x else u.headC { x with stage := 1 })
  | _ => .error .wait
where
  transfer : Res State :=
    if x.stage ≠ 0 then .error .wait
    else if 2 ^ 32 ≤ x.a.toNat then illegalAt x.a
    else .ok (s.updTile t fun u => if x.a = 0 then u.landedC x x.b else u.headC { x with stage := 1 })
  transformStart (src dst : Nat) : Res State :=
    if x.stage ≠ 0 then .error .wait
    else do
      let _ ← s.ctlChecked t x src dst
      .ok (s.updTile t fun u => if x.a = 0 then u.doneC x else u.headC { x with stage := 1 })

/-- The next piece of the word at the head of the C queue, of which at most `lim` bytes move now (R224, R229-R232, R246). -/
def State.pieceC (s : State) (t lim : Nat) (x : Entry) : Res State :=
  if x.stage ≠ 1 then .error .wait
  else match x.word with
    | .copy sr d _ _ => s.copyPiece t x sr.toNat d.toNat lim
    | .copym sr d _ _ => s.copyPiece t x sr.toNat (16 + d.toNat) lim
    | .cqnt sr d _ _ => s.transform t x sr.toNat d.toNat lim
    | .cexp sr d _ _ => s.transform t x sr.toNat d.toNat lim
    | .ccvt sr d _ _ => s.transform t x sr.toNat d.toNat lim
    | .cfill d _ _ => s.fillPiece t x d.toNat lim
    | _ => .error .wait

/-- The counter add of a COPY or COPYM whose bytes have all landed (R224); in another tile's SRAM by a request, whose answer ends
the word (stage 4, R271). -/
def State.counterC (s : State) (t : Nat) (x : Entry) : Res State :=
  if x.stage ≠ 2 then .error .wait
  else
    let a := x.b
    if a.toNat % 8 = 0 && (spaceOf a == 0x803 || spaceOf a == 0x804) then trapAcc .apertureMiss a .amo 0
    else do
      let loc ← s.resolve (s.whoOf t x) a 8 .amo
      if elsewhere t loc then do
        let s' ← s.sendReqAt t x.task (.add x.a.toNat) loc (.word x.uid 0)
        .ok (s'.updTile t fun u => u.headC { x with stage := 4, out := [0] })
      else do
        let s1 ← s.admitAt t loc 8
        let s' ← s1.addTo loc x.a.toNat
        .ok (s'.updTile t fun u => u.doneC x)

/-- The follow-on M entry of a COPYM whose last byte has landed is filled (R226). -/
def State.fillFollowOn (s : State) (t : Nat) (x : Entry) : Res State :=
  if x.stage ≠ 3 then .error .wait
  else .ok (s.updTile t fun u =>
    let u := { u with mq := u.mq.map fun (e : Entry) => if e.uid = x.uid + 1 then ({ e with held := false } : Entry) else e }
    if x.b = 0 then u.doneC x else u.headC { x with stage := 2 })

end Sys2Proof.Machine
end

