-- ==== Sys2Proof/Machine/Link.lean ====
section
/-! DEFINITION. Link.lean: what the link and port words of the L queue do (R234-R240, R243, R244), the packets that they and the
scalar streams put on the networks (R271, R303, R311-R315), parcels on their way (R147, R154, R155, R385), and dead peers
(R315, R400). -/

namespace Sys2Proof.Machine

/-! ### Words of the L queue, at its head or waiting for answers -/

/-- A cause from its code (R80). -/
def Cause.ofCode (n : Nat) : Cause :=
  (([.illegalEncoding, .privileged, .misaligned, .apertureMiss, .pageNotPresent, .pageProtection, .pageReservedBit, .tensorBounds,
    .weightStoreWrite, .parcelAbsent, .parcelEscape, .parcelPinned, .peerDead] : List Cause).find? fun c => c.code.toNat == n).getD
    .apertureMiss

/-- The word is an RLD. -/
def isRld : Instr → Bool
  | .rld .. => true
  | _ => false

/-- One L word is changed where it stands. -/
def Tile.updL (t : Tile) (uid : Nat) (f : Entry → Entry) : Tile :=
  let g := fun (e : Entry) => if e.uid = uid then f e else e
  { t with lq := t.lq.map g, air := t.air.map g }

/-- An L word leaves the machine and its token completes (R78). -/
def Tile.doneL (t : Tile) (x : Entry) : Tile :=
  { t with lq := t.lq.filter (fun e => e.uid != x.uid), air := t.air.filter fun e => e.uid != x.uid }.complete x.task x.tok

/-- A word takes its place in the L queue by push number. -/
def insertL (x : Entry) : List Entry → List Entry
  | [] => [x]
  | y :: r => if x.uid ≤ y.uid then x :: y :: r else y :: insertL x r

/-- An L word stands at the head with a fault at its progress point (R234, R244). -/
def Tile.faultL (t : Tile) (x : Entry) (prog : Nat) (i : TrapInfo) : Tile :=
  let x' : Entry := { x with prog := prog, fail := none, faulted := true, stage := 1, out := [], inb := [] }
  { t with
    lq := insertL x' (t.lq.filter fun e => e.uid != x.uid)
    air := t.air.filter fun e => e.uid != x.uid
    faults := t.faults ++ [⟨.l, x.task, x.uid, i, false⟩] }

/-- The context with which context `c` is paired on package `p`, as its table names it (R349); 0xFF none. -/
def State.pairByte (s : State) (c p : Nat) : Nat :=
  let b := (s.ctxAt c).record.pairtab.toNat
  if b = 0 then 0xFF else s.readNat (b + p) 1

/-- The contents of n accepted flits of a peer reach the memory network (R397), if so many have been accepted. -/
def State.takeFlits (s : State) (peer n : Nat) : Option State :=
  if n ≤ (s.linkTo peer).accepted then
    some (if n = 0 then s else s.updLink peer fun l => { l with accepted := l.accepted - n })
  else none

/-- Its answer has landed. -/
def Tile.landed (t : Tile) : Tile := { t with outbound := t.outbound - 1 }

/-- PEERTMO of a context in ns (R315, R348). -/
def State.peerTmo (s : State) (c : Nat) : Nat :=
  let m := (s.ctxAt c).record.peertmo.toNat
  1000 * if m = 0 then 2000 else m

/-- The port of the home slice at a peer that a target address there has (R312, R314, log 16); the ports of this package have
smaller numbers (portOf). -/
def State.peerPort (s : State) (t pkg : Nat) (a : Word) : Nat :=
  65536 + 192 * pkg + Config.peerHome pkg (s.pairByte ((s.tileAt t).ctx.getD 0) pkg) (a.toNat / 256) % 192

/-- A request to another package leaves, and what waits for its answer is kept until the PEERTMO of now (R314, R315). -/
def State.sendPeer (s : State) (t : Nat) (x : Entry) (pkg : Nat) (sc : Scope) (a : Word) (op : PeerOp) (off : Nat) : State :=
  let c := (s.tileAt t).ctx.getD 0
  let d := s.pairByte c pkg
  let s := s.sendPkt t (.peer t x.task pkg d a op sc.code (.word x.uid off) (s.ns + s.peerTmo c) (s.peerPort t pkg a))
  s.tell pkg (.request pkg d a op sc.code)

/-- A target package that DEADPEER marks (R234). -/
def State.liveCheck (s : State) (t pkg : Nat) (a : Word) (k : AccKind) : Res Unit :=
  if pkg ≠ s.pkg.toNat ∧ s.deadBit ((s.tileAt t).ctx.getD 0) pkg then trapAcc .peerDead a k 0 else .ok ()

/-- An L word has no request left to send and none out: the add of an RLD is under way, or the counter message of an RST leaves,
unless its peer is dead (R315); with no counter, or once the add is acknowledged, its token completes (R236, R237, R320). -/
def State.finishL (s : State) (t : Nat) (x : Entry) : Res State :=
  let n := linkCount x.c
  let adding := fun (s : State) => s.updTile t fun u => u.updL x.uid fun (e : Entry) => { e with stage := 3, out := [n] }
  match x.ctr, decide (x.stage = 3) with
  | some a, false =>
    match x.word with
    | .rld .. => .ok ((adding s).sendPkt t (.counter t x.task x.uid (BitVec.ofNat 64 a) n))
    | .rst _ _ _ sc =>
      if Scope.farOf sc && linkPkg x.c != s.pkg.toNat then
        match s.liveCheck t (linkPkg x.c) (BitVec.ofNat 64 a) .amo with
        | .error (.trap i) => .ok (s.updTile t fun u => u.faultL x n i)
        | _ => .ok ((adding s).sendPeer t x (linkPkg x.c) sc (BitVec.ofNat 64 a) (.counterAdd n) n)
      else .ok ((adding s).sendPkt t (.counter t x.task x.uid (BitVec.ofNat 64 a) n))
    | _ => .ok (s.updTile t fun u => u.doneL x)
  | _, _ => .ok (s.updTile t fun u => u.doneL x)

/-- When nothing of an L word is out: it faults at the lowest request that failed, or, once all is sent, it ends. -/
def State.settleL (s : State) (t uid : Nat) : Res State :=
  match (s.tileAt t).findL uid with
  | none => .ok s
  | some x =>
    if x.out ≠ [] then .ok s
    else match x.fail with
      | some (o, i) => .ok (s.updTile t fun u => u.faultL x o i)
      | none => if x.stage = 2 || x.stage = 3 then s.finishL t x else .ok s

/-- The lower of two failures. -/
def lowerFail (a : Option (Nat × TrapInfo)) (o : Nat) (i : TrapInfo) : Option (Nat × TrapInfo) :=
  match a with
  | some (p, j) => if p ≤ o then some (p, j) else some (o, i)
  | none => some (o, i)

/-- The answer to request `off` of an L word has come, with or without a fault. -/
def State.answerL (s : State) (t uid off : Nat) (bad : Option TrapInfo) : Res State :=
  (s.updTile t fun u => u.updL uid fun (e : Entry) =>
    { e with
      out := e.out.filter fun o => o != off
      fail := match bad with
        | none => e.fail
        | some i => lowerFail e.fail off i }).settleL t uid

/-- A request of an L word cannot be sent: no later one is, and the word faults there once nothing is out. -/
def State.stopL (s : State) (t : Nat) (x : Entry) (r : Res State) : Res State :=
  match r with
  | .error (.trap i) => s.answerL t x.uid x.prog (some i)
  | r => r

/-- An L word leaves the queue head once its last request has been sent (R236). -/
def State.leaveL (s : State) (t : Nat) (x : Entry) : Res State :=
  (s.updTile t fun u =>
    { u with
      lq := u.lq.filter fun e => e.uid != x.uid
      air := u.air ++ [{ x with stage := 2 }] }).settleL t x.uid

/-- The last request of an RLD or RST has been sent: it leaves the queue head (R236). -/
def State.afterSend (s : State) (t uid : Nat) : Res State :=
  match (s.tileAt t).lq.find? fun e => e.uid == uid with
  | none => .ok s
  | some x => if linkCount x.c ≤ x.prog then s.leaveL t x else .ok s

/-- A request slot at a target memory port (R312). -/
def State.takeSlot (s : State) (t port : Nat) : Res State :=
  let n := (s.tileAt t).slotsUsed.get 0 port
  if 8 ≤ n then .error .wait else .ok (s.updTile t fun u => { u with slotsUsed := u.slotsUsed.set 0 port (n + 1) })
def Tile.freeSlotAt (t : Tile) (port : Nat) : Tile := { t with slotsUsed := t.slotsUsed.set 0 port (t.slotsUsed.get 0 port - 1) }

/-! ### The checks of a link word when it performs -/

/-- S(c) of RLD and RST is within its limits (R234, R216). -/
def lenOk (x : Entry) (sc : Scope) : Res Unit :=
  if !linkClean x.c || (!Scope.farOf sc && linkPkg x.c != 0) then illegalAt x.c else .ok ()

/-- The package that a link word names (R234). -/
def State.targetPkg (s : State) (sc : Scope) (p : Nat) : Nat := if Scope.farOf sc then p else s.pkg.toNat

/-- n bytes at a LOCAL address of the issuer's own tile (R236, R238). -/
def localOk (a : Word) (n : Nat) (k : AccKind) : Res Unit :=
  if spaceOf a = 0x800 ∧ offsetOf a + n ≤ Config.sramBytes then .ok () else trapAcc .apertureMiss a k 0

/-- The issuer-side link counter, checked and translated as a write (R235). -/
def State.linkCounter (s : State) (t : Nat) (x : Entry) : Res (Option Nat) :=
  let c := ((s.tileAt t).taskAt x.task).link
  if c = 0 then .ok none else (s.resolve (s.whoOf t x) c 8 .write).map some

/-- The locations of a request's target bytes on this package; TADDR of a fault is the request's target address (R234). -/
def State.targetLocs (s : State) (t : Nat) (x : Entry) (a : Word) (n : Nat) (k : AccKind) : Res (List Nat) :=
  match s.rangeLocs (s.whoOf t x) k a 0 n with
  | .error (.trap i) => .error (.trap { i with addr := a })
  | r => r

/-- How many locations from the first on lie one after another. -/
def runLen : List Nat → Nat
  | [] => 0
  | [_] => 1
  | a :: b :: r => if b = a + 1 then runLen (b :: r) + 1 else 1

/-- The next request of a word from its progress point: its target address, and its bytes up to a 256-byte boundary. -/
def Entry.nextReq (x : Entry) : Word × Nat :=
  let a := x.a + BitVec.ofNat 64 x.prog
  (a, min (linkCount x.c - x.prog) (256 - a.toNat % 256))

/-- A request of n bytes from the progress point has been sent; what is left of the source bytes is kept. -/
def Tile.sentL (t : Tile) (x : Entry) (n : Nat) : Tile :=
  t.updL x.uid fun (e : Entry) => { e with prog := e.prog + n, out := e.out ++ [x.prog], inb := x.inb }

/-! ### The words -/

/-- RLD at the head (R236). -/
def State.rldHead (s : State) (t : Nat) (x : Entry) (sc : Scope) : Res State :=
  let n := linkCount x.c
  let pkg := s.targetPkg sc (linkPkg x.c)
  if x.stage = 0 then do
    lenOk x sc
    localOk x.b n .write
    if n ≠ 0 then s.liveCheck t pkg x.a .read
    let ctr ← s.linkCounter t x
    (s.updTile t fun u => u.updL x.uid fun (e : Entry) =>
      { e with stage := 1, ctr := ctr, era := (s.ctxAt ((s.tileAt t).ctx.getD 0)).era }).afterSend t x.uid
  else if x.fail.isSome then .error .wait
  else if n ≤ x.prog then .error .wait
  else s.stopL t x do
    let (a, k) := x.nextReq
    s.liveCheck t pkg a .read
    if pkg ≠ s.pkg.toNat then do
      let s1 ← s.takeSlot t (s.peerPort t pkg a)
      ((s1.sendPeer t x pkg sc a (.read k) x.prog).updTile t fun u => u.sentL x k).afterSend t x.uid
    else do
      let ls ← s.targetLocs t x a k .read
      let port := portOf (ls.headD 0)
      let m := runLen ls
      let s1 ← s.takeSlot t port
      let (s2, p) := s1.reqPkt t x.task (.move m) (ls.headD 0) (.word x.uid x.prog)
      ((s2.sendPkt t p).updTile t fun u => u.sentL x m).afterSend t x.uid

/-- A doubleword of a request that would put a PARCEL-aperture address in memory (R237). -/
def escapesIn (a : Word) (bs : List PByte) : Bool :=
  (List.range bs.length).any fun i =>
    (a.toNat + i) % 8 == 0 && decide (i + 8 ≤ bs.length) && escapes (BitVec.ofNat 64 (leNat (rawBytes ((bs.drop i).take 8))))

/-- The source bytes of an RST are on their way from another tile. -/
def State.fetching (s : State) (uid : Nat) : Bool :=
  s.pkts.any fun p => match p with
    | .req _ _ _ _ d .. | .resp _ _ _ d .. => d == .fetch uid
    | _ => false

/-- An RST takes in the source bytes of its next request, at most `lim` now (R246), until it holds k: those in another tile's SRAM by requests (R237,
R271). -/
def State.rstFill (s : State) (t : Nat) (x : Entry) (k lim : Nat) : Res (State × Entry) :=
  if k ≤ x.inb.length then .ok (s, x)
  else if s.fetching x.uid then .error .wait
  else do
    let m := x.inb.length
    let ls ← s.rangeLocs (s.whoOf t x) .read (x.b + BitVec.ofNat 64 (x.prog + m)) 0 (min lim (k - m))
    let (s', x', _) ← s.gatherIn t x (fun _ => .fetch x.uid) false (k - m) (ls.map fun l => (some l, 0xFF))
    .ok (s', x')

/-- RST at the head (R237). After a fault of its counter message only the add is left (R235, R244). -/
def State.rstHead (s : State) (t : Nat) (x : Entry) (sc : Scope) (lim : Nat) : Res State :=
  let n := linkCount x.c
  let pkg := s.targetPkg sc (linkPkg x.c)
  if x.stage = 0 then do
    lenOk x sc
    let c := ((s.tileAt t).taskAt x.task).link
    if n ≠ 0 || c ≠ 0 then s.liveCheck t pkg x.a .write
    (s.updTile t fun u => u.updL x.uid fun (e : Entry) =>
      { e with stage := 1, ctr := if c = 0 then none else some c.toNat }).afterSend t x.uid
  else if x.fail.isSome then .error .wait
  else if n ≤ x.prog then s.afterSend t x.uid
  else s.stopL t x do
    let (a, k) := x.nextReq
    s.liveCheck t pkg a .write
    let (s, y) ← s.rstFill t x k lim
    let bs := y.inb.take k
    if bs.length < k then .ok (s.updTile t fun u => u.updL x.uid fun _ => y)
    else if escapesIn a bs then trapAcc .parcelEscape a .write 0
    else if pkg ≠ s.pkg.toNat then
      ((s.sendPeer t x pkg sc a (.write bs) x.prog).updTile t fun u => u.sentL { y with inb := [] } k).afterSend t x.uid
    else do
      let ls ← s.targetLocs t x a k .write
      let m := runLen ls
      let (s, p) := s.reqPkt t x.task (.put (bs.take m)) (ls.headD 0) (.word x.uid x.prog)
      ((s.sendPkt t p).updTile t fun u => u.sentL { y with inb := y.inb.drop m } m).afterSend t x.uid

/-- The width and the order of a RAMO (R238). -/
def ramoWide (f : BitVec 3) : Wd := if f.getLsbD 0 then .d64 else .w32
def ramoAcquires (f : BitVec 3) : Bool := f.getLsbD 1
def ramoReleases (f : BitVec 3) : Bool := f.getLsbD 2

/-- The request record of a RAMO, which must be a LOCAL address on a 16-byte boundary (R238, R240). -/
def State.ramoRecord (s : State) (t : Nat) (x : Entry) : Res (List Byte) :=
  if x.c.toNat % 16 ≠ 0 then trapAcc .misaligned x.c .read 0
  else do
    localOk x.c 16 .read
    .ok (s.bytesAt (sramLoc t (offsetOf x.c)) 16)

/-- RAMO at the head (R238). -/
def State.ramoHead (s : State) (t : Nat) (x : Entry) (sc : Scope) (f : BitVec 3) : Res State := do
  let r ← s.ramoRecord t x
  let op := (r.getD 8 0).toNat
  let pkg := s.targetPkg sc (r.getD 9 0).toNat
  let w := ramoWide f
  if 9 < op || (r.drop 10).any (· != 0) then illegalAt x.c
  else if w = .d64 && 8 ≤ op && escapes x.b then trapAcc .parcelEscape x.a .amo 0
  else do
    s.liveCheck t pkg x.a .amo
    if ramoReleases f && x.took ≠ 0 then .error .wait
    else
      let expect := BitVec.ofNat 64 (leNat (r.take 8))
      let gone := fun (s1 : State) => s1.updTile t fun u =>
        { u with
          lq := u.lq.filter fun e => e.uid != x.uid
          air := u.air ++ [{ x with stage := 2, out := [0] }] }
      if pkg ≠ s.pkg.toNat then do
        let s1 ← s.takeSlot t (s.peerPort t pkg x.a)
        .ok (gone (s1.sendPeer t x pkg sc x.a (.amo op w x.b expect) 0))
      else do
        let loc ← s.resolve (s.whoOf t x) x.a (wdBytes w) .amo
        let s1 ← s.takeSlot t (portOf loc)
        let (s2, p) := s1.reqPkt t x.task (.amo op w x.b expect) loc (.word x.uid 0)
        .ok (gone (s2.sendPkt t p))

/-- LCNT at the head (R235). -/
def State.lcntHead (s : State) (t : Nat) (x : Entry) : Res State :=
  if x.a.toNat % 8 ≠ 0 then trapOf .misaligned x.a
  else .ok (s.updTile t fun u => (u.updTask x.task fun y => { y with link := x.a }).doneL x)

/-- RFENCE at the head: every L word of its task before it has completed (R239). -/
def State.rfenceHead (s : State) (t : Nat) (x : Entry) : Res State :=
  if (s.tileAt t).air.any fun e => e.task == x.task then .error .wait else .ok (s.updTile t fun u => u.doneL x)

/-- FCTL at the head (R243, R295). -/
def State.fctlHead (s : State) (t : Nat) (x : Entry) : Res State := do
  let i := x.a.toNat % 4
  let p ← s.boundPort t i
  if 4 ≤ p.side.length then .error .wait
  else .ok ((s.putPort t i { p with side := p.side ++ [(if isInput i then p.entered else 0, x.b)] }).updTile t fun u => u.doneL x)

/-- The record of FSTAT (R243). -/
def State.fstatRecord (s : State) (t i : Nat) : List Byte :=
  let r := s.regionAt (blockOf t)
  let n := portIdx t i
  let p := r.port n
  le 8 p.frames.toNat ++ le 4 p.errs.toNat ++ le 1 p.fifo.length ++
    le 1 ((if r.bound n then 1 else 0) + if r.held then 2 else 0) ++ le 2 0 ++
    le 4 ((r.live.map fun m => m.version.toNat).getD 0) ++ le 12 0

/-- A record written at a LOCAL address by an L word that performs whole (R241, R243). -/
def State.localRecord (s : State) (t : Nat) (x : Entry) (a : Word) (bs : List Byte) : Res State :=
  if a.toNat % bs.length ≠ 0 then trapAcc .misaligned a .write 0
  else do
    localOk a bs.length .write
    .ok ((s.store (sramLoc t (offsetOf a)) bs).updTile t fun u => u.doneL x)

/-- FSTAT at the head (R243). -/
def State.fstatHead (s : State) (t : Nat) (x : Entry) : Res State :=
  s.localRecord t x x.b (s.fstatRecord t (x.a.toNat % 4))

/-! ### Parcels on their way -/

/-- The parcel of an offer at its sender, and whether sender and receiver share one entry (R154). -/
def State.shared (s : State) (o : Offer) : Bool :=
  o.srcPkg == s.pkg.toNat && o.dstPkg == s.pkg.toNat && o.srcCtx == o.dstCtx

/-- PEER of a directory entry (R373). -/
def peerField (pkg ctx : Nat) : Nat := pkg + 256 * ctx

/-- The physical bytes of a parcel; none where its pages do not translate. -/
def State.parcelBytes (s : State) (c : Nat) (p : Par) : List (Nat × Nat) :=
  match s.physical c .read .supervisor 0 (piecesOf p.base p.len) with
  | .ok l => l
  | .error _ => []

/-- An access to the parcel that passed the directory before the POST has not performed: one of a scalar stream, or a request
of a word that is on its way (R154). -/
def State.parcelBusy (s : State) (c : Nat) (p : Par) : Bool :=
  let ps := s.parcelBytes c p
  let inside := fun (loc : Nat) => ps.any fun q => decide (q.1 ≤ loc) && decide (loc < q.1 + q.2)
  (s.tiles.any fun kv => kv.2.ctx == some c && (kv.2.tasks.toList.any fun y => y.stream.any fun a => inside a.loc)) ||
  s.pkts.any fun q => match q with
    | .req t _ _ loc .. => (s.tileAt t).ctx == some c && inside loc
    | _ => false

/-- POST at the head: it drains, translates its counter, and offers the parcel (R154). -/
def State.postHead (s : State) (t : Nat) (x : Entry) : Res State :=
  let c := (s.tileAt t).ctx.getD 0
  let pkg := x.b.toNat % 256
  if x.b.toNat / 2 ^ 16 ≠ 0 then illegalAt x.b
  else match s.parIn c x.a (· == 2) with
    | none => .error .wait
    | some p =>
      if x.took ≠ 0 || s.parcelBusy c p then .error .wait
      else do
        s.liveCheck t pkg x.a .read
        let ctr ← s.linkCounter t x
        let ps ← s.physical c .read x.level (dieOf t) (piecesOf p.base p.len)
        let o : Offer := ⟨s.pkg.toNat, c, pkg, bits x.b.toNat 8 8, x.a, p.len⟩
        let s1 := s.updTile t fun u =>
          { u with
            lq := u.lq.filter fun e => e.uid != x.uid
            air := u.air ++ [{ x with stage := 2, ctr := ctr, era := (s.ctxAt c).era }] }
        let bs := ps.flatMap fun q => s.marked q.1 q.2
        let s2 : State := { s1 with transits := s1.transits ++ [⟨o, 0, s.ns + s.peerTmo c, some (t, x.uid)⟩] }
        .ok (if pkg = s.pkg.toNat then s2 else s2.tell pkg (.offer o bs))

/-- The POST of a transit ends at its sender: status register, then the add to its counter is under way, an add of 0 too, and with
it done the token completes (R154, R260, R271). -/
def State.endWord (s : State) (w : Option (Nat × Nat)) (status n : Nat) : State :=
  match w.bind fun p => ((s.tileAt p.1).air.find? fun e => e.uid == p.2).map fun x => (p.1, x) with
  | none => s
  | some (t, x) =>
    let s := s.updTile t fun u => match x.word with
      | .post d _ _ => u.updTask x.task fun y => y.sset d (BitVec.ofNat 64 status)
      | _ => u
    match x.ctr with
    | none => s.updTile t fun u => u.doneL x
    | some a => (s.updTile t fun u => u.updL x.uid fun (e : Entry) => { e with stage := 3, out := [n] }).sendPkt t
        (.counter t x.task x.uid (BitVec.ofNat 64 a) n)

/-- The oldest transit of an offer at a stage, and the transits without it or with it moved on. Two POSTs of one handle to one
place that overlap are two transits (R154). -/
def State.transit (s : State) (o : Offer) (stage : Nat) : Option Transit :=
  s.transits.find? fun t => t.offer == o && t.stage == stage
def State.dropTransit (s : State) (t : Transit) : State := { s with transits := s.transits.erase t }
def State.moveTransit (s : State) (t : Transit) (stage : Nat) : State :=
  { s with transits := s.transits.map fun u => if u = t then { t with stage := stage } else u }

/-- The POST of a transit has ended with a status (R147, R154). -/
def State.endPost (s : State) (t : Transit) (status : Nat) : State :=
  let o := t.offer
  let s := s.dropTransit t
  let s :=
    if s.shared o then match s.par o.srcCtx o.handle with
      | none => s
      | some p => s.putPar o.srcCtx (if status = 0 then { p with last := 0 } else { p with state := 1, last := status, peer := 0 })
    else match s.parIn o.srcCtx o.handle fun n => n == 2 || n == 3 with
      | none => s
      | some p => s.putPar o.srcCtx (if status = 0 then
          { p with state := 5, last := 0, peer := peerField o.dstPkg o.dstCtx }
        else { p with state := 1, last := status, peer := 0 })
  s.endWord t.word status (if status = 0 then o.len else 0)

/-- The entries of a context's arrival queue that are in use or reserved (R154). -/
def State.arrivalsHeld (s : State) (c : Nat) : Nat :=
  (s.ctxAt c).arrivals.length +
    (s.transits.filter fun t => t.offer.dstPkg == s.pkg.toNat && t.offer.dstCtx == c && t.stage == 1).length

/-- The receiver's decision on an offer: the first condition that fails, or what it reserves (R154). -/
def State.decideOffer (s : State) (o : Offer) : Nat × State :=
  if !(s.ctxAt o.dstCtx).exists_ then (4, s)
  else if 64 ≤ s.arrivalsHeld o.dstCtx then (1, s)
  else if s.shared o then (0, s)
  else match s.dirFree o.dstCtx o.handle with
    | none => (2, s)
    | some j =>
      match s.heapRoom o.dstCtx o.len o.handle with
      | none => (3, s)
      | some b =>
        let p : Par := { slot := j, handle := o.handle, base := b, len := o.len, state := 3, peer := peerField o.dstPkg o.dstCtx }
        (0, s.putPar o.dstCtx p)

/-- The receiver accepted: the sender's entry is IN_TRANSIT (R147). -/
def State.senderMoves (s : State) (t : Transit) : State :=
  let o := t.offer
  let s := s.moveTransit t 1
  match s.parIn o.srcCtx o.handle (· == 2) with
  | none => s
  | some p => s.putPar o.srcCtx { p with state := 3, peer := peerField o.dstPkg o.dstCtx }

/-- PARCEL_OFFER (R147, R154): an offer of this package's own, or of a peer, reaches its receiver here. -/
def execParcelOffer (o : Offer) (s : State) : Out :=
  if o.dstPkg ≠ s.pkg.toNat then .next s
  else if o.srcPkg = s.pkg.toNat then
    match s.transit o 0 with
    | none => .next s
    | some t =>
      match s.decideOffer o with
      | (0, s') => .next (s'.senderMoves t)
      | (n, s') => .next (s'.endPost t n)
  else if s.transits.any (fun t => t.offer == o) || o.len % 64 ≠ 0 || o.len = 0 || 2 ^ 28 < o.len then .next s
  else match s.takeFlits o.srcPkg 1 with
    | none => .next s
    | some s1 =>
      match s1.decideOffer o with
      | (n, s') => .next (({ s' with
          transits := if n = 0 then s'.transits ++ [⟨o, 1, s.ns, none⟩] else s'.transits } : State).tell o.srcPkg (.verdict o n))

/-- PARCEL_OFFER_ANSWER (R147, R154): a peer's verdict on an offer of this package; 0 accepts. -/
def execParcelOfferAnswer (o : Offer) (status : Nat) (s : State) : Out :=
  if o.dstPkg = s.pkg.toNat || o.srcPkg ≠ s.pkg.toNat || 4 < status then .next s
  else match s.transit o 0, s.takeFlits o.dstPkg 1 with
    | some t, some s => .next (if status = 0 then s.senderMoves t else s.endPost t status)
    | _, _ => .next s

/-- The add to the parcel arrival counter; one that faults is skipped and reported (R155, R431), one that meets poison is fatal
(R382). -/
def State.arrivalAdd (s : State) (c n : Nat) : Res State :=
  let a := (s.ctxAt c).record.parcnt
  let bad := s.postEvent c 7 ([2, 0, 0, 0, 0, 0, 0, 0] ++ le 8 a.toNat)
  if a.toNat % 8 ≠ 0 || !canonical a then .ok bad
  else match s.translate c a .amo .supervisor with
    | .ok loc => s.addTo loc n
    | .error (.fatal k) => .error (.fatal k)
    | .error _ => .ok bad

/-- The bytes of a parcel in place, its entry ARRIVED in place of a tombstone of the same handle (log 59), the queue entry, the
counter add (R155, R385). -/
def State.arrive (s : State) (o : Offer) (p : Par) : Res State :=
  let s := match s.dirFindIn o.dstCtx o.handle (· == 5) with
    | none => s
    | some j => s.dirDelete o.dstCtx j
  let s := s.putPar o.dstCtx { p with state := 4, peer := peerField o.srcPkg o.srcCtx }
  (s.updCtx o.dstCtx fun x => { x with arrivals := x.arrivals ++ [o.handle] }).arrivalAdd o.dstCtx o.len

/-- Bytes written to physical pieces with their marks. -/
def State.scatterMarked (s : State) : List (Nat × Nat) → List PByte → State
  | [], _ => s
  | (p, n) :: r, bs => (s.storeMarked p (bs.take n)).scatterMarked r (bs.drop n)

/-- The bytes of a parcel of this package's own, as its sender holds them. -/
def State.sentBytes (s : State) (o : Offer) : Res (List PByte) :=
  match s.parIn o.srcCtx o.handle (· == 3) with
  | none => .error .wait
  | some q => (s.physical o.srcCtx .read .supervisor 0 (piecesOf q.base q.len)).map fun ps => ps.flatMap fun r => s.marked r.1 r.2

/-- The parcel is in place at its receiver: its bytes, then `arrive` (R385). While a page of the receiver's heap does not translate, it
is on its way (log 76). -/
def State.landParcel (s : State) (o : Offer) (p : Par) (bs : List PByte) : Res State := do
  let pieces ← s.physical o.dstCtx .write .supervisor 0 (piecesOf p.base p.len)
  (s.scatterMarked pieces bs).arrive o p

/-- PARCEL_LAST_BYTE_LANDS (R147, R155, R385): every byte is at the receiver. The bytes of a peer's parcel come with the
event; those of this package's own are the sender's. -/
def execParcelLastByteLands (o : Offer) (bytes : List PByte) (s : State) : Out :=
  match if o.dstPkg = s.pkg.toNat then s.transit o 1 else none with
  | none => .next s
  | some tr =>
    match s.parIn o.dstCtx o.handle (· == 3) with
    | none => .next s
    | some p =>
      if s.shared o then s.eventCtx o.dstCtx ((s.arrive o p).map fun s' => s'.moveTransit tr 2)
      else if o.srcPkg = s.pkg.toNat then
        match s.sentBytes o with
        | .error e => s.eventCtx o.srcCtx (.error e)
        | .ok bs => s.eventCtx o.dstCtx ((s.landParcel o p bs).map fun s' => s'.moveTransit tr 2)
      else match if bytes.length = o.len then s.takeFlits o.srcPkg (ceilDiv o.len 256) else none with
        | none => .next s
        | some s1 => s.eventCtx o.dstCtx ((s1.landParcel o p bytes).map fun s' => (s'.dropTransit tr).tell o.srcPkg (.delivered o))

/-- PARCEL_ACKNOWLEDGEMENT (R147, R154): the receiver's acknowledgement reaches the sender. A receiver of this package that is gone
ends the POST as PEER_LOST (log 76). -/
def execParcelAcknowledgement (o : Offer) (s : State) : Out :=
  let own := decide (o.dstPkg = s.pkg.toNat)
  match if o.srcPkg = s.pkg.toNat then s.transit o 3 else none with
  | some t => .next (s.endPost t 5)
  | none =>
  match if o.srcPkg = s.pkg.toNat then s.transit o (if own then 2 else 1) else none,
    s.takeFlits o.dstPkg (if own then 0 else 1) with
  | some t, some s => .next (s.endPost t 0)
  | _, _ => .next s

/-! ### Dead peers -/

/-- A request to a peer that is now dead is given up: its slot returns and its word fails there (R312, R315). -/
def State.dropPeer (s : State) (p : Pkt) : Res State :=
  match p with
  | .peer t _ _ _ a op _ (.word uid off) _ home =>
    let u := s.tileAt t
    let u := match op with
      | .read _ | .amo .. => u.landed.freeSlotAt home
      | _ => u.landed
    let k : AccKind := match op with
      | .read _ => .read
      | .write _ => .write
      | _ => .amo
    (s.setTile t u).answerL t uid off (some ⟨.peerDead, a, k, 0⟩)
  | _ => .ok s

/-- A state transformer for context `c` over a list: an element whose effect does not go through is passed over, and poisoned data
consumed ends the context (R382). -/
def foldRes {α : Type} (c : Nat) (f : State → α → Res State) (l : List α) (s : State) : State :=
  l.foldl (fun s x => match f s x with
    | .ok s' => s'
    | .error (.fatal k) => s.fatalCtx c k
    | .error _ => s) s

/-- Peer `p` has been marked dead for context `c`: requests out fail, its POSTs end PEER_LOST, and what was reserved for
parcels of the peer is released (R147, R312, R315). -/
def State.peerGone (s : State) (c p : Nat) : State :=
  let lost := fun (q : Pkt) => match q with
    | .peer t _ pkg .. => pkg == p && (s.tileAt t).ctx == some c
    | _ => false
  let out := s.pkts.filter lost
  let s : State := { s with pkts := s.pkts.filter fun q => !lost q }
  let s := foldRes c State.dropPeer out s
  let mine := s.transits.filter fun t => t.offer.srcPkg == s.pkg.toNat && t.offer.srcCtx == c && t.offer.dstPkg == p
  let s := mine.foldl (fun s (t : Transit) => s.endPost t 5) s
  let theirs := s.transits.filter fun t => t.offer.srcPkg == p && t.offer.dstPkg == s.pkg.toNat && t.offer.dstCtx == c
  let s := theirs.foldl State.release s
  { s with transits := s.transits.filter fun t => !theirs.contains t }

/-- The peers whose DEADPEER bit a write has set (R400). -/
def State.newlyDead (s old : State) (c n : Nat) : List Nat :=
  ((List.range 64).map fun i => 64 * n + i).filter fun p => s.deadBit c p && !old.deadBit c p

/-- MTS (R82, R103); a write of DEADPEER marks peers dead (R315, R400). -/
def execMts (g : Guard) (d : BitVec 5) (n : BitVec 10) (s : State) : Out :=
  s.plain (.mts g d n) g { src := [d] } fun s => do
    let s' ← s.setSreg n.toNat (s.getS d)
    if n.toNat / 4 = 0x050 / 4 then
      .ok ((s'.newlyDead s s.myCtx (n.toNat % 4)).foldl (fun x p => x.peerGone s.myCtx p) s')
    else .ok s'

/-- PEER_TIMEOUT (R315): something of the context has waited for the peer beyond the PEERTMO of its sending. What lands in the
cycle of the expiry is in time. A peer that is marked dead already is not marked or told of again. -/
def execPeerTimeout (ctx peer : Nat) (s : State) : Out :=
  let old := fun due => decide (due < s.ns)
  let waits := (s.pkts.any fun q => match q with
      | .peer t _ pkg _ _ _ _ _ at_ _ => pkg == peer && (s.tileAt t).ctx == some ctx && old at_
      | _ => false) ||
    s.transits.any fun t =>
      t.offer.srcPkg == s.pkg.toNat && t.offer.srcCtx == ctx && t.offer.dstPkg == peer && old t.due
  if peer = s.pkg.toNat || !waits then .next s
  else if s.deadBit ctx peer then .next (s.peerGone ctx peer)
  else
    let s := s.updCtx ctx fun x => { x with dead := x.dead ||| ((1 : BitVec 256) <<< peer) }
    .next ((s.postEvent ctx 1 []).peerGone ctx peer)

/-! ### Packets arriving -/

/-- The place of a packet taken by its answer. -/
def State.replacePkt (s : State) (k : Nat) (p : Pkt) : State := { s with pkts := s.pkts.eraseIdx k ++ [p] }
def State.dropPkt (s : State) (k : Nat) : State := { s with pkts := s.pkts.eraseIdx k }

/-- Whether a request of packet `q` was sent before on the same circuit as one from tile `t` to tile `u` (R309). -/
def Pkt.sameCircuit (t u : Nat) : Pkt → Bool
  | .req t' _ _ loc _ _ way _ => t' == t && way != [] && sramTile loc == some u
  | _ => false

/-- A request has reached its target: one on a circuit once each of its flits has, behind every earlier one of its circuit
(R309); one on VC0 in the order of its FIFOs (R303). -/
def State.arrived (s : State) (k : Nat) (t loc : Nat) (way : List (Nat × Nat × Nat)) (flits : List Flit) : Bool :=
  let u := (sramTile loc).getD t
  if way.isEmpty then t == u || s.inOrder k t u
  else flits.all (fun f => f.pos == way.length) && !(s.pkts.take k).any fun q => q.sameCircuit t u

/-- Request k performs at its location, once a slice port admits it (R282), and its response or acknowledgement leaves. -/
def State.serve (s : State) (k t j : Nat) (op : MemOp) (loc : Nat) (dest : Dest) (home : Nat) : Res State := do
  let s1 ← s.admitAt t loc op.size
  match op with
  | .move n got => .ok (s1.replacePkt k (.resp t j (got ++ s.marked loc n) dest home false))
  | .load _ sg =>
    let (s', bs) ← s1.perform op loc 0
    .ok (s'.replacePkt k (.resp t j (clean bs) dest home sg))
  | .add _ =>
    let (s', bs) ← s1.perform op loc 0
    .ok (s'.replacePkt k (.resp t j (clean bs) dest home false))
  | .amo .. =>
    match s1.perform op loc 0 with
    | .error (.trap _) => .ok (s1.replacePkt k (.resp t j [] dest home true))
    | .error e => .error e
    | .ok (s', bs) => .ok (s'.replacePkt k (.resp t j (clean bs) dest home true))
  | _ =>
    let (s', _) ← s1.perform op loc 0
    .ok (s'.replacePkt k (.ack t j dest))

/-- REMOTE_REQUEST_ARRIVAL (R271, R311): request k performs where its location is. An atomic that would store a
PARCEL-aperture address changes nothing; its response bears no bytes (R132, R238). -/
def execRemoteRequestArrival (k : Nat) (s : State) : Out :=
  match s.pkts[k]? with
  | some (.req t j op loc dest home way flits) =>
    if s.arrived k t loc way flits then s.eventAt t (s.serve k t j op loc dest home) else .next s
  | _ => .next s

/-- n bytes of a request that moves more of them perform, before the others (R246). -/
def State.servePart (s : State) (k n : Nat) : Out :=
  match s.pkts[k]? with
  | some (.req t j op loc dest home way flits) =>
    if n = 0 || op.size ≤ n || !s.arrived k t loc way flits then .next s
    else
      let left := fun (s : State) op => { s with pkts := s.pkts.set k (.req t j op (loc + n) dest home way flits) }
      s.eventAt t ((s.admitAt t loc n).bind fun s1 => match op with
        | .move m got => .ok (left s1 (.move (m - n) (got ++ s.marked loc n)))
        | .put bs => .ok (left (s1.storeMarked loc (bs.take n)) (.put (bs.drop n)))
        | _ => .error .wait)
  | _ => .next s

/-- The answer to the request of a word that holds its task has come (R127, R131, R271): the word is done, or it traps at its
next issue where the owner has refused it (R132). -/
def State.heldLand (s : State) (t j : Nat) (d : BitVec 5) (bs : List PByte) (sg : Bool) : State :=
  s.updTile t fun u =>
    if bs = [] then u.updTask j fun y => { y with asked := .escape }
    else
      { ((u.unyield j).unqueue j).updTask j fun y =>
          { (y.sset d (extend bs.length sg (leNat (rawBytes bs)))).advance 1 with asked := .no } with
        last := Fin.ofNat 4 j
        lastIssue := s.cyclesAt t
        trapWait := u.trapWait &&& ~~~((1 : BitVec 4) <<< j) }

/-- The answer to request `off` of a word of V or C has come; `bs` is what a read brings. -/
def State.landElse (s : State) (t uid off : Nat) (bs : List PByte) : State :=
  match (s.tileAt t).vWaiting uid with
  | some (x, w) => s.vLand t x w off (rawBytes bs)
  | none =>
    match (s.tileAt t).cq.head? with
    | none => s
    | some x => if x.uid = uid then s.cLand t x off bs else s

/-- The bytes of an answer land where the word that asked reserved their place (R236, R238, R311). -/
def State.landBytes (s : State) (t uid off : Nat) (bs : List PByte) : Res State :=
  match (s.tileAt t).findL uid with
  | none => .ok (s.landElse t uid off bs)
  | some x =>
    match x.word with
    | .rld .. => (s.storeMarked (sramLoc t (offsetOf x.b + off)) bs).answerL t uid off none
    | .ramo _ _ _ _ f =>
      if bs = [] then s.answerL t uid off (some ⟨.parcelEscape, x.a, .amo, 0⟩)
      else
        let v := extend (wdBytes (ramoWide f)) true (leNat (rawBytes bs))
        (s.store (sramLoc t (offsetOf x.c)) (le 8 v.toNat)).answerL t uid off none
    | _ => s.answerL t uid off none

/-- REMOTE_RESPONSE_LANDING (R311, R312): response k, or a peer's answer to read or atomic k, lands at its issuer. -/
def execRemoteResponseLanding (k : Nat) (ans : PeerAns) (s : State) : Out :=
  match s.pkts[k]? with
  | some (.resp t j bs dest home sg) =>
    let s := (s.dropPkt k).updTile t Tile.landed
    match dest with
    | .reg d => .next (s.updTile t fun u => (u.popAccess j).updTask j fun y =>
        y.sset d (extend bs.length sg (leNat (rawBytes bs))))
    | .held d => .next (s.heldLand t j d bs sg)
    | .count loc target => .next (s.counted t j loc (leNat (rawBytes bs)) target)
    | .word uid off =>
      let s := if ((s.tileAt t).findL uid).isSome then s.updTile t fun u => u.freeSlotAt home else s
      s.eventAt t (s.landBytes t uid off bs)
    | .fetch uid => .next (s.updTile t fun u => u.updL uid fun (e : Entry) => { e with inb := e.inb ++ bs })
    | .none => .next s
  | some (.peer t _ pkg _ a op _ (.word uid off) due home) =>
    let n := match op with
      | .read n => n
      | .amo _ w _ _ => wdBytes w
      | _ => 0
    if n = 0 || due < s.ns then .next s
    else
      let s1 := (s.dropPkt k).updTile t fun u => u.landed.freeSlotAt home
      match ans with
      | .ok bs =>
        match if bs.length = n then s1.takeFlits pkg 1 else none with
        | none => .next s
        | some s1 => s.eventAt t (s1.landBytes t uid off bs)
      | .bad c => s.eventAt t (s1.answerL t uid off (some ⟨Cause.ofCode c, a, match op with
          | .read _ => .read
          | _ => .amo, 0⟩))
  | _ => .next s

/-- WRITE_ACK_LANDING (R237, R308): acknowledgement k, or a peer's answer to write or counter add k, lands at its issuer. -/
def execWriteAckLanding (k : Nat) (ans : PeerAns) (s : State) : Out :=
  match s.pkts[k]? with
  | some (.ack t j dest) =>
    let s := (s.dropPkt k).updTile t Tile.landed
    match dest with
    | .reg _ => .next (s.updTile t fun u => u.popAccess j)
    | .word uid off =>
      s.eventAt t (if ((s.tileAt t).findL uid).isSome then s.answerL t uid off none else .ok (s.landElse t uid off []))
    | _ => .next s
  | some (.peer t _ _ _ a op _ (.word uid off) due _) =>
    let s1 := (s.dropPkt k).updTile t Tile.landed
    match op with
    | .write _ | .counterAdd _ =>
      if due < s.ns then .next s
      else match ans with
      | .ok _ => s.eventAt t (s1.answerL t uid off none)
      | .bad c => s.eventAt t (s1.answerL t uid off (some ⟨Cause.ofCode c, a, match op with
          | .write _ => .write
          | _ => .amo, 0⟩))
    | _ => .next s
  | _ => .next s

/-- The add of an RLD or a POST at the counter's location, which it holds translated (R235); the adds of the RLDs of one task are made
in the order in which their last responses have landed (R320). Where another tile owns the counter, the add is acknowledged
(R271). -/
def State.heldAdd (s : State) (k t j : Nat) (x : Entry) (loc n : Nat) : Res State :=
  let earlier := fun (p : Pkt) => match p with
    | .counter t' j' uid .. => t' == t && j' == j && ((s.tileAt t).findL uid).any fun e => isRld e.word
    | _ => false
  if isRld x.word && (s.pkts.take k).any earlier then .error .wait
  else do
    let s1 ← s.admitAt t loc 8
    let s2 ← s1.addTo loc n
    if elsewhere t loc then .ok (s2.replacePkt k (.ack t j (.word x.uid n)))
    else ((s2.dropPkt k).updTile t Tile.landed).answerL t x.uid n none

/-- RST_COUNTER_MESSAGE (R235, R237): counter message k is translated at its target, on this package, and adds; so does the add of
an RLD or of a POST (R236, R154, R320). One for another tile's SRAM keeps its place on VC0 (R303). -/
def execRstCounterMessage (k : Nat) (s : State) : Out :=
  match s.pkts[k]? with
  | some (.counter t j uid a n) =>
    match (s.tileAt t).findL uid with
    | none => .next (s.dropPkt k)
    | some x =>
      match s.counterLoc t x a with
      | .ok loc =>
        if elsewhere t loc && !s.inOrder k t ((sramTile loc).getD t) then .next s
        else if !isRst x.word then s.eventAt t (s.heldAdd k t j x loc n)
        else s.eventAt t ((s.admitAt t loc 8).bind fun s => (s.addTo loc n).map fun s' => s'.replacePkt k (.ack t j (.word uid n)))
      | .error (.trap i) => s.eventAt t (((s.dropPkt k).updTile t Tile.landed).answerL t uid n (some i))
      | .error e => s.eventAt t (.error e)
  | _ => .next s

/-- What a peer's request finds here (R234, R349): its location, or the cause of its answer. -/
def State.peerLoc (s : State) (q : PeerReq) (n : Nat) (k : AccKind) : Except Stop Nat :=
  if !(s.ctxAt q.dstCtx).exists_ || s.pairByte q.dstCtx q.srcPkg != q.srcCtx || q.srcCtx == 0xFF then
    trapAcc .apertureMiss q.addr k 0
  else if (k == .amo) && q.addr.toNat % n != 0 then trapAcc .misaligned q.addr k 0
  else if !canonical q.addr then trapAcc .apertureMiss q.addr k 0
  else s.translate q.dstCtx q.addr k (if q.sup then .supervisor else .user)

/-- A peer's request performs, once a slice port admits it (R305): the state after it and the bytes of its answer. -/
def State.peerPerform (s : State) (q : PeerReq) : Res (State × List PByte) :=
  match q.op with
  | .read n => do
    let loc ← s.peerLoc q n .read
    let s ← s.admitCtx q.dstCtx loc n
    .ok (s, s.marked loc n)
  | .write bs => do
    let loc ← s.peerLoc q bs.length .write
    let s ← s.admitCtx q.dstCtx loc bs.length
    .ok (s.storeMarked loc bs, [])
  | .amo op w v e => do
    let loc ← s.peerLoc q (wdBytes w) .amo
    let s ← s.admitCtx q.dstCtx loc (wdBytes w)
    let (s', bs) ← s.perform (.amo op w v e) loc q.addr
    .ok (s', clean bs)
  | .counterAdd n => do
    let loc ← s.peerLoc q 8 .amo
    let s ← s.admitCtx q.dstCtx loc 8
    let s' ← s.addTo loc n
    .ok (s', [])

/-- The bytes that a peer's request covers; a request lies within 256 bytes (R236, R237). -/
def peerBytes (q : PeerReq) : Nat :=
  match q.op with
  | .read n => n
  | .write bs => bs.length
  | .amo _ w _ _ => wdBytes w
  | .counterAdd _ => 8

/-- CROSS_PACKAGE_REQUEST (R234, R314, R349): a peer's request performs and is answered, once for the flit that brought it
(R397, R403). While no slice port admits it, it waits with its flit. -/
def execCrossPackageRequest (q : PeerReq) (s : State) : Out :=
  let amo := match q.op with
    | .amo .. | .counterAdd _ => true
    | _ => false
  if peerBytes q = 0 || (!amo && q.addr.toNat % 256 + peerBytes q > 256) then .next s
  else
    let ans := fun (s : State) a => s.tell q.srcPkg (.answer q.srcPkg q.srcCtx a)
    match s.takeFlits q.srcPkg 1 with
    | none => .next s
    | some s1 =>
      match s1.peerPerform q with
      | .ok (s', bs) => .next (ans s' (.ok bs))
      | .error (.trap i) => .next (ans s1 (.bad i.cause.code.toNat))
      | .error (.fatal k) => .next (s1.fatalCtx q.dstCtx k)
      | .error _ => .next s

/-- FLIT_OUT_OF_RECTANGLE (R304, R381): a router discards the flit, and its context ends. -/
def execFlitOutOfRectangle (tile ctx : Nat) (s : State) : Out :=
  if (s.ctxAt ctx).exists_ then .next (s.fatal tile ctx 8) else .next s

end Sys2Proof.Machine
end

