-- ==== Sys2Proof/Machine/Pod.lean ====
section
/-! DEFINITION. Pod.lean: fibres, floors and the base spread (R388-R390), the lease agent and its words (R241, R242, R391-R395),
losses of light (R398, R399, R404), and the link layer (R396, R397). -/

namespace Sys2Proof.Machine

/-! ### Lanes -/

/-- The fibre of the lane of a pair on a line (R388). -/
def fibreOf (a d line : Nat) : Nat := ((a ^^^ d) + 256 - 8 * line % 256) % 256

/-- The key of the lane to a peer on a line. -/
def laneKey (peer line : Nat) : Nat := 32 * peer + line
def State.laneFibre (s : State) (k : Nat) : Nat := fibreOf s.pkg.toNat (k / 32) (k % 32)

/-- Egress fibres of a package, and as many of ingress (R1, R13); each has 8 positions. -/
def State.fibres (s : State) : Nat := if s.grade = .p1 then 64 else 256

/-- A lane that is in service, and one that retunes (R393). -/
def Lane.up (o : Own) : Lane := { own := o, active := true }
def Lane.tuning (o : Own) : Lane := { own := o, active := false, retuning := true }

/-- The lanes of a pair, by line. -/
def State.pairLanes (s : State) (peer : Nat) : Tab Lane := s.pod.lanes.filter fun kv => kv.1 / 32 == peer

/-- Positions of an own fibre that are tuned (R388), those of lost lanes among them (R398). -/
def State.tunedOn (s : State) (f : Nat) : Nat :=
  (s.pod.lanes.filter fun kv => s.laneFibre kv.1 == f).length + (s.pod.lost.filter fun kv => s.laneFibre kv.1 == f).length

/-- Bit ℓ: line ℓ of the own comb is lit (R404). -/
def State.litMask (s : State) : Nat :=
  (List.range 4).foldl (fun m i => if s.pod.els.getLsbD i then m + 255 * 2 ^ (8 * i) else m) 0

def State.setLanes (s : State) (l : Tab Lane) : State := { s with pod := { s.pod with lanes := l } }

/-- Keys in order of a measure. -/
def insertOn {α : Type} (m : α → Nat) (x : α) : List α → List α
  | [] => [x]
  | y :: r => if m x ≤ m y then x :: y :: r else y :: insertOn m x r
def sortOn {α : Type} (m : α → Nat) (l : List α) : List α := l.foldr (insertOn m) []

/-! ### Records and outcomes -/

/-- A link event record (R401). -/
def State.linkRecord (s : State) (kind : Nat) (peer els : Option Nat) (cause before after first : Nat) : State :=
  s.postMgmt 1 kind none none (le 2 kind ++ le 2 (peer.getD 0x8000) ++ le 1 (els.getD 0xFF) ++ le 1 cause ++ le 2 0 ++
    le 4 before ++ le 4 after ++ le 4 first ++ le 4 0 ++ le 8 s.ns)

/-- An entry of a context's LEASEQ, VALID and OVF aside (R395). -/
def leaseEntry (peer lanes asked status : Nat) (seq : BitVec 16) : Word :=
  BitVec.ofNat 64 (peer * 2 ^ 48 + lanes * 2 ^ 40 + asked * 2 ^ 32 + status * 2 ^ 24 + seq.toNat)
def State.pushLease (s : State) (c : Nat) (w : Word) : State :=
  s.updCtx c fun x =>
    if x.leaseq.length < 16 then { x with leaseq := x.leaseq ++ [w] }
    else { x with leaseq := x.leaseq.drop 1 ++ [w], leaseOvf := true }

/-- The pairs of context and peer that lanes taken away belong to, each once. -/
def owners (taken : List (Nat × Nat)) : List (Nat × Nat) :=
  taken.foldl (fun l x => if l.contains x then l else l ++ [x]) []

/-- One entry for each pair of context and peer that lanes are taken from, with their number (R395). -/
def State.pushTaken (s : State) (status : Nat) (taken : List (Nat × Nat)) : State :=
  (owners taken).foldl (fun s cp =>
    s.pushLease cp.1 (leaseEntry cp.2 (taken.filter (· == cp)).length 0 status 0)) s

/-- An ASK resolves: its entry, then the link counter is to receive its add (R395). -/
def State.resolveAsk (s : State) (a : Ask) (status : Nat) : State :=
  let s := s.pushLease a.ctx (leaseEntry a.peer a.got.length a.want status a.seq)
  if a.ctr.isNone then s else { s with pod := { s.pod with adds := s.pod.adds ++ [a] } }

/-- The oldest counter add of the lease agent, at the location that its ASK holds translated, once a slice port admits it (R235,
R241, R282, R395). -/
def State.leaseAdd (s : State) : Out :=
  match s.pod.adds with
  | [] => .next s
  | a :: r =>
    s.eventCtx a.ctx (a.ctr.toList.foldl (fun x l => x.bind fun s => (s.admitCtx a.ctx l 8).bind fun s => s.addTo l 1)
      (.ok { s with pod := { s.pod with adds := r } }))

/-- ASKs of which nothing retunes and nothing more comes resolve (R395). -/
def State.settleAsks (s : State) : State :=
  let ready := fun (a : Ask) => a.decided && a.moving.isEmpty
  (s.pod.asks.filter ready).foldl (fun s a =>
      s.resolveAsk a (if a.got.length = a.want then 0 else if a.got ≠ [] then 1 else if a.noQuota then 2 else 3))
    { s with pod := { s.pod with asks := s.pod.asks.filter fun a => !ready a } }

/-! ### The lease words -/

/-- Lanes that a context leases, to one peer and to all (R394). -/
def State.leasesTo (s : State) (c peer : Nat) : Tab Lane := (s.pairLanes peer).filter fun kv => kv.2.leasedTo c
def State.leases (s : State) (c : Nat) : Nat := (s.pod.lanes.filter fun kv => kv.2.leasedTo c).length
def State.quotaLeft (s : State) (c : Nat) : Nat := (s.ctxAt c).record.quota.toNat - s.leases c

/-- The peer is another member of the pod. -/
def State.isPeer (s : State) (p : Nat) : Bool := p != s.pkg.toNat && s.pod.members.contains p

/-! ### Free positions (R391) -/

/-- A new lane of a pair retunes (R393). -/
def State.tuneLane (s : State) (peer line : Nat) (o : Own) : State :=
  s.setLanes (s.pod.lanes.put (laneKey peer line) (.tuning o))

/-- A line may join a pair: the pair has no lane on it, none that is lost either (R398), the package has its fibre (R1), and
its ELS is lit. -/
def State.canJoin (s : State) (peer l : Nat) : Bool :=
  (s.pod.lanes.find (laneKey peer l)).isNone && (s.pod.lost.find (laneKey peer l)).isNone &&
  decide (fibreOf s.pkg.toNat peer l < s.fibres) && s.pod.els.getLsbD (l / 8)

/-- What the agent has done: the state, the lines taken for the pair under way, and the leases taken away. -/
structure Cycle where
  s : State
  got : List Nat := []
  taken : List (Nat × Nat) := []

/-- A line for a pair from a free position. -/
def Cycle.free (x : Cycle) (peer : Nat) (o : Own) (room line : Nat) : Cycle :=
  if x.got.length < room && decide (x.s.tunedOn (fibreOf x.s.pkg.toNat peer line) < 8) then
    { x with s := x.s.tuneLane peer line o, got := x.got ++ [line] }
  else x

/-- Up to `room` lanes for a pair at once, from positions that are free at both ends; which are free at the far end, nothing
tells (log 64). -/
def State.grabNow (s : State) (peer : Nat) (o : Own) (room : Nat) : Cycle :=
  let n := s.pod.tries
  let lines := (List.range 32).filter fun l => s.canJoin peer l && Config.farFree n peer l
  lines.foldl (fun x l => x.free peer o room l) { s := { s with pod := { s.pod with tries := n + 1 } } }

/-- LEASE.ASK at the head (R241, R391, R392, R394): what free positions give at once; the rest waits for the boundary. -/
def State.leaseAskHead (s : State) (t : Nat) (x : Entry) : Res State := do
  let c := (s.tileAt t).ctx.getD 0
  let peer := x.a.toNat % 256
  let ctr ← s.linkCounter t x
  let seq := (s.ctxAt c).asks + 1
  let term := max 200 (min x.c.toNat s.pod.termMax)
  let a : Ask :=
    { ctx := c, peer := peer, want := min x.b.toNat 255, term := term, seq := seq, ctr := ctr, era := (s.ctxAt c).era }
  let s1 := (s.updTile t fun u => u.doneL x).updCtx c fun y => { y with asks := seq }
  if a.want = 0 || !s.isPeer peer then .ok (s1.resolveAsk a 4)
  else if s.deadBit c peer then .ok (s1.resolveAsk a 5)
  else if s.quotaLeft c = 0 then .ok (s1.resolveAsk a 2)
  else
    let y := s1.grabNow peer (.lease c term s.ns) (min a.want (s.quotaLeft c))
    let a' : Ask := { a with moving := y.got, decided := y.got.length == a.want }
    .ok { y.s with pod := { y.s.pod with asks := y.s.pod.asks ++ [a'] } }

/-- The time from which a lease counts. -/
def Lane.since (l : Lane) : Nat :=
  match l.own with
  | .lease _ _ t => t
  | _ => 0

/-- A lane leaves its pair: its position is free, and an ASK that had it no longer does. -/
def State.unlane (s : State) (k : Nat) : State :=
  let asks := s.pod.asks.map fun (a : Ask) =>
    if a.peer = k / 32 then ({ a with moving := a.moving.filter (· != k % 32), got := a.got.filter (· != k % 32) } : Ask) else a
  { s with pod := { s.pod with lanes := s.pod.lanes.del k, asks := asks } }

/-- LEASE.GIVE at the head: newest leases first (R241, R392). -/
def State.leaseGiveHead (s : State) (t : Nat) (x : Entry) : State :=
  let c := (s.tileAt t).ctx.getD 0
  let mine := (sortOn (fun (kv : Nat × Lane) => kv.2.since) (s.leasesTo c (x.a.toNat % 256))).reverse
  let old := s.pod.lanes
  let s := s.updTile t fun u => u.doneL x
  (((mine.take x.b.toNat).foldl (fun s kv => s.unlane kv.1) s).restripe old true).settleAsks

/-- The record of LEASE.STAT (R242). A lane of the context that still retunes counts as leased, and its age from the grant (log 39). -/
def State.leaseRecord (s : State) (c peer : Nat) : List Byte :=
  let all := s.pairLanes peer
  let mine := s.leasesTo c peer
  let ages := mine.map fun kv => (s.ns - kv.2.since) / 1000
  le 2 (all.filter fun kv => kv.2.active).length ++ le 2 mine.length ++
    le 2 (all.filter fun kv => kv.2.retuning).length ++ le 2 (s.quotaLeft c) ++
    le 4 (min (2 ^ 32 - 1) (ages.foldl max 0)) ++ [1, 0, 0, 0]

/-- LEASE.STAT at the head (R241). -/
def State.leaseStatHead (s : State) (t : Nat) (x : Entry) : Res State :=
  s.localRecord t x x.b (s.leaseRecord ((s.tileAt t).ctx.getD 0) (x.a.toNat % 256))

/-! ### Bring-up -/

/-- The lines in the order in which pairs take them (R390). -/
def lineOrder : List Nat :=
  [0, 1, 2, 3, 8, 9, 10, 11, 16, 17, 18, 19, 24, 25, 26, 27, 4, 5, 6, 7, 12, 13, 14, 15, 20, 21, 22, 23, 28, 29, 30, 31]

/-- A fibre of a package, one of `fibres`, has a free position. -/
def hasRoom (used : Tab Nat) (fibres a f : Nat) : Bool := decide (f < fibres) && decide (used.get 0 (256 * a + f) < 8)
def tuneAt (used : Tab Nat) (a f : Nat) : Tab Nat := used.put (256 * a + f) (used.get 0 (256 * a + f) + 1)

/-- What the spread has assigned: positions in use at every package, base lanes per pair, and the pairs' lanes. -/
structure Spread where
  used : Tab Nat
  count : Tab Nat
  lanes : List (Nat × Nat × Nat)

/-- A pair takes a line if its fibre has a position at both ends (R390). -/
def Spread.take (x : Spread) (fibres limit line : Nat) (p : Nat × Nat) : Spread :=
  let f := fibreOf p.1 p.2 line
  let n := x.count.get 0 (256 * p.1 + p.2)
  if hasRoom x.used fibres p.1 f && hasRoom x.used fibres p.2 f && decide (n < limit) then
    ⟨tuneAt (tuneAt x.used p.1 f) p.2 f, x.count.put (256 * p.1 + p.2) (n + 1), x.lanes ++ [(p.1, p.2, line)]⟩
  else x

/-- Rounds of the base spread, until one in which no pair takes a line. -/
def Spread.rounds (x : Spread) (fibres limit : Nat) (pairs : List (Nat × Nat)) : List Nat → Spread
  | [] => x
  | l :: r =>
    let y := pairs.foldl (fun x p => x.take fibres limit l p) x
    if y.lanes.length = x.lanes.length then x else y.rounds fibres limit pairs r

/-- The lanes of package `id` at bring-up: floors on line 0, then base lanes (R390). The members of a pod are of one grade, and
a pair keeps to the fibres that the grade has (log 65). -/
def bringUp (fibres id : Nat) (ms : List Nat) : Tab Lane :=
  let pairs := ms.flatMap fun a => (ms.filter fun d => decide (a < d)).map fun d => (a, d)
  let floors := pairs.foldl (fun (x : Spread) p => x.take fibres 1 0 p) ⟨[], [], []⟩
  let limit := 8 * fibres / (ms.length - 1) - 1
  let all := Spread.rounds ⟨floors.used, [], []⟩ fibres limit pairs (lineOrder.drop 1)
  let own := fun (o : Own) (l : Tab Lane) (x : Nat × Nat × Nat) =>
    if x.1 = id then l.put (laneKey x.2.1 x.2.2) (.up o)
    else if x.2.1 = id then l.put (laneKey x.1 x.2.2) (.up o)
    else l
  all.lanes.foldl (own .base) (floors.lanes.foldl (own .floor) [])

def State.hasFloor (s : State) (peer : Nat) : Bool := (s.pairLanes peer).any fun kv => kv.2.own == .floor

/-- A lane that becomes the pair's floor; a lease on it ends with one REVOKED entry (R399). -/
def State.becomeFloor (s : State) (k : Nat) : State :=
  match s.pod.lanes.find k with
  | none => s
  | some l =>
    let s' := s.setLanes (s.pod.lanes.put k { l with own := .floor })
    match l.own with
    | .lease c _ _ => s'.pushTaken 6 [(c, k / 32)]
    | _ => s'

/-- The active lane with the lowest line of a pair that has no floor becomes its floor (R399). -/
def State.newFloor (s : State) (peer : Nat) : State :=
  match if s.hasFloor peer then none else (s.stripe peer).head? with
  | none => s
  | some l => s.becomeFloor (laneKey peer l)

/-- POD_BRING_UP (R390): the package takes its id and its lanes; those whose ELS is dark are out of service from the start
(R389). A pair whose line 0 gave it no lane has its lowest active line as its floor (log 65); ASKs that are queued stay so, and
no entry tells of a lease that the bring-up ends (log 65). -/
def execPodBringUp (id : BitVec 8) (members : List Nat) (s : State) : Out :=
  let ms := (List.range 256).filter fun p => members.contains p
  if !ms.contains id.toNat then .next s
  else
    let all := bringUp s.fibres id.toNat ms
    let lit := fun (kv : Nat × Lane) => s.pod.els.getLsbD (kv.1 % 32 / 8)
    let s : State := { s with
      pkg := id
      pod := { s.pod with
        members := ms
        lanes := all.filter lit
        lost := (all.filter fun kv => !lit kv).map fun kv => (kv.1, { kv.2 with active := false, lit := false })
        links := [] } }
    .next (ms.foldl State.newFloor s)

/-! ### The revoke cycle -/

/-- The donors in order: base lanes of other peers, lowest utilisation first, which is what a lane has carried in the cycle, then
leases past their term, oldest first (R391). -/
def State.donors (s : State) (peer : Nat) : List Nat :=
  let others := s.pod.lanes.filter fun kv => kv.1 / 32 != peer
  let base := others.filter fun kv => kv.2.own == .base && kv.2.active
  let old := others.filter fun kv => match kv.2.own with
    | .lease _ term since => kv.2.active && decide (since + 1000 * term ≤ s.ns)
    | _ => false
  (sortOn (fun (kv : Nat × Lane) => kv.2.beats * 2 ^ 16 + kv.1) base).map Prod.fst ++
    (sortOn (fun (kv : Nat × Lane) => kv.2.since) old).map Prod.fst

/-- A line for a pair from a donor on its fibre (R391, R393). -/
def Cycle.donate (x : Cycle) (peer : Nat) (o : Own) (room : Nat) (lines : List Nat) (k : Nat) : Cycle :=
  match x.s.pod.lanes.find k, lines.find? fun l => fibreOf x.s.pkg.toNat peer l == x.s.laneFibre k && !x.got.contains l with
  | some d, some l =>
    if x.got.length < room then
      { x with
        s := (x.s.unlane k).tuneLane peer l o
        got := x.got ++ [l]
        taken := match d.own with
          | .lease c _ _ => x.taken ++ [(c, k / 32)]
          | _ => x.taken }
    else x
  | _, _ => x

/-- The lines that the agent may take for a pair, which the far end can free (R391). -/
def State.candidates (s : State) (offers : List FarOffer) (peer : Nat) : List Nat :=
  (List.range 32).filter fun l => (offers.any fun o => o.peer == peer && o.lines.contains l) && s.canJoin peer l

/-- Up to `room` lanes for a pair: from free positions, and, with `give`, from donors. -/
def Cycle.gather (x : Cycle) (offers : List FarOffer) (give : Bool) (peer : Nat) (o : Own) (room : Nat) : Cycle :=
  let lines := x.s.candidates offers peer
  let y := lines.foldl (fun y l => y.free peer o room l) { x with got := [] }
  if give then (y.s.donors peer).foldl (fun y k => y.donate peer o room lines k) y else y

/-- An ASK at the boundary (R391, R394). One whose pair holds only its floor stays queued until it gets a lane (R393). -/
def Cycle.ask (x : Cycle) (offers : List FarOffer) (give : Bool) (q : Nat × BitVec 16) : Cycle :=
  match x.s.pod.asks.find? fun a => a.ctx == q.1 && a.seq == q.2 && !a.decided with
  | none => x
  | some a =>
    let quota := x.s.quotaLeft a.ctx
    let room := min (a.want - a.got.length - a.moving.length) quota
    let y := x.gather offers give a.peer (.lease a.ctx a.term x.s.ns) room
    let moving := a.moving ++ y.got
    let last := room = 0 || (give && (a.got ≠ [] || moving ≠ [] || 2 ≤ (x.s.pairLanes a.peer).length))
    let upd := fun (b : Ask) =>
      if b.ctx = a.ctx && b.seq = a.seq then
        ({ b with moving := moving, decided := last, noQuota := decide (quota = 0) } : Ask)
      else b
    { y with s := { y.s with pod := { y.s.pod with asks := y.s.pod.asks.map upd } } }

/-- A pair that has no lane takes one, which becomes its floor once it is active (R399). -/
def Cycle.refloor (x : Cycle) (offers : List FarOffer) (peer : Nat) : Cycle :=
  if !x.s.isPeer peer || x.s.pairLanes peer ≠ [] then x else x.gather offers true peer .base 1

/-- The far end drops lanes of the pair: base lanes, and lanes of its own contexts' leases (R391, R392). -/
def State.farDrops (s : State) (o : FarOffer) : State :=
  o.drops.foldl (fun s l =>
    match s.pod.lanes.find (laneKey o.peer l) with
    | none => s
    | some d => if l < 32 && (d.own == .base || d.own == .far) then s.unlane (laneKey o.peer l) else s) s

/-- A line that the far end takes, when a position is free or can be freed here by the same order: the lane belongs to no
context of this package (R391, R392). -/
def Cycle.farTakes (x : Cycle) (o : FarOffer) : Cycle :=
  o.takes.foldl (fun (x : Cycle) l =>
    if 32 ≤ l || !x.s.isPeer o.peer || !x.s.canJoin o.peer l then x
    else
      let y := { x with got := [] }.free o.peer .far 1 l
      (y.s.donors o.peer).foldl (fun (y : Cycle) k => y.donate o.peer .far 1 [l] k) y) x

/-! ### Losses -/

/-- The first flit to a peer that is not acknowledged, which a replay starts at (R397). -/
def State.firstSeq (s : State) (peer : Nat) : Nat := (((s.linkTo peer).unacked.head?).map BitVec.toNat).getD 0

/-- The line of a lane, in service or lost before, is dark: at this package with `here`, at the far end with `far`. A lane in
service leaves its pair, and its position stays tuned until its line is lit again (R398, R399). -/
def State.loseLane (s : State) (here far : Bool) (k : Nat) : State :=
  match (s.pod.lanes.find k).or (s.pod.lost.find k) with
  | none => s
  | some l =>
    let y : Lane := { l with active := false, retuning := false, lit := l.lit && !here, far := l.far && !far }
    ({ s with pod := { s.pod with lost := s.pod.lost.put k y } } : State).unlane k

/-- A LEASE_LOST event for each context and peer of which leases are lost (R431). -/
def State.leaseLost (s : State) (taken : List (Nat × Nat)) : State :=
  (owners taken).foldl (fun s cp => s.postEvent cp.1 5 []) s

/-- The floor of a pair that has lost it passes to its remaining lane with the lowest line, which a record tells; a lane that
retunes follows when it is active (R399, R402). -/
def State.moveFloor (s : State) (peer : Nat) : State :=
  if s.hasFloor peer || s.stripe peer = [] then s
  else
    let m := s.activeMask peer
    (s.newFloor peer).linkRecord 5 (some peer) none 0 m m 0

/-- What is lost in one event (R398): the lanes, the cause that this package's own detection gives, the module where its ELS
monitor has found it, the peers that are settled as the detecting end, and those at which the lines are dark. -/
structure Loss where
  ks : List Nat
  cause : Nat
  els : Option Nat := none
  far : List Nat := []
  dark : List Nat := []

/-- The rank of a cause when two ends detect one loss (R398). -/
def lossRank (cause : Nat) : Nat :=
  match cause with
  | 5 => 3
  | 1 => 2
  | 2 => 1
  | _ => 0

/-- The far end, which detects with cause `far` (0: it detects nothing), is the detecting end (R398). -/
def State.farSettles (s : State) (peer cause far : Nat) : Bool :=
  decide (lossRank cause < lossRank far) || (lossRank far == lossRank cause && far != 0 && decide (peer < s.pkg.toNat))

/-- The target acknowledgements that a loss took with it are sent again (R403): to each peer the k-th last of those sent before. -/
def State.resend (s : State) (again : List (Nat × Nat)) : State :=
  let sent := s.sent.reverse
  again.foldl (fun s q =>
    match (sent.filter fun m => match m with
        | .answer p _ _ => p == q.1 && flitsOf m == 0
        | _ => false)[q.2]? with
    | none => s
    | some m => s.tell q.1 m) s

/-- The flits to a peer that are not acknowledged leave again, from the first on (R397); without an active lane they wait. -/
def State.replay (s : State) (peer : Nat) : State :=
  let l := s.linkTo peer
  if l.unacked = [] || s.stripe peer = [] then s
  else ((s.updLink peer fun l => { l with outBeat := l.outBeat + 16 * l.unacked.length }).carry peer l.outBeat
      (16 * l.unacked.length)).tell peer (.replay peer (BitVec.ofNat 24 (s.firstSeq peer)))

/-- The floor that a pair without lanes asks for at once (R399). -/
def State.refloorNow (s : State) (peer : Nat) : State :=
  if !s.isPeer peer || s.pairLanes peer ≠ [] then s else (s.grabNow peer .base 1).s

/-- Lanes are lost in one event (R398, R404): the LOST entries and the records, the report, then the replay toward each
peer. -/
def State.lose (s : State) (x : Loss) : State :=
  let old := s
  let here := x.ks.filter fun k => (s.pod.lanes.find k).isSome
  let peers := (here.map (· / 32)).foldl addOnce []
  let taken := here.filterMap fun k => (s.pod.lanes.find k).bind fun l => match l.own with
    | .lease c _ _ => if l.active then some (c, k / 32) else none
    | _ => none
  let told := fun (p : Nat) => x.far.contains p
  let s : State := match x.els with
    | none => s
    | some m => { s with pod := { s.pod with els := s.pod.els &&& ~~~((1 : BitVec 4) <<< m) } }
  let s := x.ks.foldl (fun s k =>
    s.loseLane x.els.isSome (x.dark.contains (k / 32)) k) s
  let s := (((s.restripe old.pod.lanes false).pushTaken 7 taken).leaseLost taken)
  let s := match x.els with
    | none => s
    | some m => s.linkRecord 3 none (some m) 5 old.litMask s.litMask 0
  let changed := fun (p : Nat) => old.stripe p != s.stripe p && s.stripe p != []
  let s := peers.foldl (fun s p =>
    s.linkRecord 1 (some p) (if told p then none else x.els) (if told p then 4 else x.cause) (old.activeMask p) (s.activeMask p)
      (if old.stripe p != s.stripe p then s.firstSeq p else 0)) s
  let s := peers.foldl State.moveFloor s
  let s := (peers.filter fun p => !told p).foldl (fun s p =>
    s.tell p (.lost p (maskOf ((here.filter fun k => k / 32 == p).map (· % 32))) x.cause)) s
  let s := (peers.filter changed).foldl State.replay s
  (peers.foldl State.refloorNow s).settleAsks

/-- The lanes of a pair that are lost. -/
def lanesOf (l : LossSeen) (peer : Nat) : List Nat := (l.lines.filter (· < 32)).map (laneKey peer)

/-- LOSS_OF_LIGHT (R398): ingress positions of a peer are dark. -/
def execLossOfLight (peer : Nat) (l : LossSeen) (s : State) : Out :=
  let x : Loss := { ks := lanesOf l peer, cause := 1, far := if s.farSettles peer 1 l.far then [peer] else [], dark := [peer] }
  .next ((s.lose x).resend (l.again.map fun k => (peer, k)))

/-- FAR_END_LOSS_REPORT (R398): the far end has detected the loss, with a cause. -/
def execFarEndLossReport (peer : Nat) (l : LossSeen) (s : State) : Out :=
  let x : Loss := { ks := lanesOf l peer, cause := 4, far := [peer], dark := if l.far = 2 ∨ l.far = 3 then [] else [peer] }
  .next ((s.lose x).resend (l.again.map fun k => (peer, k)))

/-- ELS_FAILURE (R398, R401, R404): the 8 lines of a module are lost on every lane. -/
def execElsFailure (e : ModuleLoss) (s : State) : Out :=
  if 4 ≤ e.m || !s.pod.els.getLsbD e.m then .next s
  else
    let ks := ((s.pod.lanes.map Prod.fst) ++ s.pod.lost.map Prod.fst).filter fun k => k % 32 / 8 == e.m
    let x : Loss := { ks := ks, cause := 5, els := some e.m, far := e.far.filter fun p => s.farSettles p 5 5, dark := e.far }
    .next ((s.lose x).resend e.again)

/-- An earlier assignment of floor or base is restored where its position is unused; a pair keeps one floor, and a lost lease
stays lost (R399). -/
def State.restoreLane (s : State) (k : Nat) (o : Own) : State :=
  if (s.pod.lanes.find k).isSome || 8 ≤ s.tunedOn (s.laneFibre k) then s
  else match o with
    | .floor => s.tuneLane (k / 32) (k % 32) (if s.pairLanes (k / 32) = [] then .floor else .base)
    | .base => s.tuneLane (k / 32) (k % 32) .base
    | _ => s

/-- The line of a lost lane is lit again at this package or at its peer. -/
def Lane.relit (l : Lane) (here far : Bool) : Lane := { l with lit := l.lit || here, far := l.far || far }

/-- ELS_RELIT (R399): a lane returns once its line is lit at both ends; one lost to CRC errors was never dark and does not. -/
def execElsRelit (e : ModuleLit) (s : State) : Out :=
  if 4 ≤ e.m then .next s
  else
    let m := e.m
    let own := e.own
    let before := s.litMask
    let dark := own && !s.pod.els.getLsbD m
    let mine := fun (kv : Nat × Lane) => kv.1 % 32 / 8 == m
    let lit := fun (kv : Nat × Lane) => kv.2.relit own (e.peers.contains (kv.1 / 32))
    let back := s.pod.lost.filter fun kv =>
      mine kv && !(kv.2.lit && kv.2.far) && (lit kv).lit && (lit kv).far
    let s : State := { s with pod := { s.pod with
      els := if own then s.pod.els ||| ((1 : BitVec 4) <<< m) else s.pod.els
      lost := (s.pod.lost.filter fun kv => !back.contains kv).map fun kv => (kv.1, if mine kv then lit kv else kv.2) } }
    let s := if dark then s.linkRecord 4 none (some m) 0 before s.litMask 0 else s
    .next (back.foldl (fun s kv => s.restoreLane kv.1 kv.2.own) s)

/-! ### The boundary of a cycle, and the end of a retune -/

/-- The lanes that lose their light in a cycle, in one event (R402, R404), with the acknowledgements that travelled on them
(R403). -/
def State.cycleLosses (s : State) (dark : CycleLosses) : State :=
  let x : Loss :=
    { ks := dark.flatMap fun d => lanesOf d.2 d.1
      cause := 1
      far := (dark.filter fun d => s.farSettles d.1 1 d.2.far).map Prod.fst
      dark := dark.map Prod.fst }
  if dark = [] then s else (s.lose x).resend (dark.flatMap fun d => d.2.again.map fun k => (d.1, k))

/-- Lanes count what they carry in the next cycle from 0 (R391). -/
def State.newCycle (s : State) : State := s.setLanes (s.pod.lanes.map fun kv => (kv.1, { kv.2 with beats := 0 }))

/-- REVOKE_CYCLE (R391): a boundary of the lease agent's cycle. `offers` is what far ends say; lanes that lose their light in the
same cycle are lost in one event, not revoked (R402, R404). Free positions go to ASKs in order of arrival, then donors to those whose pair holds
only its floor first. -/
def execRevokeCycle (offers : List FarOffer) (dark : CycleLosses) (s : State) : Out :=
  let s := s.cycleLosses dark
  let old := s.pod.lanes
  let s := offers.foldl State.farDrops s
  let x := s.pod.members.foldl (fun (x : Cycle) p => x.refloor offers p) { s := s }
  let bare := fun (a : Ask) => decide ((s.pairLanes a.peer).length ≤ 1)
  let ids := fun (l : List Ask) => l.map fun (a : Ask) => (a.ctx, a.seq)
  let y := (ids s.pod.asks).foldl (fun (x : Cycle) q => x.ask offers false q) x
  let y := (ids (s.pod.asks.filter bare ++ s.pod.asks.filter fun a => !bare a)).foldl
    (fun (x : Cycle) q => x.ask offers true q) y
  let y := offers.foldl (fun (y : Cycle) o => y.farTakes o) y
  .next (((y.s.restripe old true).pushTaken 6 y.taken).settleAsks.newCycle)

/-- A lane joins the pair's stripe set (R393, R396): its lease counts from now, it is the floor of a pair that has none, and
what waited for a lane leaves (R399). -/
def State.joinLane (s : State) (peer line : Nat) (l : Lane) : State :=
  let k := laneKey peer line
  let old := s.pod.lanes
  let before := s.activeMask peer
  let own := match l.own with
    | .lease c term _ => Own.lease c term s.ns
    | o => o
  let s := (s.setLanes (s.pod.lanes.put k { l with own := own, active := true, retuning := false })).restripe old true
  let asks := s.pod.asks.map fun (a : Ask) =>
    if a.peer = peer && a.moving.contains line then
      ({ a with moving := a.moving.filter (· != line), got := a.got ++ [line] } : Ask)
    else a
  let s : State := { s with pod := { s.pod with asks := asks } }
  let s := ((s.linkRecord 2 (some peer) none 0 before (s.activeMask peer) (if before = 0 then s.firstSeq peer else 0)).moveFloor peer)
  ((if before = 0 then s.replay peer else s).drainLink peer).settleAsks

/-- LANE_RETUNE_DONE (R393, R396): the lane joins its pair, or the retune has failed and the lane is lost (R401). A lane that
this package does not know is one that the far end has taken at once from positions free at both ends (R391). -/
def execLaneRetuneDone (peer : Nat) (r : RetuneEnd) (s : State) : Out :=
  let line := r.line
  match s.pod.lanes.find (laneKey peer line) with
  | none =>
    if r.ok && decide (line < 32) && s.isPeer peer && s.canJoin peer line &&
        decide (s.tunedOn (fibreOf s.pkg.toNat peer line) < 8) then
      .next (s.joinLane peer line (.tuning .far))
    else .next s
  | some l =>
    if !l.retuning then .next s
    else if r.ok then .next (s.joinLane peer line l)
    else .next (s.lose { ks := [laneKey peer line], cause := 3 })

/-! ### The link layer (R397) -/

/-- A cumulative acknowledgement through the last flit accepted. -/
def State.ackFlits (s : State) (peer : Nat) : State :=
  let l := s.linkTo peer
  (s.updLink peer fun l => { l with toAck := 0 }).tell peer (.ack peer (l.expect - 1))

/-- The 16 beats of the flit that arrives next travel on these lines (R396). -/
def State.flitLines (s : State) (peer : Nat) : List Nat :=
  (List.range 16).filterMap fun i => s.beatLine peer ((s.linkTo peer).inBeat + i)

/-- FLIT_RECEIVE (R397, R398): accepted in sequence with a good CRC, else discarded. A bad CRC, met on a lane, is reported; 16
of them within 1 ms lose the lane. -/
def execFlitReceive (peer : Nat) (seq : BitVec 24) (crcOk : Bool) (l : FlitLine) (s : State) : Out :=
  if !s.isPeer peer || s.stripe peer = [] then .next s
  else
    let k := s.linkTo peer
    let lane := l.line
    let on := (s.flitLines peer).contains lane
    let s := (s.updLink peer fun l => { l with inBeat := l.inBeat + 16 }).carry peer k.inBeat 16
    if !crcOk then
      let ts := ((k.crc.get [] lane).filter fun t => decide (s.ns < t + 1000000)) ++ if on then [s.ns] else []
      let s := (s.updLink peer fun l => { l with crc := l.crc.put lane ts }).tell peer (.badCrc peer k.expect)
      let x : Loss := { ks := [laneKey peer lane], cause := 2, far := if s.farSettles peer 2 l.far then [peer] else [],
                        dark := if lossRank l.far ≤ 1 then [] else [peer] }
      .next (if 16 ≤ ts.length then (s.lose x).resend (l.again.map fun n => (peer, n)) else s)
    else if seq = k.expect then
      let s := s.updLink peer fun l => { l with expect := l.expect + 1, toAck := l.toAck + 1, accepted := l.accepted + 1 }
      .next (if 32 ≤ k.toAck + 1 then s.ackFlits peer else s)
    else .next s

/-- LINK_ACK_TIMER (R397). -/
def execLinkAckTimer (peer : Nat) (s : State) : Out :=
  if (s.linkTo peer).toAck = 0 then .next s else .next (s.ackFlits peer)

/-- What waits for the replay buffer leaves, to every peer. -/
def State.drainLinks (s : State) : State := (s.pod.links.map Prod.fst).foldl State.drainLink s

/-- LINK_ACK_RECEIVE (R397): the report of a bad CRC has the sender replay. -/
def execLinkAckReceive (peer : Nat) (ack : LinkAck) (s : State) : Out :=
  let s := s.updLink peer fun l =>
    if l.unacked.contains ack.seq then { l with unacked := (l.unacked.dropWhile (· != ack.seq)).drop 1 } else l
  .next (if ack.bad then (s.replay peer).drainLinks else s.drainLinks)

/-- REPLAY_TIMEOUT (R397): the sender replays from the first unacknowledged flit. -/
def execReplayTimeout (peer : Nat) (s : State) : Out := .next (s.replay peer)

end Sys2Proof.Machine
end

