-- ==== Sys2Proof/Machine/Engines.lean ====
section
/-! DEFINITION. Engines.lean: the events of the four engines of a tile: a word at its queue head issues, is discarded, or
meets a fault (R74, R78, R164, R198, R215, R244), buffers fire, rows and pieces move, and faults are delivered (R380). -/

namespace Sys2Proof.Machine

/-- A pending destination clears and keeps its old value (R78). -/
def Task.unmark (t : Task) (w : Instr) : Task :=
  let (d, p) := pendingDst w
  { t with
    spend := match d with
      | none => t.spend
      | some n => t.spend &&& ~~~((1 : BitVec 32) <<< n.toNat)
    ppend := match p with
      | none => t.ppend
      | some n => t.ppend &&& ~~~((1 : BitVec 8) <<< n.toNat) }

/-- A POST whose guard is false (R154): its parcel is OPEN again, its status DISCARDED. -/
def State.discardPost (s : State) (t : Nat) (x : Entry) (d : BitVec 5) : State :=
  let c := (s.tileAt t).ctx.getD 0
  let s := match s.par c x.a with
    | none => s
    | some p => s.putPar c { p with state := 1, last := 6 }
  s.updTile t fun u => u.updTask x.task fun y => y.sset d 6

/-- A word whose guard is false is discarded at the head of its queue, and its token completes (R74); with a COPYM goes its
follow-on word (R75). -/
def State.discard (s : State) (t : Nat) (e : Eng) (x : Entry) : State :=
  let s := match x.word with
    | .post d _ _ => s.discardPost t x d
    | w => s.updTile t fun u => u.updTask x.task fun y => y.unmark w
  s.updTile t fun u =>
    let u := u.popDone e x
    match x.word with
    | .copym .. =>
      match u.mq.find? fun y => y.uid == x.uid + 1 with
      | none => u
      | some f => { u with mq := u.mq.filter fun y => y.uid != f.uid }.complete f.task f.tok
    | _ => u

/-- What an operation of the word at a queue head comes to; a C word that faults gives back what it has not used (R244). -/
def State.headResult (s : State) (t : Nat) (e : Eng) (x : Entry) (r : Res State) : Res State :=
  match r with
  | .error (.trap i) => .ok (if e = .c then s.faultC t x (sourceOf x.word) 31 false i else s.faultHead t e x i)
  | r => r

/-! ### Heads -/

/-- A vector word at the head of V (R164, R167, R184); a memory word performs up to `budget` elements. It faults at an element once
every element below it has performed. -/
def State.vHead (s : State) (t : Nat) (x : Entry) (budget : Nat) : Res State :=
  let src : VSrc := ⟨s.tileAt t, x.win, modeOf x.rmode⟩
  match vMemOf src x.a x.b x.word with
  | some w =>
    if x.out ≠ [] && !w.stores then .error .wait
    else
      let r := s.vElements t x w x.prog x.out budget
      let x' : Entry := { x with prog := r.e, out := r.out }
      match r.stop with
      | some (.trap i) =>
        if r.out ≠ [] then if x' = x then .error .wait else .ok (r.s.updTile t fun u => u.setHead .v x')
        else if x' = x then .error (.trap i)
        else .ok ((r.s.updTile t fun u => { u with lastIssue := s.cyclesAt t }).faultHead t .v x' i)
      | some (.fatal c) => .error (.fatal c)
      | _ =>
        if w.count ≤ r.e && r.out.isEmpty then .ok (r.s.updTile t fun u => u.popDone .v x)
        else if x' = x then .error .wait
        else .ok (r.s.updTile t fun u => u.setHead .v x')
  | none =>
    match vCompute src x.a x.b x.word with
    | none => .error .wait
    | some r => .ok (s.updTile t fun u => (u.performV x r).popDone .v x)

/-- An acquiring RAMO holds later L words of its task until its old value has landed (R238). -/
def Tile.acquiring (t : Tile) (task : Nat) : Bool :=
  t.air.any fun e => e.task == task && match e.word with
    | .ramo _ _ _ _ f => ramoAcquires f
    | _ => false

/-- A word at the head of L (R234-R244, R154); an RST takes in at most `budget` source bytes (R246). -/
def State.lHead (s : State) (t : Nat) (x : Entry) (budget : Nat) : Res State :=
  if (s.tileAt t).acquiring x.task then .error .wait
  else match x.word with
    | .rld _ _ _ sc => s.rldHead t x sc
    | .rst _ _ _ sc => s.rstHead t x sc budget
    | .ramo _ _ _ sc f => s.ramoHead t x sc f
    | .rfence _ => s.rfenceHead t x
    | .lcnt _ => s.lcntHead t x
    | .leaseAsk .. => s.leaseAskHead t x
    | .leaseGive .. => .ok (s.leaseGiveHead t x)
    | .leaseStat .. => s.leaseStatHead t x
    | .fctl .. => s.fctlHead t x
    | .fstat .. => s.fstatHead t x
    | .post .. => s.postHead t x
    | _ => .error .wait

/-- The operation of the word at a head. -/
def State.headOp (s : State) (t : Nat) (e : Eng) (x : Entry) (budget : Nat) : Res State :=
  match e with
  | .v => s.vHead t x budget
  | .m => (((s.tileAt t).issueM x).map fun u => s.setTile t u)
  | .c => s.issueC t x
  | .l => s.lHead t x budget

/-- Engine words that access memory or a stream buffer, which a barrier holds at their queue head (R134). -/
def makesAccess : Instr → Bool
  | .vld .. | .vlds .. | .vgath .. | .vst .. | .vsts .. | .vscat .. => true
  | .vamoAdd .. | .vamoOr .. | .vamoAnd .. | .vamoXor .. | .vamoMin .. | .vamoMax .. => true
  | .vpop .. | .vpush .. | .vpeek .. | .mldw .. | .mmul .. | .mmulz .. | .mlda .. | .mrd .. | .mrds .. => true
  | .sbdef .. | .stdef .. | .copy .. | .copym .. | .cqnt .. | .cexp .. | .ccvt .. | .cfill .. => true
  | .post .. | .rld .. | .rst .. | .ramo .. | .leaseAsk .. | .leaseStat .. | .fstat .. => true
  | _ => false

/-- The word waits at its queue head for a barrier that its task set before it (R134). -/
def Tile.behindBar (t : Tile) (x : Entry) : Bool := t.barred x.bars && makesAccess x.word

/-- The word at the head of a queue, when its tokens have completed and its guard has landed (R74): discarded, or resolved
for good and given to `op`, unless a barrier holds its accesses. Engines of a tile whose context is being taken off stop
(R358). -/
def State.withHead (s : State) (t : Nat) (e : Eng) (op : State → Entry → Res State) : Res State :=
  match if s.running t then ((s.tileAt t).queue e).head? else none with
  | none => .error .wait
  | some x =>
    let y := (s.tileAt t).taskAt x.task
    if x.faulted || x.held || x.deps.any (fun k => !y.done k) || y.pPending x.guard.p then .error .wait
    else if !y.guard x.guard then .ok (s.discard t e x)
    else
      let x' : Entry := { x with deps := [], guard := always }
      let s' := s.updTile t fun u => u.setHead e x'
      match s'.headResult t e x' (if (s.tileAt t).behindBar x then .error .wait else s'.performed t (op s' x')) with
      | .error .wait => if x' = x then .error .wait else .ok s'
      | r => r

/-- ENGINE_QUEUE_HEAD_ISSUE (R74, R78, R164, R198, R215). -/
def execEngineQueueHeadIssue (tile : Nat) (e : Eng) (budget : Nat) (s : State) : Out :=
  s.eventAt tile (s.withHead tile e fun s x => s.headOp tile e x budget)

/-- STREAM_BUFFER_FIRE (R188, R218, R204, R208, R209): on V the transfer at the head; on M, for k = 0 a row enters the array,
for k = 1 a row leaves the converter, for k = 2 MLDA takes a row. -/
def execStreamBufferFire (tile : Nat) (e : Eng) (k : Nat) (s : State) : Out :=
  match e with
  | .v => s.eventAt tile (s.withHead tile .v fun s x =>
      (s.vTransfer tile x).map fun s' => s'.updTile tile fun u => u.popDone .v x)
  | .m =>
    match k with
    | 0 =>
      match if s.running tile then (s.tileAt tile).array else none with
      | none => .next s
      | some x =>
        match x.word with
        | .mmul b _ acc y r p => s.eventOf tile (s.enterRow tile x b.toNat acc.toNat y r p.toNat false)
        | .mmulz b _ acc y r p => s.eventOf tile (s.enterRow tile x b.toNat acc.toNat y r p.toNat true)
        | _ => .next s
    | 1 => s.eventOf tile (if s.running tile then s.convRow tile else .error .wait)
    | 2 => s.eventOf tile (if s.running tile then s.mldaRow tile else .error .wait)
    | _ => .next s
  | _ => .next s

/-- ARRAY_ROW_EXIT (R197, R204, R62). -/
def execArrayRowExit (tile : Nat) (s : State) : Out :=
  s.eventOf tile (((s.tileAt tile).rowExit).map fun u => s.setTile tile u)

/-- Some bytes of the record of a plane that loads are read (R200, R246). -/
def State.planePart (s : State) (tile plane n : Nat) : Out :=
  s.eventOf tile (if s.running tile then s.planeLoad tile plane n else .error .wait)

/-- PLANE_LOAD_COMPLETE (R200, R201). -/
def execPlaneLoadComplete (tile plane : Nat) (s : State) : Out :=
  s.eventOf tile (if s.running tile then s.planeLoad tile plane whole else .error .wait)

/-- An event of the word at the head of C. -/
def State.onC (s : State) (t : Nat) (op : State → Entry → Res State) : Out :=
  match if s.running t then (s.tileAt t).cq.head? else none with
  | none => .next s
  | some x => if x.faulted then .next s else s.eventAt t (s.headResult t .c x (s.performed t (op s x)))

/-- COPY_PIECE_LAND (R224, R229-R232). -/
def execCopyPieceLand (tile : Nat) (s : State) : Out := s.onC tile fun s x => s.pieceC tile whole x

/-- Some bytes of the piece under way move (R246). -/
def State.piecePart (s : State) (tile n : Nat) : Out := s.onC tile fun s x => s.pieceC tile n x

/-- COPY_COUNTER_ADD (R224, R260). -/
def execCopyCounterAdd (tile : Nat) (s : State) : Out := s.onC tile fun s x => s.counterC tile x

/-- COPYM_FOLLOW_ON_FILL (R226). -/
def execCopymFollowOnFill (tile : Nat) (s : State) : Out := s.onC tile fun s x => s.fillFollowOn tile x

/-- The code of an engine in SRC (R376). -/
def srcCode (e : Eng) : Nat := e.code + 1

/-- A fault may be delivered: none that waited for BUSY and belongs to another task came before it (R380), and its task has no
access of a word that holds it on its way (R271). -/
def Tile.mayDeliver (t : Tile) (f : EFault) : Bool :=
  !((t.faults.takeWhile (· != f)).any fun g => g.waited && g.task != f.task) && (t.taskAt f.task).asked != .out

/-- A fault reaches the task that pushed its word, at the word where it stands; while a trap is held it waits (R380). -/
def State.deliver (s : State) (tile : Nat) (f : EFault) : Out :=
  let u := s.tileAt tile
  if u.trap.busy || !s.running tile || !u.mayDeliver f then .next s
  else
    let s' := s.setTile tile ({ u with faults := u.faults.erase f }.unyield f.task)
    .next (s'.enterTrap tile f.task (srcCode f.eng) f.info (u.taskAt f.task).pc)

/-- ENGINE_FAULT_DELIVERY (R380, R184, R212, R244): the oldest fault that may be delivered. -/
def execEngineFaultDelivery (tile : Nat) (s : State) : Out :=
  match (s.tileAt tile).faults.find? (s.tileAt tile).mayDeliver with
  | none => .next s
  | some f => s.deliver tile f

end Sys2Proof.Machine
end

