-- ==== Sys2Proof/Machine/Power.lean ====
section
/-! DEFINITION. Power.lean: operating points and the clock planner (R418, R425, R426), the power windows (R420, R421), droop
(R422), block gating (R423, R424), the thermal ladder (R427, R428) but for T_HALT, refresh windows (R333), QoS refills (R282),
and the loss and return of power (R428, R440). -/

namespace Sys2Proof.Machine

/-- What the management interface does while its firmware runs (R440). -/
def State.managed (s : State) (f : State → State) : Out :=
  .next (if s.power.on && s.mgmt.firmware then f s else s)

/-! ### Clocks -/

/-- A clock of f kHz hits an entry of the spur-avoid list (R425). -/
def hitsSpur (e : Word) (f : Nat) : Bool :=
  bits e.toNat 63 1 == 1 &&
    (List.range 64).any fun k => decide (bits e.toNat 0 31 ≤ (k + 1) * f) && decide ((k + 1) * f ≤ bits e.toNat 32 31)
def hitsAny (spur : Tab Word) (f : Nat) : Bool := spur.any fun kv => hitsSpur kv.2 f

/-- The highest whole MHz from `hi` down to `lo` that hits no entry. -/
def bestClock (spur : Tab Word) (hi lo : Nat) : Option Nat :=
  ((List.range (hi + 1 - lo)).map fun i => hi - i).find? fun f => !hitsAny spur (1000 * f)

/-- The tile and mesh clock of a FREQ (R426). -/
def tileClock (spur : Tab Word) (freq : Nat) : Option Nat := bestClock spur freq ((95 * freq + 99) / 100)

/-- The clock of a region whose image declares a maximum (R292), in whole MHz (log 19). -/
def State.regionClock (s : State) (fmax : Nat) : Option Nat :=
  if fmax < 50 ∨ 650 < fmax then none else bestClock s.power.spur fmax 50

/-- The supply voltage of a FACT, in mV (R418). -/
def millivolts (fact : Nat) : Nat := (400 + 5 * -((1250 - (fact : Int)) * 80 / 1750)).toNat

/-- One step of a glide toward a goal (R418). -/
def glide (f goal : Nat) : Nat := if f < goal then min goal (f + 25) else max goal (f - 25)

/-- The supply voltage where FACT was `old`: it trails a fall, and leads the rise of the next step of a glide, which a throttle
stops (R418, R429). -/
def Power.supply (p : Power) (old : Nat) : Power :=
  { p with mv := max (millivolts old) (max (millivolts p.fact) (if p.throttled then 0 else millivolts (glide p.fact p.goal))) }

/-- FACT takes a value; PHASE keeps its place in the period (R333, R418). -/
def State.setFact (s : State) (f : Nat) : State :=
  { s with
    phase := s.phase * (64 * f) / (64 * s.power.fact)
    power := ({ s.power with fact := f } : Power).supply s.power.fact }

/-- Contexts that are resident (R350). -/
def State.residents (s : State) : Nat := (s.ctxs.filter fun kv => kv.2.exists_ && kv.2.record.part != 0xFF).length

/-- The plan for a FREQ; where no frequency is left the planner keeps the one it has (log 19). -/
def State.plan (s : State) (freq : Nat) : State :=
  { s with power :=
      ({ s.power with freq := freq, goal := (tileClock s.power.spur freq).getD s.power.goal } : Power).supply s.power.fact }

/-- CLKPLAN_WRITE (R418, R426). -/
def execClkplanWrite (v : Word) (s : State) : Out :=
  s.managed fun s =>
    let f := bits v.toNat 0 11
    if f < 1250 ∨ 1600 < f ∨ (1250 < f ∧ 2 ≤ s.residents) ∨ tileClock s.power.spur f = none then s else s.plan f

/-- CLOCK_GLIDE_STEP (R418); a throttle stops the glide (R429), and a voltage that trailed a fall comes down. -/
def execClockGlideStep (s : State) : Out :=
  .next (if !s.power.on then s
    else s.setFact (if s.power.throttled then s.power.fact else glide s.power.fact s.power.goal))

/-- A SPUR_CONFLICT event for a live region to which the planner can give no clock (R426, log 19). -/
def State.conflict (s : State) (r : Nat × Region) : State :=
  match r.2.live with
  | none => s
  | some i =>
    if (s.regionClock i.fmax).isSome then s
    else s.postMgmt 6 1 none none [BitVec.ofNat 8 (r.1 % 16), BitVec.ofNat 8 (r.1 / 16)]

/-- SPUR_LIST_WRITE (R425, R426). -/
def execSpurListWrite (n : Nat) (v : Word) (s : State) : Out :=
  s.managed fun s =>
    let e : Word := v &&& ~~~(0x80000000 : Word)
    let spur := Tab.set 0 s.power.spur n e
    if 32 ≤ n ∨ bits e.toNat 32 31 < bits e.toNat 0 31 ∨ tileClock spur s.power.freq = none ∨
        Config.fixedClocks.any (hitsAny spur) then s
    else
      let s := ({ s with power := { s.power with spur := spur } } : State).plan s.power.freq
      s.regions.foldl State.conflict s

/-! ### Power windows -/

/-- The TDP of the package in watts (R1). -/
def State.tdp (s : State) : Nat := if s.grade = .p1 then 520 else 1950

/-- POWER_WINDOW (R420, R421): the estimate of a window; a rise beyond the limit holds dispatch and wakes, and filler runs
below the floor or after a fall beyond the limit. RATE × 0.01 W is compared in hundredths of a watt. -/
def execPowerWindow (watts : Nat) (s : State) : Out :=
  let p := s.power
  let on := p.ramp.getLsbD 16
  let limit := max 1 (bits p.ramp.toNat 0 16)
  let low := p.floor.getLsbD 16 && decide (watts < min (bits p.floor.toNat 0 16) s.tdp)
  .next { s with power := { p with
    watts := watts
    held := on && decide (limit < 100 * (watts - p.watts))
    filler := low || (on && decide (limit < 100 * (p.watts - watts))) } }

/-! ### Droop (R422) -/

/-- DROOP_DETECT. -/
def execDroopDetect (block : Nat) (s : State) : Out :=
  .next (s.updBlock block fun b =>
    { b with
      droop := if b.droop = BitVec.allOnes 32 then b.droop else b.droop + 1
      stretched := true
      stretchTo := s.clock + 64 })

/-- DROOP_STRETCH_END. -/
def execDroopStretchEnd (block : Nat) (s : State) : Out :=
  .next (if s.clock < (s.blockAt block).stretchTo then s else s.updBlock block fun b => { b with stretched := false })

/-! ### Block gating (R423, R424) -/

/-- A tile gives its block nothing to be awake for (R423). -/
def Tile.resting (t : Tile) : Bool :=
  t.tasks.all (fun k => !k.live) && t.words.isEmpty && t.incoming.isNone && t.outbound == 0

/-- A block's tiles rest, and their contexts are neither being saved nor restored. -/
def State.blockIdle (s : State) (b : Nat) : Bool :=
  (List.range 4).all fun q =>
    let t := s.tileAt (tileInBlock b q)
    t.resting && !(t.ctx.any fun c => (s.ctxAt c).saveAt.isSome || !(s.ctxAt c).resumed)

/-- BLOCK_IDLE: an idle block enters HOLD for 20 µs. -/
def execBlockIdle (block : Nat) (s : State) : Out :=
  .next (if (s.blockAt block).gate = .active ∧ s.blockIdle block then
      s.updBlock block fun b => { b with gate := .hold, due := s.ns + 20000 }
    else s)

/-- BLOCK_HOLD_EXPIRY. -/
def execBlockHoldExpiry (block : Nat) (s : State) : Out :=
  .next (if (s.blockAt block).gate = .hold ∧ (s.blockAt block).due ≤ s.ns then
      s.updBlock block fun b => { b with gate := .gated, since := s.clock }
    else s)

/-- BLOCK_WAKE_REQUEST. -/
def execBlockWakeRequest (block : Nat) (s : State) : Out := .next (s.wakeBlock block)

/-- BLOCK_WAKE_GRANT: at most 4 blocks at a time, each for 5 µs, none while the ramp holds wakes (R420, R424). -/
def execBlockWakeGrant (s : State) : Out :=
  match s.power.inrush with
  | [] => .next s
  | b :: r =>
    .next (if s.power.waking.length < 4 && !s.power.held then
        let s := s.updBlock b fun x => { x with due := s.ns + 5000 }
        { s with power := { s.power with inrush := r, waking := s.power.waking ++ [b] } }
      else s)

/-- BLOCK_WAKE_COMPLETE. -/
def execBlockWakeComplete (block : Nat) (s : State) : Out :=
  .next (if s.power.waking.contains block && decide ((s.blockAt block).due ≤ s.ns) then
      let s := s.updBlock block fun x => { x with gate := .active }
      { s with power := { s.power with waking := s.power.waking.filter (· != block) } }
    else s)

/-! ### The thermal ladder (R427) -/

/-- The trip points. -/
def Power.warnAt (p : Power) : Nat := bits p.therm.toNat 0 8
def Power.throttleAt (p : Power) : Nat := bits p.therm.toNat 8 8
def Power.haltAt (p : Power) : Nat := bits p.therm.toNat 16 8

/-- A reading of the sensors, the hottest (R427): for how long it has been below THR − 5 °C. -/
def Power.reads (p : Power) (temp ns : Nat) : Power :=
  { p with temp := temp, coolSince := if temp + 5 < p.throttleAt then some (p.coolSince.getD ns) else none }
def State.sensed (s : State) (temp : Nat) : State := { s with power := s.power.reads temp s.ns }

/-- THERMCFG_WRITE. The 10 ms below THR − 5 °C count from the write (log 19). -/
def execThermcfgWrite (v : Word) (s : State) : Out :=
  s.managed fun s =>
    let p : Power := { s.power with therm := v &&& 0xFFFFFF, coolSince := none }
    if p.warnAt < p.throttleAt ∧ p.throttleAt < p.haltAt ∧ p.haltAt < 125 then { s with power := p.reads p.temp s.ns } else s

/-- SENSOR and TEMP in the layout of R428. -/
def tripFields (temp sensor : Nat) : Nat := temp % 256 * 2 ^ 40 + sensor % 65536 * 2 ^ 24

/-- A thermal event (R435). -/
def State.postThermal (s : State) (code temp sensor : Nat) : State :=
  s.postMgmt 3 code none none (le 8 (tripFields temp sensor))

/-- THERMAL_WARN: once per crossing. A reading at a trip point trips it (log 19). -/
def execThermalWarn (temp sensor : Nat) (s : State) : Out :=
  let s := s.sensed temp
  .next (if s.power.warned || decide (temp < s.power.warnAt) then s
    else ({ s with power := { s.power with warned := true } } : State).postThermal 1 temp sensor)

/-- THERM_WARN_CLEAR: the hottest reading is below WARN − 5 °C. -/
def execThermWarnClear (s : State) : Out :=
  .next (if s.power.temp + 5 < s.power.warnAt then { s with power := { s.power with warned := false } } else s)

/-- THERMAL_THROTTLE: FACT halves and the thermal cap becomes HALF. -/
def execThermalThrottle (temp sensor : Nat) (s : State) : Out :=
  let s := s.sensed temp
  .next (if s.power.throttled || decide (temp < s.power.throttleAt) then s
    else
      let s : State := { s with power := { s.power with throttled := true } }
      (s.setFact (s.power.fact / 2)).postThermal 2 temp sensor)

/-- THROTTLE_CLEAR, after 10 ms below THR − 5 °C: the cap is FULL again, and the glide restores FACT. -/
def execThrottleClear (s : State) : Out :=
  .next (if s.power.coolSince.any fun t => decide (t + 10000000 ≤ s.ns) then
      { s with power := ({ s.power with throttled := false } : Power).supply s.power.fact }
    else s)

/-- THERMAL_HALT_CLEAR, by system software, once the reading is below WARN. -/
def execThermalHaltClear (s : State) : Out :=
  s.managed fun s => if s.power.temp < s.power.warnAt then { s with power := { s.power with halted := false } } else s

/-- TRIP_REASON after a trip (R428): the cause is added, the fields are those of this trip, and a cut counts. -/
def tripReason (old : Word) (cause temp sensor : Nat) : Word :=
  let n := bits old.toNat 48 16
  let count := if cause = 1 then min 65535 (n + 1) else n
  BitVec.ofNat 64 (count * 2 ^ 48 + tripFields temp sensor + (bits old.toNat 0 8 ||| cause))

/-- A trip with its record in the event log (R442; the record's layout: log 19). -/
def State.trip (s : State) (cause temp sensor : Nat) : State :=
  let r := tripReason s.power.trip cause temp sensor
  { s with
    power := { s.power with trip := r }
    mgmt := s.mgmt.logRec (le 8 0x3 ++ le 8 0 ++ le 8 r.toNat ++ le 8 s.ns) }

/-- The package without power: what fuses, flash and the always-on domain hold stays (R26, R409, R428, R442), and so does
host memory. -/
def State.unpowered (s : State) : State :=
  { State.reset with
    tile := s.tile
    task := s.task
    agenda := s.agenda
    grade := s.grade
    fused := s.fused
    ns := s.ns
    mem := s.mem.filter fun c => decide (2 ^ 64 ≤ c.1)
    power := { on := false, trip := s.power.trip }
    mgmt := { log := s.mgmt.log, wraps := s.mgmt.wraps, keys := s.mgmt.keys, repairs := s.mgmt.repairs } }

/-- THERMAL_CUT at T_CUT, 125 °C. -/
def execThermalCut (temp sensor : Nat) (s : State) : Out :=
  .next (if 125 ≤ temp then (s.trip 1 temp sensor).unpowered else s)

/-- SUPPLY_FAULT (R428): the fields of the last trip stay. -/
def execSupplyFault (s : State) : Out :=
  .next (s.trip 4 (bits s.power.trip.toNat 40 8) (bits s.power.trip.toNat 24 16)).unpowered

/-- The firmware verifies against the root key (R440, log 9). -/
def firmwareVerifies (f : Firmware) : Bool := mldsaVerify Config.rootKey (sha3_512 f.image) f.sig

/-- POWER_UP (R440): the controller runs its firmware only if it verifies; without it the management interface does
nothing. -/
def execPowerUp (fw : Firmware) (s : State) : Out :=
  let ok := firmwareVerifies fw
  .next (if s.power.on then s
    else { s with
      power := { s.power with on := true }
      mgmt := { s.mgmt with firmware := ok, boot := if ok then some (sha3_512 fw.image) else none } })

/-! ### Time -/

/-- Cycles and nanoseconds pass (R81, R306, R333, R422): a stretched block counts every second cycle. -/
def State.elapse (s : State) (cycles ns : Nat) : State :=
  { s with
    clock := s.clock + cycles
    ns := s.ns + ns
    phase := (s.phase + cycles) % s.period
    blocks := s.blocks.map fun kv =>
      (kv.1, if kv.2.stretched then ({ kv.2 with lost := kv.2.lost + cycles } : Block) else kv.2) }

/-- PHASE at which the refresh window of a weight-store bank begins (R333). -/
def State.windowStart (s : State) (bank : Nat) : Nat := bank % 32 * s.period / 32

/-- WEIGHT_REFRESH_WINDOW (R333): the package reaches PHASE `phase`, where a window begins or ends 96 cycles after it
began. A read that falls in a window waits for its end, which costs time only. -/
def execWeightRefreshWindow (phase : Nat) (s : State) : Out :=
  let edge := (List.range 32).any fun b => phase == s.windowStart b || phase == s.windowStart b + 96
  .next (if edge && decide (phase < s.period) then s.elapse ((phase + s.period - s.phase) % s.period) 0 else s)

/-! ### Quality of service (R282) -/

/-- DEPTH and RATE of a bucket. -/
def Qos.depth (q : Qos) : Nat := bits q.cfg.toNat 24 24
def Qos.rate (q : Qos) : Nat := bits q.cfg.toNat 0 24

/-- What a partition's pool keeps at most at a port. -/
def State.poolRoom (s : State) (p port : Nat) : Nat :=
  ((s.ctxs.filter fun kv => kv.2.record.part.toNat == p).map fun kv => (kv.2.qos.get {} port).depth).foldl (· + ·) 0

/-- One context's refill at a port: what of the RATE the bucket has no room for goes to the pool of its partition (a bucket that
holds more than a lowered DEPTH: log 66). -/
def State.refill (s : State) (port c : Nat) : State :=
  let x := s.ctxAt c
  let q := x.qos.get {} port
  let more := q.rate - (q.depth - q.fill)
  let s := s.updCtx c fun y => { y with qos := y.qos.put port { q with fill := min q.depth (q.fill + q.rate) } }
  let p := x.record.part.toNat
  if p ≥ 64 then s
  else s.updPart p fun y => { y with pools := y.pools.put port (min (s.poolRoom p port) (y.pools.get 0 port + more)) }

/-- QOS_REFILL at a slice port. -/
def execQosRefill (port : Nat) (s : State) : Out :=
  .next (((s.ctxs.filter fun kv => kv.2.exists_).map Prod.fst).foldl (fun s c => s.refill port c) s)

end Sys2Proof.Machine
end

