-- ==== Sys2Proof/Machine/Fabric.lean ====
section
/-! DEFINITION. Fabric.lean: requests to a region manager (R114-R118), the verification and the swap of an image (R298, R299,
R407-R412), binding (R117, R294), and what crosses a collar port (R289, R290, R295). -/

namespace Sys2Proof.Machine

/-! ### What a region shows -/

/-- FIN and FOUT of R290. -/
def Region.frames (r : Region) (inp : Bool) : Nat :=
  ((List.range 16).filter fun p => r.bound p && isInput p == inp).foldl (fun n p => n + (r.port p).frames.toNat) 0
def Region.balanced (r : Region) : Bool := r.frames true == r.frames false

/-- Every port stands at a frame boundary. -/
def Region.atBoundary (r : Region) : Bool := r.ports.all fun q => q.2.beat == 0

/-- Every bound input port stands at a frame boundary (R298 step 1). -/
def Region.stopped (r : Region) : Bool := (List.range 16).all fun p => !(r.bound p && isInput p) || (r.port p).beat == 0

/-- A NOT_SWAPPABLE image runs and the conditions of R299 do not hold. -/
def Region.fixed (r : Region) : Bool :=
  r.live.any (fun i => i.qclass == 2) &&
    !((List.range 16).all (fun p => !r.bound p && (r.port p).fifo.isEmpty) && r.balanced)

/-- A request is under way on the region (R118, R414). -/
def Region.busy (r : Region) : Bool := r.req.isSome || r.answer.isSome || r.pend != 0

/-- The region status word (R116). -/
def Region.status (r : Region) : Word :=
  BitVec.ofNat 64 ((r.live.map fun i => i.version.toNat).getD 0 * 2 ^ 16 + r.reason * 2 ^ 8 + r.state)

/-- The region of a selector, inside the issuing partition and not fused off (R114). One whose block has not left another
partition yet is not this one's (R345, log 83). -/
def State.regionSel (s : State) (w : Word) : Option Nat :=
  let bx := bits w.toNat 8 8
  let yy := bits w.toNat 0 8
  let d := (s.partAt (s.cur.part.getD 0)).desc
  if w.toNat / 65536 = 0 ∧ bx < 16 ∧ yy < 16 ∧ descValid d ∧ inDesc d (blockKey bx yy) ∧ !s.fused.contains (blockKey bx yy) ∧
      s.clearFor (s.cur.part.getD 0) (blockKey bx yy) then
    some (blockKey bx yy)
  else none

/-! ### The requests -/

/-- A key slot, of 16, and the keys of those that are ACTIVE (R409). -/
def State.keySlot (s : State) (k : Nat) : KeySlot := s.mgmt.keys.get {} k
def State.activeKeys (s : State) : Tab (List Byte) :=
  (List.range 16).filterMap fun k => if (s.keySlot k).st = 1 then some (k, (s.keySlot k).key) else none

/-- Verification of an image begins (R115), for the cast-on of a launch where it is one's (R413). -/
def State.request (s : State) (n c : Nat) (a : Word) (cast : Option (BitVec 32) := none) : State :=
  s.updRegion n fun r =>
    { r with state := 1, req := some { ctx := c, level := .supervisor, addr := a, keys := s.activeKeys, cast := cast } }

/-- The request ends, with the ports of its image where that is LIVE; a cast-on learns it (R413). -/
def Region.endReq (r : Region) (ports : Option (BitVec 16)) : Region :=
  { r with
    req := none
    ended := (r.req.bind fun q => q.cast.map fun n => (q.ctx, n, ports)).or r.ended }

/-- RGN.LOAD (R115); the order of the immediate reasons: log 20. -/
def execRgnLoad (g : Guard) (d a b : BitVec 5) (s : State) : Out :=
  s.plain (.rgnLoad g d a b) g { src := [a, b], dst := [d] } fun s =>
    .ok (match s.regionSel (s.getS a) with
      | none => s.later d 1
      | some r =>
        if (s.regionAt r).busy then s.later d 2
        else if (s.getS b).toNat % 64 ≠ 0 then s.later d 11
        else if (s.regionAt r).fixed then s.later d 9
        else (s.request r s.myCtx (s.getS b)).later d 0)

/-- RGN.STAT (R116). -/
def execRgnStat (g : Guard) (d a : BitVec 5) (s : State) : Out :=
  s.plain (.rgnStat g d a) g { src := [a], dst := [d] } fun s =>
    .ok (match s.regionSel (s.getS a) with
      | none => s.later d 1
      | some r => s.later d (s.regionAt r).status)

/-- RGN.BIND (R117). -/
def execRgnBind (g : Guard) (d a b : BitVec 5) (s : State) : Out :=
  s.plain (.rgnBind g d a b) g { src := [a, b], dst := [d] } fun s =>
    .ok (match s.regionSel (s.getS a) with
      | none => s.later d 1
      | some r =>
        let x := s.regionAt r
        let m : BitVec 16 := (s.getS b).setWidth 16
        let used : BitVec 16 := (x.live.map Image.ports).getD 0
        if x.busy then s.later d 2
        else if (s.getS b).toNat / 65536 ≠ 0 || m &&& ~~~used != 0 then s.later d 7
        else if m = x.mask then s.later d 0
        else
          let s := s.updRegion r fun x =>
            { x with pend := m ^^^ x.mask, want := m, answer := some (s.tile, (s.task : Nat), d) }
          if d = 0 then s else s.updMe fun t => t.smark d)

/-- A change of binding reaches a port at its frame boundary. -/
def Region.applyPort (r : Region) (p : Nat) : Region :=
  let bit : BitVec 16 := (1 : BitVec 16) <<< p
  if p < 16 ∧ r.pend.getLsbD p ∧ (r.port p).beat = 0 then
    { r with mask := (r.mask &&& ~~~bit) ||| (r.want &&& bit), pend := r.pend &&& ~~~bit }
  else r

/-- The mask of a graph is applied once every port has reached a frame boundary (R294): at a moment when all of them stand at one;
until then no port is held, and one that stands at a boundary may start another frame (log 25). -/
def Region.applyMask (r : Region) : Region :=
  match r.again with
  | none => r
  | some m => if r.atBoundary then { r with mask := m, again := none } else r
def Region.remask (r : Region) (m : BitVec 16) : Region := ({ r with again := some m } : Region).applyMask

/-- The answer of RGN.BIND leaves once every affected port has changed (R117). -/
def State.bindAnswer (s : State) (r : Nat) : State :=
  let x := s.regionAt r
  if x.pend ≠ 0 then s
  else match x.answer with
    | none => s
    | some (t, k, d) =>
      let s := s.updRegion r fun y => { y with answer := none }
      if d = 0 then s
      else s.updTile t fun u => u.updTask k fun y => { y with landings := y.landings ++ [⟨d, 0, []⟩] }

/-- PORT_BINDING_APPLY (R117, R294). -/
def execPortBindingApply (region port : Nat) (s : State) : Out :=
  .next ((s.updRegion region fun r => (r.applyPort port).applyMask).bindAnswer region)

/-! ### The image (R407, R408) -/

/-- The fields of a header with a digest. -/
def imageOf (h : List Byte) (digest : BitVec 512) : Image :=
  { version := BitVec.ofNat 32 (field h 12 4)
    rbk := BitVec.ofNat 32 (field h 16 4)
    keyslot := field h 20 1
    qclass := field h 21 1
    lag := field h 22 1
    ports := BitVec.ofNat 16 (field h 24 2)
    fmax := field h 26 2
    luts := field h 28 4
    digest := digest }

/-- The header meets R407, its limits on resources and clock aside. -/
def headerOk (h : List Byte) : Bool :=
  let body := field h 8 4
  field h 0 4 == 0x394E4752 && field h 4 2 == 256 && field h 6 2 == 0 && body % 64 == 0 && decide (64 ≤ body) &&
    decide (body ≤ 2 ^ 23) && decide (field h 16 4 ≤ field h 12 4) && decide (field h 20 1 < 16) &&
    decide (field h 21 1 ≤ 2) && decide (field h 22 1 ≤ 15) && field h 23 1 == 0 && field h 24 2 != 0 &&
    (h.drop 38).all (· == 0)

/-- LUTS, RAMB and CARRY lie within R407. -/
def fitsRegion (h : List Byte) : Bool :=
  decide (field h 28 4 ≤ 40000) && decide (field h 32 4 ≤ 98304) && decide (field h 36 2 ≤ 1250)

/-- Bytes of a range as the region manager reads them. -/
def State.deviceRead (s : State) (c : Nat) (a : Word) (n : Nat) : Res (List Byte) :=
  if canonical a then (s.physical c .read .supervisor 0 (piecesOf a n)).map s.gather else trapOf .apertureMiss a

/-- A read that faults ends the request with FORMAT (R115); a page table that is poisoned ends the context (R382). -/
def orFormat (r : Res (List Byte)) : Res (Option (List Byte)) :=
  match r with
  | .ok bs => .ok (some bs)
  | .error (.fatal k) => .error (.fatal k)
  | .error _ => .ok none

/-- The checks of R411 from check 2 on, over header, body and signature; check 2 was made `early`, when the slots were as at the
start of the request, or is made now (R414). -/
def State.checkImage (s : State) (q : RgnReq) (early : Bool) (h all : List Byte) : Except Nat (Image × Nat) :=
  let n := 256 + field h 8 4
  let i := imageOf h (sha3_512 (all.take n))
  match (if early then q.keys else s.activeKeys).find i.keyslot with
  | none => .error 4
  | some key =>
    if !mldsaVerify key i.digest (all.drop n) then .error 3
    else if i.version.toNat < (s.keySlot i.keyslot).rbc.toNat then .error 5
    else if !fitsRegion h then .error 6
    else match s.regionClock i.fmax with
      | none => .error 8
      | some f => .ok (i, f)

/-- The checks of R411 in order: the image, or the reason of R118 that ends the request. -/
def State.verify (s : State) (q : RgnReq) (early : Bool) : Res (Except Nat (Image × Nat)) := do
  match ← orFormat (s.deviceRead q.ctx q.addr 256) with
  | none => .ok (.error 10)
  | some h =>
    if !headerOk h then .ok (.error 10)
    else match ← orFormat (s.deviceRead q.ctx q.addr (256 + field h 8 4 + 4627)) with
      | none => .ok (.error 10)
      | some all => .ok (s.checkImage q early h all)

/-- RBC of the slot that an image names rises when the image is LIVE (R410). -/
def State.raiseRbc (s : State) (i : Image) : State :=
  let k := s.keySlot i.keyslot
  let up : KeySlot := { k with rbc := if k.rbc.toNat < i.rbk.toNat then i.rbk else k.rbc }
  { s with mgmt := { s.mgmt with keys := s.mgmt.keys.put i.keyslot up } }

/-- A request ends rejected (R411). A region that then has no image has nothing for a save to hold (R300). -/
def Region.reject (r : Region) (code : Nat) : Region :=
  let r := if r.live.isNone then { r with held := false, drain := false, save := false } else r
  ({ r with state := 5, reason := code } : Region).endReq none

/-- An image that passed every check: it is live already, or it replaces a NOT_SWAPPABLE image whose conditions hold, or the
hold begins, with DRAIN for class 1 (R298, R299, R411). Under a save the quiesce of R300 serves as the hold, and nothing is
programmed (R414). The clock is the one that check 7 found, also where the spur list changes before it is set (R292, log 84). -/
def State.admitImage (s : State) (n : Nat) (q : RgnReq) (i : Image) (clock : Nat) : State :=
  let r := s.regionAt n
  let q' : RgnReq := { q with image := some i, clock := clock }
  if r.live.any fun l => l.digest == i.digest then
    (s.updRegion n fun r => ({ r with state := 4, reason := 0 } : Region).endReq (some i.ports)).raiseRbc i
  else if r.live.any fun l => l.qclass == 2 then
    if r.fixed then s.updRegion n fun r => r.reject 9
    else s.updRegion n fun r => { r with state := if r.save then 2 else 3, held := true, req := some q' }
  else
    s.updRegion n fun r =>
      { r with state := 2, held := true, drain := r.live.any fun l => l.qclass == 1, req := some q' }

/-- The region after its collar is saved, or after a resume that was given up: it keeps its image, without bindings. A rejection
stands until the next request is accepted (R415). -/
def Region.released (r : Region) : Region :=
  { live := r.live, state := if r.req.isSome then (if r.live.isSome then 4 else 0) else r.state, reason := r.reason,
    ended := r.ended, clock := r.clock }

/-- A request whose image has passed verification leaves the region and stays with its context, whose next resume goes on with it
(R414). -/
def State.keepRequest (s : State) (n : Nat) (q : RgnReq) : State :=
  (s.updRegion n Region.released).updCtx q.ctx fun x => { x with verified := x.verified.put n { q with stopped := false } }

/-- REGION_VERIFY_DONE (R411); after a resume that was given up nothing is programmed (R414). -/
def execRegionVerifyDone (v : VerifyEnd) (s : State) : Out :=
  let r := s.regionAt v.region
  match if r.state = 1 then r.req else none with
  | none => .next s
  | some q => s.eventCtx q.ctx ((s.verify q v.early).map fun x => match x with
      | .error code => s.updRegion v.region fun r => r.reject code
      | .ok (i, f) =>
        if q.stopped && !(r.live.any fun l => l.digest == i.digest) then
          s.keepRequest v.region { q with image := some i, clock := f }
        else s.admitImage v.region q i f)

/-- REGION_QUIESCED (R298 step 3): programming begins. Under a save the hold goes on (R300, R414). -/
def execRegionQuiesced (region : Nat) (s : State) : Out :=
  let r := s.regionAt region
  .next (if r.state = 2 ∧ r.stopped ∧ r.balanced ∧ !r.save then s.updRegion region fun r => { r with state := 3 } else s)

/-- The new image of a request is live and the region is released (R298 step 5, R410). -/
def State.goLive (s : State) (n : Nat) (i : Image) (clock : Nat) : State :=
  (s.updRegion n fun r =>
    ({ r with live := some i, clock := clock, state := 4, reason := 0, held := r.save, drain := r.save && i.qclass == 1 } :
      Region).endReq (some i.ports)).raiseRbc i

/-- REGION_PROGRAM_DONE (R412). -/
def execRegionProgramDone (region : Nat) (s : State) : Out :=
  let r := s.regionAt region
  .next (if r.state ≠ 3 then s
    else match r.req with
      | none => s
      | some q =>
        match q.image with
        | none => s
        | some i => s.goLive region i q.clock)

/-! ### Beats and control words -/

/-- The word at the head of a port's sideband queue is due: the port is at a frame boundary, and the region has taken every
beat that stood before the word (R295; on an output port: log 67). -/
def Port.sideDue (p : Port) : Bool :=
  match p.side with
  | [] => false
  | (n, _) :: _ => p.beat == 0 && decide (n ≤ p.taken)

/-- A port stands at the frame boundary at which RGN.BIND changes it (R117, R294): no frame starts before the change. -/
def Region.changing (r : Region) (p : Nat) : Bool := r.pend.getLsbD p && (r.port p).beat == 0

/-- The region moves beats on its bound ports while an image runs; a held input port stops at a frame boundary (R298), and
waits for the region to receive a control word that is due (R295). -/
def Region.canTake (r : Region) (p : Nat) : Bool :=
  r.bound p && r.state != 3 && !(r.held && (r.port p).beat == 0) && !r.changing p && !(r.port p).sideDue

/-- A beat has crossed: the place in the frame, FRAMES and ERRS (R289, R290). -/
def Port.cross (p : Port) (err : Bool) : Port :=
  { p with
    beat := (p.beat + 1) % 16
    frames := if p.beat = 15 then p.frames + 1 else p.frames
    errs := if err then p.errs + 1 else p.errs }

/-- A beat enters an output port: its FIFO of 64 beats, or during a save, once that is full, the collar's records (R291,
R300). -/
def Port.place (p : Port) (x : Beat) : Port :=
  if p.fifo.length < 64 && p.spill.isEmpty then { p with fifo := p.fifo ++ [x], entered := p.entered + 1 }
  else { p with spill := p.spill ++ [x], entered := p.entered + 1 }

/-- FRAME_CROSSING: the region takes the oldest beat of an input port, or places `beat` on an output port (R289-R291). A beat whose
marks differ from those of its place, be it one that lacks a mark, gets ERR (log 85). -/
def execFrameCrossing (region port : Nat) (beat : Beat) (s : State) : Out :=
  let r := s.regionAt region
  let p := r.port port
  .next (if isInput port then
      match p.fifo with
      | [] => s
      | x :: rest =>
        if r.canTake port then
          s.updRegion region fun r => r.setPort port ({ p with fifo := rest, taken := p.taken + 1 }.cross x.err)
        else s
    else if r.bound port && r.state != 3 && !r.changing port && (r.save || (decide (p.fifo.length < 64) && p.spill.isEmpty)) then
      let err := beat.err || beat.fof != (p.beat == 0) || beat.lof != (p.beat == 15)
      s.updRegion region fun r =>
        r.setPort port ((p.place { beat with err := err }).cross err)
    else s)

/-- SIDEBAND_DELIVERY (R295): the region receives the head word; while it is held, words stay queued (R298). -/
def execSidebandDelivery (region port : Nat) (s : State) : Out :=
  let r := s.regionAt region
  let p := r.port port
  .next (if p.sideDue && !r.held && r.state != 3 then
      s.updRegion region fun r => r.setPort port { p with side := p.side.drop 1 }
    else s)

end Sys2Proof.Machine
end

