-- ==== Sys2Proof/Machine/Launch.lean ====
section
/-! DEFINITION. Launch.lean: graph images as the device reads them (R326, R327), acceptance (R144, R325), the device queue
(R324), cast-on (R331, R332), dispatch, start and completion of stitches, nodes and graphs (R21-R24, R334-R337), widths
(R328-R330) and the node watchdog (R338). -/

namespace Sys2Proof.Machine

/-! ### The third section (R326, R327, R332, R413) -/

/-- The number of nodes and of tensor templates, a node record and a template. -/
def gNodes (g : List Byte) : Nat := field g 0 1
def gTensors (g : List Byte) : Nat := field g 1 1
def gNode (g : List Byte) (i : Nat) : List Byte := (g.drop (64 + 128 * i)).take 128
def gTemplate (g : List Byte) (t : Nat) : List Byte := (g.drop (64 + 128 * gNodes g + 128 * t)).take 128
def gNodeList (g : List Byte) : List (List Byte) := (List.range (gNodes g)).map (gNode g)
def gTemplates (g : List Byte) : List (List Byte) := (List.range (gTensors g)).map (gTemplate g)

/-- WIDTHS, the slot-table set of a width, and the entries of the weight and region lists. -/
def gWidth (g : List Byte) (w : Nat) : Bool := bits (field g 2 1) w 1 == 1
def gSlots (g : List Byte) (w : Nat) : Nat := field g (8 + 8 * w) 8
def gList (g : List Byte) (o size : Nat) : List (List Byte) :=
  if o = 0 then [] else (List.range (field g o 8)).map fun i => (g.drop (o + 8 + size * i)).take size
def gWeights (g : List Byte) : List (List Byte) := gList g (field g 32 8) 32
def gRegions (g : List Byte) : List (List Byte) := gList g (field g 40 8) 16
def gDigest (g : List Byte) : BitVec 128 := BitVec.ofNat 128 (field g 48 16)

/-- A graph with slot tables, a region list or a weight list is heavy (R331). -/
def gHeavy (g : List Byte) : Bool :=
  (List.range 3).any (fun w => gSlots g w != 0) || field g 32 8 != 0 || field g 40 8 != 0

/-- Fields of a node: loops, co, FIXED, predecessors, entry, MIN and map of a width. -/
def nLoops (n : List Byte) : Nat := field n 0 1
def nCo (n : List Byte) : Bool := bits (field n 1 1) 0 1 == 1
def nFixed (n : List Byte) : Bool := bits (field n 1 1) 1 1 == 1
def nPred (n : List Byte) : Nat := field n 8 8
def nExt (n : List Byte) (k : Nat) : Nat := field n (16 + 8 * k) 8
def nEntry (n : List Byte) (w : Nat) : Nat := field n (64 + 4 * w) 4
def nMin (n : List Byte) (w : Nat) : Nat := field n (76 + 2 * w) 2
def nMap (n : List Byte) (w : Nat) : Nat := field n (88 + 4 * w) 4

/-- Offsets of the argument dwords that a graph reads (R326, R327). -/
def extArgs (n : List Byte) : List Nat :=
  (List.range (nLoops n)).flatMap fun k => if nExt n k < 2 ^ 63 then [] else [nExt n k % 2 ^ 32]
def tmplArgs (b : List Byte) : List Nat :=
  (if bits (field b 12 1) 0 1 = 1 then [field b 0 4] else []) ++
    (List.range 5).flatMap fun d => if bits (field b 12 1) (1 + d) 1 = 1 then [field b (16 + 4 * d) 4] else []
def gArgs (g : List Byte) : List Nat :=
  (gNodeList g).flatMap extArgs ++ (gTemplates g).flatMap tmplArgs ++
    ((gWeights g).filter fun e => field e 1 1 == 1).map (fun e => field e 16 4) ++
    ((gRegions g).filter fun e => field e 2 1 == 1).map (fun e => field e 8 4)

/-- The extents of a node and its number of stitches (R334). -/
def nExts (argv : Tab Word) (n : List Byte) : List Nat :=
  (List.range (nLoops n)).map fun k =>
    if nExt n k < 2 ^ 63 then nExt n k % 2 ^ 32 else (argv.get 0 (nExt n k % 2 ^ 32)).toNat
def nCount (argv : Tab Word) (n : List Byte) : Nat := prod (nExts argv n)

/-- Every argument that gives an extent fits in 32 bits (R38). -/
def extentsFit (argv : Tab Word) (g : List Byte) : Bool :=
  let ok := fun o => decide ((argv.get 0 o).toNat < 2 ^ 32)
  ((gNodeList g).flatMap extArgs).all ok && (gTemplates g).all fun b =>
    (List.range 5).all fun d => bits (field b 12 1) (1 + d) 1 == 0 || ok (field b (16 + 4 * d) 4)

/-- A template with its arguments resolved, as it goes into the tensor table (R331). -/
def tmplBytes (argv : Tab Word) (b : List Byte) : List Byte :=
  let m := field b 12 1
  (if bits m 0 1 = 1 then le 8 (argv.get 0 (field b 0 4)).toNat else b.take 8) ++ (b.drop 8).take 4 ++ [0] ++ (b.drop 13).take 3 ++
    ((List.range 5).flatMap fun d =>
      if bits m (1 + d) 1 = 1 then le 4 (argv.get 0 (field b (16 + 4 * d) 4)).toNat else (b.drop (16 + 4 * d)).take 4) ++
    b.drop 36

/-- The limits of a tensor entry (R278), whose type is not CB4 (R43), and those of a compressed one (R283). -/
def entryOk (b : List Byte) : Bool :=
  let e := tentOf b
  let zero := fun o n => ((b.drop o).take n).all (· == 0)
  (Ty.ofCode (field b 8 1)).isSome && field b 8 1 != 0xD && decide (e.base.toNat % 16 = 0) && canonical e.base && decide (1 ≤ e.ndim) &&
    decide (e.ndim ≤ 5) && decide (e.swz ≤ 3) && decide (field b 11 1 ≤ 1) && zero 12 4 && zero 46 18 && zero 104 24 &&
    (e.ext.drop e.ndim).all (· == 0) && (e.tile.take e.ndim).all (fun x => 1 ≤ x) && (e.tile.drop e.ndim).all (· == 1) &&
    e.stride.getD 0 1 == 0 && decide (e.tile.getD 0 0 * e.ty.ew % 128 = 0) && decide (16 * 2 ^ e.swz ≤ e.rowBytes) &&
    (!e.compressed ||
      (decide (e.rowBytes = 4096) && (e.tile.drop 1).all (· == 1) && e.swz == 0 &&
        (List.range (e.ndim - 1)).all fun d => e.stride.getD (d + 1) 0 == ((4224 * prod (e.grid.take (d + 1)) : Nat) : Int)))

/-- Templates that a graph declares (R326). -/
def gDeclared (g : List Byte) : List Nat := (List.range (gTensors g)).filter fun t => field (gTemplate g t) 9 1 != 0
def templatesOk (argv : Tab Word) (g : List Byte) : Bool :=
  (List.range (gTensors g)).all fun t =>
    let b := gTemplate g t
    if field b 9 1 = 0 then b.all (· == 0) && t + 1 != gTensors g
    else decide (field b 12 1 < 64) && entryOk (tmplBytes argv b)

/-- The form of a node record (R326). -/
def nodeOk (g : List Byte) (i : Nat) : Bool :=
  let n := gNode g i
  let zero := fun o k => ((n.drop o).take k).all (· == 0)
  decide (nLoops n ≤ 6) && decide (field n 1 1 < 4) && zero 2 6 && decide (nPred n < 2 ^ i) &&
    ((List.range 6).all fun k =>
      if k < nLoops n then nExt n k % 2 ^ 63 / 2 ^ 32 == 0 else nExt n k == 0) &&
    ((List.range 3).all fun w => nEntry n w == 0xFFFFFFFF || nEntry n w % 4 == 0) && zero 82 6 && zero 100 28

/-- A list of the section lies in it at a multiple of 64 (R327). -/
def listOk (g : List Byte) (o size most : Nat) : Bool :=
  o == 0 || (o % 64 == 0 && decide (o + 8 ≤ g.length) && decide (field g o 8 ≤ most) &&
    decide (o + 8 + size * field g o 8 ≤ g.length))

/-- The form of a section (R326, R332, R413). -/
def sectionOk (g : List Byte) : Bool :=
  decide (64 ≤ g.length) && decide (1 ≤ gNodes g) && decide (gNodes g ≤ 64) && decide (gTensors g ≤ 64) &&
    decide (64 + 128 * gNodes g + 128 * gTensors g ≤ g.length) && gWidth g 0 && decide (field g 2 1 < 8) &&
    field g 3 5 == 0 && (List.range (gNodes g)).all (nodeOk g) &&
    ((List.range 3).all fun w => gWidth g w == (gNodeList g).all fun n => nEntry n w != 0xFFFFFFFF) &&
    listOk g (field g 32 8) 32 1024 && listOk g (field g 40 8) 16 64 &&
    ((gWeights g).all fun e =>
      decide (field e 0 1 < 4) && decide (field e 1 1 ≤ 1) && field e 2 6 == 0 && field e 8 8 % 64 == 0 && field e 24 8 % 64 == 0) &&
    (gRegions g).all fun e => decide (field e 2 1 ≤ 1) && field e 3 5 == 0

/-! ### Widths (R328, R329) -/

/-- Blocks of a width: columns and rows of a rectangle. -/
def widthDims (bw bh w : Nat) : Nat × Nat :=
  if w = 0 then (bw, bh) else if w = 1 then ((bw + 1) / 2, bh) else ((bw + 1) / 2, (bh + 1) / 2)
def State.dimsOf (s : State) (p w : Nat) : Nat × Nat :=
  let d := (s.partAt p).desc
  widthDims (descBW d) (descBH d) w

/-- The tiles of a width, row-major (R328, R336). -/
def State.widthTiles (s : State) (p w : Nat) : List Nat :=
  let d := (s.partAt p).desc
  rectTiles (descX0 d) (descY0 d) (s.dimsOf p w).1 (s.dimsOf p w).2
def State.widthCount (s : State) (p w : Nat) : Nat := 4 * (s.dimsOf p w).1 * (s.dimsOf p w).2

/-- The tile at an offset from the rectangle's top-left tile. -/
def State.tileOff (s : State) (p x y : Nat) : Nat :=
  let d := (s.partAt p).desc
  tileKey (2 * descX0 d + x) (2 * descY0 d + y)

/-- The width cap (R419): the narrower of WCAP and the thermal cap. -/
def State.widthCap (s : State) (p : Nat) : Nat := max (descWcap (s.partAt p).desc) (if s.power.throttled then 1 else 0)

/-- A slot-table set matches the tile extents of its width's block set (R327). -/
def State.setFits (s : State) (p : Nat) (g : List Byte) (w : Nat) : Bool :=
  field g (gSlots g w) 2 == 2 * (s.dimsOf p w).1 && field g (gSlots g w + 2) 2 == 2 * (s.dimsOf p w).2

/-- A width is usable (R329). -/
def State.usable (s : State) (p : Nat) (g : List Byte) (argv : Tab Word) (w : Nat) : Bool :=
  gWidth g w && decide (s.widthCap p ≤ w) && (gSlots g w == 0 || s.setFits p g w) &&
    (gNodeList g).all fun n =>
      decide (nMin n w ≤ s.widthCount p w) && (!nCo n || decide (nCount argv n ≤ s.widthCount p w))

/-- The widest usable width of a graph, if any. -/
def State.widest (s : State) (p : Nat) (e : DqEntry) : Option Nat :=
  [0, 1, 2].find? fun w => s.usable p e.graph e.argv w

/-! ### Slot tables (R306-R308, R310) -/

/-- The output fields of a slot-table entry with their port codes (R302, R306). -/
def slotFields (e : Nat) : List (Nat × Nat) := (List.range 5).map fun i => (i + 1, bits e (3 * i) 3)

/-- A port of the router at (x, y) leads to a tile of a rectangle of W by H tiles. -/
def portLeads (x y w h port : Nat) : Bool :=
  match port with
  | 1 => true
  | 2 => decide (0 < y)
  | 3 => decide (x + 1 < w)
  | 4 => decide (y + 1 < h)
  | 5 => decide (0 < x)
  | _ => false

/-- The limits of an entry of the router at (x, y). -/
def slotOk (x y w h e : Nat) : Bool :=
  let used := (slotFields e).filter fun f => f.2 != 0
  decide (e < 2 ^ 15) && (used.isEmpty || (decide (x < w) && decide (y < h))) && used.all (fun f => f.2 != f.1 && portLeads x y w h f.1 && portLeads x y w h f.2) &&
    used.all fun f => (used.filter fun f' => f'.2 == f.2).length == 1

/-- A set keeps its limits: its entries stay inside the partition's rectangle (R306), its circuits inside the width's block set
(R327). -/
def State.setLimits (s : State) (p : Nat) (g : List Byte) (w : Nat) : Bool :=
  let o := gSlots g w
  let tw := field g o 2
  let th := field g (o + 2) 2
  let full := s.dimsOf p 0
  let set := s.dimsOf p w
  let circuits := o + 16 + tw * th * 1024
  o == 0 || (o % 64 == 0 && decide (2 ≤ tw) && decide (tw ≤ 24) && decide (2 ≤ th) && decide (th ≤ 24) &&
    decide (circuits + tw * th * 32 ≤ g.length) && field g (o + 4) 12 == 0 &&
    (List.range (tw * th)).all fun i =>
      ((List.range 256).all fun k => slotOk (i % tw) (i / tw) (2 * full.1) (2 * full.2) (field g (o + 16 + 1024 * i + 4 * k) 4)) &&
      (List.range 8).all fun k =>
        let c := field g (circuits + 32 * i + 4 * k) 4
        decide (c < 2 ^ 17) && (bits c 16 1 == 0 || (decide (bits c 8 8 < 2 * set.1) && decide (bits c 0 8 < 2 * set.2))))

/-- A set is well-formed at acceptance, whether its width is usable or not; that of FULL matches its extents (R327). -/
def State.setOk (s : State) (p : Nat) (g : List Byte) (w : Nat) : Bool :=
  s.setLimits p g w && (w != 0 || gSlots g w == 0 || s.setFits p g w)

/-- The sets that a cast-on on the rectangle as it is now, or a later width change, may load keep their limits (R306). -/
def State.setsLegal (s : State) (p : Nat) (g : List Byte) : Bool :=
  (List.range 3).all fun w => gSlots g w == 0 || !s.setFits p g w || s.setLimits p g w

/-- The tables of one tile from a set; circuits take their absolute form. -/
def State.loadTile (s : State) (p : Nat) (g : List Byte) (o tw i : Nat) : State :=
  let d := (s.partAt p).desc
  let circuits := o + 16 + tw * field g (o + 2) 2 * 1024
  s.updTile (s.tileOff p (i % tw) (i / tw)) fun t =>
    { t with
      slotTable := (List.range 256).foldl (fun m k => Tab.set 0 m k (BitVec.ofNat 32 (field g (o + 16 + 1024 * i + 4 * k) 4))) []
      circuits := (List.range 8).foldl (fun m k =>
        let c := field g (circuits + 32 * i + 4 * k) 4
        Tab.set 0 m k (if bits c 16 1 = 0 then 0
          else BitVec.ofNat 17 (2 ^ 16 + tileKey (2 * descX0 d + bits c 8 8) (2 * descY0 d + bits c 0 8)))) [] }

/-- Tables of a partition's tiles become zero. -/
def State.clearTables (s : State) (p : Nat) : State :=
  (s.partTiles p).foldl (fun s t => s.updTile t fun x => { x with slotTable := [], circuits := [] }) s

/-! ### Acceptance (R144, R325) -/

/-- A dword of an argument block, as the device reads it; its place may be any byte offset (R36), and it may lie in two pages. -/
def State.deviceDword (s : State) (c : Nat) (a : Word) (lv : Level) : Res Word :=
  if canonical a then
    (s.physical c .read lv 0 (piecesOf a 8)).map fun ps => BitVec.ofNat 64 (leNat (s.gather ps))
  else trapAcc .apertureMiss a .read 0

/-- The argument dwords at some offsets. -/
def State.readArgs (s : State) (c : Nat) (args : Word) (lv : Level) : List Nat → Res (Tab Word)
  | [] => .ok []
  | o :: r => do
    let v ← s.deviceDword c (args + BitVec.ofNat 64 o) lv
    let rest ← s.readArgs c args lv r
    .ok (Tab.put rest o v)

/-- n words of a placement map, at any byte offset (R36, R326). -/
def State.readMap (s : State) (c : Nat) (a : Word) (lv : Level) : Nat → Res (List Nat)
  | 0 => .ok []
  | n + 1 => do
    let ps ← s.physical c .read lv 0 (piecesOf a 4)
    let rest ← s.readMap c (a + 4) lv n
    .ok (leNat (s.gather ps) :: rest)

/-- The maps of the nodes, read from the image; each lies in its data section (R336). -/
def State.readMaps (s : State) (c : Nat) (lv : Level) (x : Loaded) (argv : Tab Word) : List (Nat × Nat) → Res (Tab (List Nat))
  | [] => .ok []
  | (i, w) :: r => do
    let n := gNode x.graph i
    let o := nMap n w
    let m ← if decide (o < x.data) || decide (x.size < o + 4 * nCount argv n) then trapOf .apertureMiss 0
      else s.readMap c (x.image + BitVec.ofNat 64 o) lv (nCount argv n)
    let rest ← s.readMaps c lv x argv r
    .ok (Tab.put rest (4 * i + w) m)

/-- The node and width pairs that have a placement map, which a FREE node may carry too (R326, R336). -/
def mapPairs (g : List Byte) : List (Nat × Nat) :=
  (List.range (gNodes g)).flatMap fun i =>
    ((List.range 3).filter fun w => nMap (gNode g i) w != 0xFFFFFFFF).map fun w => (i, w)

/-- Every word of a map names a tile of its width, and those of a co-resident FIXED node differ (R336). -/
def State.mapOk (s : State) (p : Nat) (g : List Byte) (k : Nat) (m : List Nat) : Bool :=
  let d := s.dimsOf p (k % 4)
  m.all (fun x => decide (x < 2 ^ 16) && decide (x / 256 < 2 * d.1) && decide (x % 256 < 2 * d.2)) &&
    (!(nCo (gNode g (k / 4)) && nFixed (gNode g (k / 4))) || m.all fun x => (m.filter (· == x)).length == 1)

/-- A FIXED node has a map for every width of the graph. -/
def mapsPresent (g : List Byte) : Bool :=
  (gNodeList g).all fun n => !nFixed n || (List.range 3).all fun w => !gWidth g w || nMap n w != 0xFFFFFFFF

/-- The weight and region lists fit the partition (R332, R413). -/
def State.listsFit (s : State) (p : Nat) (g : List Byte) : Bool :=
  let d := (s.partAt p).desc
  (gWeights g).all (fun e =>
      let sh := (s.partAt p).shares.get {} (field e 0 1)
      decide (sh.size ≠ 0) && decide (field e 8 8 + field e 24 8 ≤ sh.size)) &&
    (gRegions g).all fun e =>
      decide (field e 0 1 < descBW d) && decide (field e 1 1 < descBH d) &&
        ((gRegions g).filter fun f => field f 0 2 == field e 0 2).length == 1

/-- Why a launch is not accepted: a status of R144, BAD unless another is named, or a read that stops otherwise (R382, log 7). -/
inductive Refused where
  | status (n : Nat)
  | stop (e : Stop)
  deriving DecidableEq, Repr

def need (b : Bool) (status : Nat := 3) : Except Refused Unit := if b then .ok () else .error (.status status)

/-- A fault of a read makes the launch BAD (R144); poisoned page tables are no fault. -/
def bad {α : Type} : Res α → Except Refused α
  | .ok x => .ok x
  | .error (.trap _) => .error (.status 3)
  | .error e => .error (.stop e)

/-- The checks of acceptance on a launch record of 64 bytes; the entry is not numbered yet. The order of BAD, NOFIT and
FULL: log 21; what is read of the image: log 12. -/
def State.accept (s : State) (c p : Nat) (lv : Level) (r : List Byte) : Except Refused DqEntry := do
  need (field r 0 8 % 4096 == 0 && field r 16 8 % 8 == 0 && field r 32 8 % 8 == 0)
  need (decide (field r 24 4 < 4) && field r 28 4 == 0 && (r.drop 40).all (· == 0))
  let l : LaunchRec := ⟨BitVec.ofNat 64 (field r 0 8), BitVec.ofNat 64 (field r 8 8), BitVec.ofNat 64 (field r 16 8), field r 24 4,
    BitVec.ofNat 64 (field r 32 8)⟩
  let x ← match (s.ctxAt c).sections.find? fun (x : Loaded) => x.image == l.image with
    | some x => .ok x
    | none => .error (.status 3)
  let _ ← bad (s.physical c .read lv 0 (piecesOf x.image x.size))
  let g := x.graph
  need (sectionOk g && mapsPresent g)
  let argv ← bad (s.readArgs c l.args lv (gArgs g))
  need (extentsFit argv g && templatesOk argv g && s.listsFit p g && (List.range 3).all fun w => s.setOk p g w)
  let maps ← bad (s.readMaps c lv x argv (mapPairs g))
  need (maps.all fun kv => s.mapOk p g kv.1 kv.2)
  need ((gNodeList g).all fun n => decide (nMin n 0 ≤ s.widthCount p 0))
  need ((gNodeList g).all fun n => !nCo n || decide (nCount argv n ≤ s.widthCount p 0)) 2
  .ok { num := 0, ctx := c, launch := l, graph := g, argv := argv, maps := maps }

/-- An accepted launch takes the next number and an entry (R324, R325; the first number is 1: log 21). -/
def State.queueLaunch (s : State) (p : Nat) (e : DqEntry) (host : Option (Nat × BitVec 32)) : State × BitVec 32 :=
  let n := (s.ctxAt e.ctx).launches + 1
  ((s.updCtx e.ctx fun x => { x with launches := n }).updPart p fun x =>
    { x with queue := x.queue ++ [{ e with num := n, host := host }] }, n)

/-- An entry is free to a level (R144, R324). -/
def State.queueRoom (s : State) (p : Nat) (lv : Level) : Bool :=
  decide ((s.partAt p).queue.length < if lv = .user then Config.deviceQueue else Config.deviceQueueOpen)

/-- LAUNCH (R144). The record lies in GLOBAL memory (R143): elsewhere, also in a window that is open, there is none (log 86). As a release it follows the accesses of the task's scalar stream (R122). -/
def execLaunch (g : Guard) (d a : BitVec 5) (s : State) : Out :=
  s.plain (.launch g d a) g { src := [a], dst := [d] } fun s => do
    let w := s.who
    let v := s.getS a
    if !canonical v && v.toNat % 64 = 0 then trapAcc .apertureMiss v .read 0
    else
      let pa ← s.resolve w v 64 .read
      s.mayAccess
      let s ← s.admitAt w.tile pa 64
      match s.accept w.ctx w.part w.level (s.bytesAt pa 64) with
      | .error (.status n) => .ok (s.setS d (BitVec.ofNat 64 n))
      | .error (.stop e) => .error e
      | .ok e =>
        if s.queueRoom w.part w.level then
          let (s', n) := s.queueLaunch w.part e none
          .ok (s'.setS d (BitVec.ofNat 64 (n.toNat * 2 ^ 32)))
        else .ok (s.setS d 1)

/-- The submission queue whose entry is taken next (R324): the first from the one whose turn it is with an entry waiting. -/
def Vf.nextQueue (v : Vf) : Option Nat :=
  ((List.range 4).map fun i => (v.turn + i) % 4).find? fun q => (v.sq.get {} q).k != 0 && (v.sq.get {} q).prod != (v.sq.get {} q).cons

/-- An entry of a submission queue is consumed. -/
def Vf.consume (v : Vf) (q : Nat) : Vf :=
  let r := v.sq.get {} q
  { v with sq := v.sq.put q { r with cons := r.cons + 1 }, turn := (q + 1) % 4 }

/-- HOST_SUBMISSION_INTAKE (R324, R325, R432): the next entry of a VF enters the device queue, waits for room, or is refused
with a completion. An entry whose SEQ is not the next one is not written yet. Sources that compete for the last free entry in
one cycle come in the order of R324 where the agenda gives them their turns so (log 1). -/
def execHostSubmissionIntake (ctx queue : Nat) (s : State) : Out :=
  let v := (s.ctxAt ctx).vf
  .next (match s.partOf ctx with
    | none => s
    | some p =>
      if v.nextQueue ≠ some queue || v.flr || !s.power.on then s
      else
        let r := v.sq.get {} queue
        let seq := r.cons + 1
        let a := hostLoc (r.slotAddr 128 seq)
        if s.readNat a 4 ≠ seq.toNat then s
        else
          let taken := s.updCtx ctx fun x => { x with vf := x.vf.consume queue }
          match s.accept ctx p .supervisor (s.bytesAt (a + 64) 64) with
          | .error (.status n) => taken.postCompletion ctx (if n = 2 then 2 else 1) queue seq 0
          | .error (.stop (.fatal k)) => s.fatalCtx ctx k
          | .error (.stop _) => s
          | .ok e => if s.queueRoom p .supervisor then (taken.queueLaunch p e (some (queue, seq))).1 else s)

/-! ### Completion of a graph (R332, R337) -/

/-- The order of R335: decreasing priority, then earlier number. -/
def DqEntry.before (x y : DqEntry) : Bool :=
  decide (y.launch.prio < x.launch.prio) || (x.launch.prio == y.launch.prio && earlier x.num y.num)
def insertEntry (x : DqEntry) : List DqEntry → List DqEntry
  | [] => [x]
  | y :: r => if x.before y then x :: y :: r else y :: insertEntry x r
def inTurn (l : List DqEntry) : List DqEntry := l.foldr insertEntry []

/-- Entries of a context in a partition's queue, and the change of one. -/
def State.entries (s : State) (p c : Nat) : List DqEntry := inTurn ((s.partAt p).queue.filter fun e => e.ctx == c)
def DqEntry.same (x y : DqEntry) : Bool := x.ctx == y.ctx && x.num == y.num
def State.updEntry (s : State) (p : Nat) (e : DqEntry) (f : DqEntry → DqEntry) : State :=
  s.updPart p fun x => { x with queue := x.queue.map fun y => if y.same e then f y else y }

/-- A write of the device to a context's address, and the event of one that faults (R337); poisoned data consumed ends the
context, and nothing follows (R382). -/
def State.deviceStore (s : State) (c : Nat) (a : Word) (k : AccKind) (which : Nat) (f : Nat → Res State) : Except State State :=
  let r : Res State :=
    if canonical a then do
      let pa ← s.translate c a k .supervisor
      f pa
    else trapOf .apertureMiss a
  match r with
  | .ok s' => .ok s'
  | .error (.fatal code) => .error (s.fatalCtx c code)
  | .error _ => .ok (s.postEvent c 7 ([BitVec.ofNat 8 which, 0, 0, 0, 0, 0, 0, 0] ++ le 8 a.toNat))

/-- The node boundary of a tile (R23, R139, R153). -/
def Tile.boundary (t : Tile) : Tile :=
  { t with
    node := none
    win0 := none
    win1 := none
    plane0 := {}
    plane1 := {}
    accs := []
    accPast := []
    rtag := 0
    sbs := []
    sts := []
    deque := []
    chans := [] }
def State.closeWindows (s : State) (c t : Nat) : State :=
  (List.range 16).foldl (fun s w => s.closeWindow c t w) s
def State.nodeBoundary (s : State) (c t : Nat) : State := (s.closeWindows c t).updTile t Tile.boundary

/-- The set of a graph's width is loaded (R307): a mapping that declares no circuits loads all-zero tables, unless another
active graph of the context has its set in force. -/
def State.loadSet (s : State) (p : Nat) (e : DqEntry) (w : Nat) : State :=
  let o := gSlots e.graph w
  let others := (s.entries p e.ctx).filter fun y => !y.same e && y.stage != 0
  if o = 0 then (if others.any fun y => gSlots y.graph y.width != 0 then s else s.clearTables p)
  else
    let tw := field e.graph o 2
    (List.range (tw * field e.graph (o + 2) 2)).foldl (fun s j => s.loadTile p e.graph o tw j) (s.clearTables p)

/-- The counts of a port since cast-on (R243). -/
def Region.recount (r : Region) : Region :=
  { r with ports := r.ports.map fun q => (q.1, ({ q.2 with frames := 0, errs := 0 } : Port)) }

/-- The regions of a graph at its end (R26, R294): the bindings go at the next frame boundary, the counts at once, and a binding
change under way is answered no more. Those that no list names lose what RGN.BIND bound when no other graph is active, also on
blocks that a resize takes out and that have not left. -/
def Region.graphEnd (r : Region) : Region :=
  let r : Region := { r with pend := 0, want := 0, answer := none }
  r.recount.remask 0
def State.endRegions (s : State) (p : Nat) (e : DqEntry) : State :=
  let alone := !(s.entries p e.ctx).any fun y => !y.same e && y.stage != 0
  (if alone then s.ctxBlocks p e.ctx else e.masks.map Prod.fst).foldl (fun s b => s.updRegion b Region.graphEnd) s

/-- A graph leaves the device queue and its active slot (R23, R337). -/
def State.freeGraph (s : State) (p : Nat) (e : DqEntry) : State :=
  let s := s.updPart p fun x => { x with queue := x.queue.filter fun y => !y.same e }
  let s : State := match e.slot with
    | none => s
    | some a =>
      let s := s.endRegions p e
      let s := s.updCtx e.ctx fun x => { x with tmap := x.tmap.del a }
      let left := (s.ctxTiles e.ctx).filter fun t => (s.tileAt t).node.any fun n => n.1 == a
      let s := left.foldl (fun s t => s.nodeBoundary e.ctx t) s
      if gHeavy e.graph then s.clearTables p else s
  s.unpark p

/-- A graph completes with a status (R332, R337): STAT, DONE, the completion entry, then the entry and the slot go. -/
def State.completeGraph (s : State) (p : Nat) (e : DqEntry) (status : Nat) : State :=
  let writes : Except State State := do
    let s ← if e.launch.stat = 0 then .ok s
      else s.deviceStore e.ctx e.launch.stat .write 0 fun pa => .ok (s.store pa (le 8 status))
    s.deviceStore e.ctx e.launch.doneA .amo 1 fun pa => s.addTo pa 1
  match writes with
  | .error s => s
  | .ok s =>
    let s := match e.host with
      | none => s
      | some (q, seq) => s.postCompletion e.ctx status q seq e.num
    s.freeGraph p e

/-! ### Cast-on (R331, R332) -/

/-- WIDTH_HOLD is posted once (R329). -/
def State.holdWidth (s : State) (p : Nat) (e : DqEntry) : State :=
  if e.held then s
  else ((s.updEntry p e fun y => { y with held := true }).postEvent e.ctx 3 []).postMgmt 4 1 (some p) (some e.ctx)
    [BitVec.ofNat 8 (e.slot.getD 0xFF)]

/-- Steps 2 and 3 of R331: the tensor map and the templates, the slot tables and their counters. -/
def State.castTables (s : State) (p : Nat) (e : DqEntry) (w a : Nat) : State :=
  let tt := (s.ctxAt e.ctx).record.ttbase.toNat
  let s := (gDeclared e.graph).foldl (fun s t => s.store (tt + 128 * (64 * a + t)) (tmplBytes e.argv (gTemplate e.graph t))) s
  let s := s.updCtx e.ctx fun x => { x with tmap := x.tmap.put a (gDeclared e.graph) }
  let s := s.loadSet p e w
  (s.partTiles p).foldl (fun s t => s.updTile t fun x => { x with miss := 0 }) s

/-- The regions that a graph names, with the addresses of their images (R413). One that no longer lies in the partition has the
key 65536, which no region has. -/
def State.regionWants (s : State) (p : Nat) (e : DqEntry) : List (Nat × Word) :=
  let d := (s.partAt p).desc
  (gRegions e.graph).map fun f =>
    (if field f 0 1 < descBW d && field f 1 1 < descBH d then blockKey (descX0 d + field f 0 1) (descY0 d + field f 1 1) else 65536,
      if field f 2 1 = 1 then e.argv.get 0 (field f 8 4) else BitVec.ofNat 64 (field f 8 8))

/-- A graph begins its cast-on, at its slot, on a width; one whose slot tables lead out of the rectangle, which may have changed
since its acceptance, is rejected (R306, log 68). -/
def State.beginCast (s : State) (p : Nat) (e : DqEntry) (w a : Nat) : State :=
  if !s.setsLegal p e.graph then s.completeGraph p e 3
  else (s.castTables p e w a).updEntry p e fun y =>
    { y with
      slot := some a
      stage := 1
      width := w
      held := false
      todo := s.regionWants p e
      asked := false
      masks := [] }

/-- Bytes of a range with their poison marks, as the supervisor's agents read them. -/
def State.deviceMarked (s : State) (c : Nat) (a : Word) (n : Nat) : Res (List PByte) :=
  if canonical a then (s.physical c .read .supervisor 0 (piecesOf a n)).map fun ps => ps.flatMap fun x => s.marked x.1 x.2
  else trapOf .apertureMiss a

/-- What a share keeps of the graph that last wrote it (R332). -/
def State.setDigest (s : State) (p die : Nat) (d : Option (BitVec 128)) : State :=
  s.updPart p fun x => { x with shares := x.shares.put die { x.shares.get {} die with digest := d } }

/-- One entry of a weight list is written to its share (R17, R332), which then holds no graph's weights until the last of its
entries is written, and `last` says that this one is; `skip` lists the dies whose share holds the graph's own. A share that has become too small ends the cast-on as a fault does. -/
def State.weightEntry (p c : Nat) (argv : Tab Word) (skip : List Nat) (digest : BitVec 128) (last : Bool) (x : State × Res Unit)
    (f : List Byte) : State × Res Unit :=
  let s := x.1
  let die := field f 0 1
  let sh := (s.partAt p).shares.get {} die
  if !x.2.isOk then x
  else if sh.size < field f 8 8 + field f 24 8 then (s, trapOf .apertureMiss 0)
  else if skip.contains die then x
  else
    match s.deviceMarked c (if field f 1 1 = 1 then argv.get 0 (field f 16 4) else BitVec.ofNat 64 (field f 16 8)) (field f 24 8) with
    | .error e => (s, .error e)
    | .ok bs => ((s.storeMarked (weightLoc die (sh.base + field f 8 8)) bs).setDigest p die (if last then some digest else none), .ok ())

/-- The entries of a weight list in order. -/
def State.weightList (p c : Nat) (argv : Tab Word) (skip : List Nat) (digest : BitVec 128) (x : State × Res Unit) :
    List (List Byte) → State × Res Unit
  | [] => x
  | f :: r => State.weightList p c argv skip digest
      (State.weightEntry p c argv skip digest (r.all fun e => field e 0 1 != field f 0 1) x f) r

/-- Step 5 of R331: the shares that do not hold the graph's weights are written, and each keeps its DIGEST, also where an entry of
another die's share fails (R332). -/
def State.castWeights (s : State) (p : Nat) (e : DqEntry) : State × Res Unit :=
  let dies := ((gWeights e.graph).map fun f => field f 0 1).foldl addOnce []
  let skip := dies.filter fun d => ((s.partAt p).shares.get {} d).digest == some (gDigest e.graph)
  State.weightList p e.ctx e.argv skip (gDigest e.graph) (s, .ok ()) (gWeights e.graph)

/-- The masks of R294 go to every region of the partition; one whose block has not left another partition has nothing bound once
it has (R345). -/
def State.applyMasks (s : State) (p : Nat) (masks : Tab (BitVec 16)) : State :=
  ((s.partBlocks p).filter (s.clearFor p)).foldl (fun s r => s.updRegion r fun x => x.remask (masks.get 0 r)) s

/-- A cast-on ends without running the graph (R332), or ends the resume that needed it (R359). -/
def State.castFails (s : State) (p : Nat) (e : DqEntry) : State :=
  if e.again then s.fatalCtx e.ctx 9 else s.completeGraph p e 3

/-- Step 4 of R331 for one entry: as RGN.LOAD of the supervisor would (R413), the image is requested and must become LIVE; an
entry outside the partition is rejected as NOT_IN_PARTITION (R114). A block that has not left another partition is waited for
(R345), and a request that an earlier resume left verified goes on (R414). -/
def State.castRegion (s : State) (p : Nat) (e : DqEntry) (n : Nat) (a : Word) (rest : List (Nat × Word)) : State :=
  let r := s.regionAt n
  let mine := r.ended.filter fun x => x.1 == e.ctx && x.2.1 == e.num
  if !(s.partBlocks p).contains n || s.fused.contains n then s.castFails p e
  else if e.asked then
    match mine with
    | some (_, _, some ports) =>
      (s.updRegion n fun x => { x with ended := none }).updEntry p e fun y =>
        { y with todo := rest, asked := false, masks := y.masks.put n ports }
    | some _ => (s.updRegion n fun x => { x with ended := none }).castFails p e
    | none => if r.req.isSome then s else s.updEntry p e fun y => { y with asked := false }
  else if r.busy || !s.clearFor p n then s
  else if a.toNat % 64 ≠ 0 || r.fixed then s.castFails p e
  else
    let s : State := { s with regions := s.regions.put n { r with ended := none } }
    let kept := ((s.ctxAt e.ctx).verified.find n).filter fun q => q.addr == a && q.cast == some e.num
    let s := match kept.bind fun q => q.image.map fun i => (q, i) with
      | some (q, i) => (s.updCtx e.ctx fun x => { x with verified := x.verified.del n }).admitImage n q i q.clock
      | none => s.request n e.ctx a (some e.num)
    s.updEntry p e fun y => { y with asked := true }

/-- The end of step 4: the masks, and the counts since cast-on. A resume on the saved rectangle takes both from the collars
(R300). -/
def State.castMasks (s : State) (p : Nat) (e : DqEntry) : State :=
  if e.again && !e.anew then s
  else (e.masks.foldl (fun s kv => s.updRegion kv.1 Region.recount) s).applyMasks p e.masks

/-- Steps 4 and 5 of R331, one region at a time; then the masks are applied and the weights written. -/
def State.castStep (s : State) (p : Nat) (e : DqEntry) : State :=
  match e.todo with
  | (n, a) :: rest => s.castRegion p e n a rest
  | [] =>
    match (s.castMasks p e).castWeights p e with
    | (s, .ok _) => s.updEntry p e fun y => { y with stage := 2, again := false, anew := false }
    | (s, .error (.fatal code)) => s.fatalCtx e.ctx code
    | (s, .error _) => s.castFails p e

/-- The graph that a context casts on next, and whether R331 lets it. -/
def State.castNext (s : State) (p c : Nat) : Option DqEntry :=
  let es := s.entries p c
  let active := es.filter fun e => e.stage != 0
  match es.find? fun e => e.stage == 0 with
  | none => none
  | some e =>
    if active.length < 8 && !(gHeavy e.graph && active.any fun x => gHeavy x.graph) then some e else none

/-- The lowest free active slot. -/
def State.freeSlot (s : State) (p c : Nat) : Nat :=
  ((List.range 8).find? fun a => (s.entries p c).all fun e => e.slot != some a).getD 0

/-! ### Nodes and stitches (R334-R336) -/

def DqEntry.pos (e : DqEntry) (i : Nat) : NodePos := e.nodes.get {} i
def DqEntry.setPos (e : DqEntry) (i : Nat) (x : NodePos) : DqEntry := { e with nodes := e.nodes.put i x }
def DqEntry.node (e : DqEntry) (i : Nat) : List Byte := gNode e.graph i
def DqEntry.count (e : DqEntry) (i : Nat) : Nat := nCount e.argv (e.node i)

/-- A node is ready: its predecessors have completed (R334). -/
def DqEntry.ready (e : DqEntry) (i : Nat) : Bool :=
  (List.range i).all fun p => bits (nPred (e.node i)) p 1 == 0 || (e.pos p).done

/-- The tile has finished every word of its tasks but those of the given tasks that are live (R22). -/
def Tile.finished (t : Tile) : Bool :=
  t.incoming.isNone && t.tasks.all (fun k => !k.live && k.stream.isEmpty) && t.words.isEmpty && t.outbound == 0

/-- A tile is idle for a node of an active graph (R336). -/
def State.idleFor (s : State) (p c slot i t : Nat) : Bool :=
  let x := s.tileAt t
  x.ctx == some c && x.part == some p && !x.halted && !(s.partAt p).out.contains t && !x.switched && x.incoming.isNone &&
    !(x.taskAt 0).live && (x.node == some (slot, i) || x.finished)

/-- The loop indices of stitch l, the last declared loop innermost (R334). -/
def loopIndices (exts : List Nat) (l : Nat) : List Nat := (digits exts.reverse l).reverse

/-- What the walker sends for stitch l of a node on a width. -/
def DqEntry.stitch (e : DqEntry) (p i w l : Nat) : Stitch :=
  { part := p
    ctx := e.ctx
    slot := e.slot.getD 0
    node := i
    entry := e.launch.image + BitVec.ofNat 64 (nEntry (e.node i) w)
    idx := loopIndices (nExts e.argv (e.node i)) l
    args := e.launch.args
    num := l }

/-- The width on which a node runs: that with which it started, else the graph's. -/
def DqEntry.nodeWidth (e : DqEntry) (i : Nat) : Nat := if (e.pos i).started then (e.pos i).width else e.width

/-- The tile of stitch l of a FIXED node. -/
def State.mapTile (s : State) (p : Nat) (e : DqEntry) (i l : Nat) : Nat :=
  let x := (e.maps.get [] (4 * i + e.nodeWidth i)).getD l 0
  s.tileOff p (x / 256) (x % 256)

/-- The stitch that a node dispatches next: the lowest that a halted tile gave back (R113), else the next in turn. -/
def NodePos.following (x : NodePos) : Nat := x.back.foldl min x.next

/-- Every stitch of a node of n has been dispatched, and none has been given back. -/
def NodePos.spent (x : NodePos) (n : Nat) : Bool := x.next == n && x.back.isEmpty

/-- The stitches with these numbers have been dispatched. -/
def NodePos.sent (x : NodePos) (ls : List Nat) : NodePos :=
  { x with next := ls.foldl (fun m l => max m (l + 1)) x.next, back := x.back.filter fun l => !ls.contains l }

/-- The stitches that a node may dispatch now, with their tiles (R336): none, one, or all of a co-resident node. -/
def State.placements (s : State) (p : Nat) (e : DqEntry) (i : Nat) : List (Nat × Nat) :=
  let n := e.node i
  let l := (e.pos i).following
  let set := s.widthTiles p (e.nodeWidth i)
  let idle := fun t => set.contains t && s.idleFor p e.ctx (e.slot.getD 0) i t
  if nCo n then
    let ts := if nFixed n then ((List.range (e.count i)).map fun l => s.mapTile p e i l).filter idle
      else (set.filter idle).take (e.count i)
    if l = 0 && ts.length = e.count i then (List.range (e.count i)).zip ts else []
  else if nFixed n then
    if idle (s.mapTile p e i l) then [(l, s.mapTile p e i l)] else []
  else match set.find? idle with
    | some t => [(l, t)]
    | none => []

/-- A region of class 2 that the graph binds has not reached FIN = FOUT, which makes its node co-resident for slice ending
(R300). -/
def State.unbalanced (s : State) (e : DqEntry) : Bool :=
  e.masks.any fun kv => (s.regionAt kv.1).live.any (fun m => m.qclass == 2) && !(s.regionAt kv.1).balanced

/-- The hold of a save lets go of a region of class 2 whose count is not FIN = FOUT, for its node goes on (R300): its tiles are not
under a save. -/
def State.unhold (s : State) (b : Nat) : State :=
  let r := s.regionAt b
  if r.save && r.live.any (fun m => m.qclass == 2) && !r.balanced then
    (List.range 4).foldl (fun s q => s.updTile (tileInBlock b q) fun t => { t with saveAt := none }) (s.updRegion b Region.unsave)
  else s

/-- A node may start, or go on, under R330, R347 and R352. -/
def State.mayRun (s : State) (p : Nat) (e : DqEntry) (i : Nat) : Bool :=
  let x := s.partAt p
  let n := e.node i
  if (e.pos i).started then
    !(x.ending && !nFixed n && !nCo n && !s.unbalanced e) && !(x.regrid && nFixed n && !nCo n)
  else !x.ending && !x.regrid && s.widest p e == some e.width

/-- The first node, in the order of R335, that can place a stitch. -/
def State.dispatchable (s : State) (p c : Nat) : Option (DqEntry × Nat × List (Nat × Nat)) :=
  (((s.entries p c).filter fun e => e.stage == 2).flatMap fun e =>
    (((List.range (gNodes e.graph)).filter fun i =>
      !(e.pos i).done && e.ready i && !(e.pos i).spent (e.count i) && s.mayRun p e i).map fun i =>
        (e, i, s.placements p e i)).filter fun x => !x.2.2.isEmpty).head?

/-- STITCH_DISPATCH (R335, R336); its block wakes (R423), a region of class 2 that holds it up is let go of (R300), and a ramp hold or T_HALT keeps it back (R420, R427). -/
def execStitchDispatch (part : Nat) (s : State) : Out :=
  .next (match (s.partAt part).now with
    | none => s
    | some c =>
      if s.power.held || s.power.halted || !s.power.on || !(s.ctxAt c).resumed || (s.ctxAt c).forced then s
      else match s.dispatchable part c with
        | none => s
        | some (e, i, places) =>
          let w := e.nodeWidth i
          let pos : NodePos := { (e.pos i).sent (places.map Prod.fst) with started := true, width := w, last := s.clock }
          places.foldl (fun s x =>
              (s.updTile x.2 fun t => { t with incoming := some (e.stitch part i w x.1) }).wakeBlock (blockOf x.2))
            ((e.masks.map Prod.fst).foldl State.unhold (s.updEntry part e fun y => { y.setPos i pos with held := false })))

/-- Task 0 at the start of a stitch (R21). What an earlier task of the slot issued still performs. -/
def Stitch.start (x : Stitch) (old : Task) : Task :=
  let idx := fun (v : Vector Word 32) (i : Fin 6) => v.set (i.val + 1) (BitVec.ofNat 64 (x.idx.getD i.val 0))
  let v := (List.finRange 6).foldl idx (Vector.replicate 32 0)
  { stream := old.stream
    live := true
    s := (v.set 7 x.args).set 8 (BitVec.ofNat 64 x.num)
    pc := x.entry
    level := .user }

/-- A stitch on its way to a tile that has halted (R113): one of a FREE node goes to another tile. -/
def State.giveBack (s : State) (tile : Nat) (x : Stitch) : State :=
  match (s.entries x.part x.ctx).find? fun e => e.slot == some x.slot with
  | none => s
  | some e =>
    if nFixed (e.node x.node) || nCo (e.node x.node) then s
    else (s.updTile tile fun t => { t with incoming := none }).updEntry x.part e fun y =>
      y.setPos x.node { (y.pos x.node) with back := (y.pos x.node).back ++ [x.num] }

/-- STITCH_START (R21, R23, R335). -/
def execStitchStart (tile : Nat) (s : State) : Out :=
  let t := s.tileAt tile
  .next (match t.incoming with
    | none => s
    | some x =>
      if t.halted then s.giveBack tile x
      else if (s.blockAt (blockOf tile)).gate ≠ .active || s.power.halted || !s.power.on then s
      else
        let s := if t.node = some (x.slot, x.node) then s else s.nodeBoundary x.ctx tile
        s.updTile tile fun t =>
          { t with
            incoming := none
            node := some (x.slot, x.node)
            stitch := BitVec.ofNat 64 x.num
            win0 := if t.win0.isNone then some 0 else t.win0
            lastIssue := s.cyclesAt tile
            tasks := t.tasks.set 0 (x.start (t.taskAt 0)) })

/-- The tiles that a node of an active graph holds, and those to which a stitch of it is on its way. A tile that a resize takes
out of the rectangle counts until it has left (R347). -/
def State.nodeTiles (s : State) (p c slot i : Nat) : List Nat :=
  (s.tiles.filter fun kv => kv.2.part == some p && kv.2.ctx == some c && kv.2.node == some (slot, i)).map Prod.fst
def State.nodeComing (s : State) (p c slot i : Nat) : Bool :=
  s.tiles.any fun kv => kv.2.incoming.any fun x => x.part == p && x.ctx == c && x.slot == slot && x.node == i

/-- The active graph of a slot in the context whose slice runs. -/
def State.activeGraph (s : State) (p slot : Nat) : Option DqEntry :=
  match (s.partAt p).now with
  | none => none
  | some c =>
    if (s.ctxAt c).resumed && !(s.ctxAt c).forced then
      (s.entries p c).find? fun e => e.slot == some slot && e.stage == 2
    else none

/-- NODE_COMPLETE (R22, R23, R265): every stitch is dispatched and every tile has finished. The tiles release their shared
state, and the collars apply the graph's masks again (R294). -/
def execNodeComplete (part slot node : Nat) (s : State) : Out :=
  .next (match s.activeGraph part slot with
    | none => s
    | some e =>
      let ts := s.nodeTiles part e.ctx slot node
      if gNodes e.graph ≤ node || (e.pos node).done || !e.ready node || !(e.pos node).spent (e.count node) ||
          s.nodeComing part e.ctx slot node || !(ts.all fun t => (s.tileAt t).finished) then s
      else
        let s := ts.foldl (fun s t => s.nodeBoundary e.ctx t) s
        let s := s.updEntry part e fun y => y.setPos node { (y.pos node) with started := true, done := true }
        s.applyMasks part e.masks)

/-- GRAPH_COMPLETE (R337). -/
def execGraphComplete (part slot : Nat) (s : State) : Out :=
  .next (match s.activeGraph part slot with
    | none => s
    | some e =>
      if (List.range (gNodes e.graph)).all fun i => (e.pos i).done then s.completeGraph part e 0 else s)

/-- The blocks that a width brings into the set of a partition wake (R423). -/
def State.widen (s : State) (p old new : Nat) : State :=
  let blocks := fun w => ((s.widthTiles p w).map blockOf).foldl addOnce []
  ((blocks new).filter fun b => !(blocks old).contains b).foldl State.wakeBlock s

/-- WIDTH_CHANGE (R330): the new width is applied where every node is complete or not started; a change during a slice switch is
the incoming context's (R363). A graph that can go on waits for its width no more (R329). -/
def execWidthChange (part slot : Nat) (s : State) : Out :=
  .next (match s.activeGraph part slot with
    | none => s
    | some e =>
      if (s.partAt part).ending || (List.range (gNodes e.graph)).any fun i => (e.pos i).started && !(e.pos i).done then s
      else match s.widest part e with
        | none => s.holdWidth part e
        | some w =>
          (if w = e.width then s else (s.loadSet part e w).widen part e.width w).updEntry part e fun y =>
            { y with width := w, held := false })

/-! ### The node watchdog (R338) -/

/-- Cycles of a log₂ period of the context record, with its default. -/
def periodOf (x : Byte) (dflt : Nat) : Nat := 2 ^ (if x = 0 then dflt else x.toNat)

/-- A task takes WATCHDOG, or waits for BUSY to clear. -/
def State.watchdogTask (s : State) (t k : Nat) : State :=
  let x := s.tileAt t
  if !(x.taskAt k).live then s
  else if x.trap.busy then s.updTile t fun y => { y with watchdog := y.watchdog ||| ((1 : BitVec 4) <<< k) }
  else s.enterTrap t k 5 ⟨.watchdog, 0, .read, 0⟩ (x.taskAt k).pc

/-- NODE_WATCHDOG_EXPIRY (R338): nothing was dispatched, issued or performed for NODEWD cycles; the next period runs from the
expiry. The cycles of a tile are those of its block's own clock (R422). -/
def execNodeWatchdogExpiry (part slot node : Nat) (s : State) : Out :=
  .next (match s.activeGraph part slot with
    | none => s
    | some e =>
      let ts := (s.nodeTiles part e.ctx slot node).filter fun t => (s.tileAt t).tasks.any fun k => k.live
      let due := fun now since => decide (since + periodOf (s.ctxAt e.ctx).record.nodewd 26 ≤ now)
      if ts.isEmpty || !due s.clock (e.pos node).last || !(ts.all fun t => due (s.cyclesAt t) (s.tileAt t).lastIssue) then s
      else
        let s := s.updEntry part e fun y => y.setPos node { (y.pos node) with last := s.clock }
        (ts.flatMap fun t => (List.range 4).map fun k => (t, k)).foldl (fun s tk => s.watchdogTask tk.1 tk.2) s)

end Sys2Proof.Machine
end

