-- ==== Sys2Proof/Machine/Context.lean ====
section
/-! DEFINITION. Context.lean: partitions (R344-R347), contexts (R348, R350), cast-on's turn (R331), slices and the bind-off token (R351-R354), the
kennel with saves and resumes (R355-R360, R213, R300), removal and the hang watchdog (R361-R363), and shootdowns (R372). -/

namespace Sys2Proof.Machine

/-! ### Partitions (R344-R347) -/

/-- The writable bits of a descriptor. -/
def descMask (v : Word) : BitVec 64 := v &&& 0xFFFFFFFF000FFFFF

/-- Two descriptors name one rectangle. -/
def sameRect (a b : BitVec 64) : Bool := bits a.toNat 0 16 == bits b.toNat 0 16

/-- A write that clears VALID deletes a partition to which no context is bound (R345). -/
def State.dropPart (s : State) (n : Nat) (d : BitVec 64) : State :=
  if s.bound n = [] then ((s.partBlocks n).foldl State.unbindRegion s).updPart n fun _ => { desc := d } else s

/-- A write of a descriptor: creation, deletion, a resize, or new values of the other fields (R344-R346). -/
def State.writeDesc (s : State) (n : Nat) (v : Word) : State :=
  let d := descMask v
  let x := s.partAt n
  if 64 ≤ n ∨ descWcap d = 3 then s
  else if !descValid x.desc then
    if !descValid d then s.putDesc n d
    else if s.descBad n d then s
    else s.putDesc n d
  else if !descValid d then s.dropPart n d
  else if sameRect d x.desc then s.putDesc n d
  else s.resize n d

/-- PARTITION_CREATE (R345). -/
def execPartitionCreate (num : Nat) (v : Word) (s : State) : Out :=
  s.managed fun s => if descValid (s.partAt num).desc || !descValid v then s else s.writeDesc num v

/-- PARTITION_RESIZE (R346, R347). -/
def execPartitionResize (num : Nat) (v : Word) (s : State) : Out :=
  s.managed fun s => if descValid (s.partAt num).desc && descValid v then s.writeDesc num v else s

/-- PARTITION_DELETE (R345). -/
def execPartitionDelete (num : Nat) (s : State) : Out :=
  s.managed fun s =>
    let d := (s.partAt num).desc
    if num < 64 && descValid d then s.dropPart num (d &&& 0xFFFFFFFFFFF7FFFF) else s

/-- WIDTH_CAP_WRITE (R344, R419). -/
def execWidthCapWrite (num cap : Nat) (s : State) : Out :=
  s.managed fun s =>
    if 64 ≤ num || 2 < cap then s
    else s.updPart num fun x => { x with desc := (x.desc &&& 0xFFFFFFFFFFFCFFFF) ||| BitVec.ofNat 64 (cap * 2 ^ 16) }

/-- A node of an active graph lets a resize end: complete, not started, or a FIXED node whose dispatched stitches have
finished (R347 step 5). -/
def State.nodeSettled (s : State) (p : Nat) (e : DqEntry) (i : Nat) : Bool :=
  let x := e.pos i
  !x.started || x.done ||
    (nFixed (e.node i) && !nCo (e.node i) && !s.nodeComing p e.ctx (e.slot.getD 0) i &&
      (s.tiles.all fun kv => kv.2.ctx != some e.ctx || kv.2.node != some (e.slot.getD 0, i) || kv.2.finished))

/-- An entry cast on again at its positions (R346, R347, R359). On another rectangle, or where that cast-on had not ended, the
width, the tensor map, the slot tables and the masks are those of a cast-on (R331), and nodes in progress go on on the width
chosen; with no usable width the entry is held, and one whose slot tables lead out of the rectangle is rejected (log 68). -/
def State.recast (s : State) (p : Nat) (e : DqEntry) (resume newRect : Bool) : State :=
  let anew := newRect || e.anew
  let todo := s.regionWants p e
  if anew && !s.setsLegal p e.graph then s.completeGraph p e 3
  else match if anew then s.widest p e else some e.width with
  | none =>
    (s.holdWidth p e).updEntry p e fun y =>
      { y with stage := 1, todo := todo, asked := false, again := resume, anew := true, masks := [] }
  | some w =>
    (if anew then (s.castTables p e w (e.slot.getD 0)).widen p e.width w else s.loadSet p e w).updEntry p e fun y =>
      { y with
        stage := 1
        width := w
        held := y.held && !anew
        todo := todo
        asked := false
        again := resume
        anew := anew
        masks := if anew then [] else y.masks
        nodes := if anew then y.nodes.map fun kv => (kv.1, ({ kv.2 with width := w } : NodePos)) else y.nodes }

/-- A resize ends once no resume is under way, every node has settled, every leaving tile has left, and every tile that joins has come (R347 step 5). -/
def State.endRegrid (s : State) (p : Nat) : State :=
  let x := s.partAt p
  match x.now with
  | none => s
  | some c =>
    let act := (s.entries p c).filter fun e => e.slot.isSome
    let left := (s.tiles.all fun kv => kv.2.ctx != some c || inDesc x.desc (blockOf kv.1)) &&
      (s.partTiles p).all fun t => (s.tileAt t).ctx == some c
    if x.regrid && (s.ctxAt c).resumed && left && act.all fun e => (List.range (gNodes e.graph)).all fun i => s.nodeSettled p e i then
      act.foldl (fun s e => s.recast p e false true) (s.updPart p fun y => { y with regrid := false })
    else s

/-- An entry that is cast on again on another rectangle and has no usable width there (R329, R347). -/
def DqEntry.narrow (e : DqEntry) : Bool := e.stage == 1 && e.held && e.anew

/-- CAST_ON (R331): once the tasks issue, a resize that can end does (R347); a graph under cast-on goes on, one that has waited for a usable width goes
on with it; else the context whose slice runs casts on its next graph. -/
def execCastOn (part : Nat) (s : State) : Out :=
  let p := s.partAt part
  .next (match p.now with
    | none => s
    | some c =>
      if p.ending || s.power.halted then s
      else if p.regrid && (s.ctxAt c).resumed then s.endRegrid part
      else match (s.entries part c).find? fun e =>
          e.stage == 1 && (!e.narrow || (s.widest part e).isSome || !s.setsLegal part e.graph) with
        | some e => if e.narrow then s.recast part e (!(s.ctxAt c).resumed) true else s.castStep part e
        | none =>
          if !(s.ctxAt c).resumed then s
          else match s.castNext part c with
            | none => s
            | some e =>
              match s.widest part e with
              | none => s.holdWidth part e
              | some w => s.beginCast part e w (s.freeSlot part c))

/-! ### Contexts (R348, R350) -/

/-- VF_ENABLE: context n exists. -/
def execVfEnable (n : Nat) (s : State) : Out :=
  s.managed fun s => if 192 ≤ n || (s.ctxAt n).exists_ then s else s.updCtx n fun _ => { exists_ := true }

/-- VF_DISABLE: context n no longer exists. -/
def execVfDisable (n : Nat) (s : State) : Out :=
  s.managed fun s => if (s.ctxAt n).exists_ then (s.removeContext n 0 true false).updCtx n fun _ => {} else s

/-- A tile holds nothing of its context any more: no task, no word, no outbound traffic (R22, R353). -/
def Tile.vacant (t : Tile) : Bool := t.finished && t.rows.isEmpty && t.air.isEmpty && t.faults.isEmpty

/-- The conditions of R348 for a change of a binding: no stitch or task of the context stands on a tile, which has finished it
(R22), its kennel is EMPTY or COOPERATIVE, and no enabled schedule entry names it. -/
def State.mayRebind (s : State) (c : Nat) : Bool :=
  let r := (s.ctxAt c).record
  let p := s.partAt r.part.toNat
  r.part == 0xFF ||
    ((s.ctxTiles c).all (fun t => (s.tileAt t).vacant) && decide (s.kstate c ≤ 1) &&
      !(p.sched.any fun kv => kv.2.getLsbD 8 && bits kv.2.toNat 0 8 == c))

/-- The limits of a context record (R348; of PDIR, R373). -/
def State.recordOk (s : State) (r : CtxRec) : Bool :=
  let p := s.partAt r.part.toNat
  let hbm := fun (a : Word) n => decide (a.toNat + n ≤ s.hbm)
  decide (r.part.toNat < 64) && descValid p.desc && decide (r.ptroot.toNat % 4096 = 0) && decide (r.ttbase.toNat % 4096 = 0) &&
    decide (512 ≤ r.ttlen.toNat) && decide (r.ttlen.toNat ≤ 65536) && decide (r.kennel.toNat % 65536 = 0) &&
    hbm r.kennel r.klen.toNat && decide (2 ^ 24 + 2 ^ 22 * (4 * descBW p.desc * descBH p.desc) ≤ r.klen.toNat) &&
    canonical r.heap && decide (r.heaplen.toNat % 64 = 0) && decide (r.pdir.toNat % 2097152 = 0) && hbm r.pdir 2097152 &&
    (r.peertmo == 0 || (decide (100 ≤ r.peertmo.toNat) && decide (r.peertmo.toNat ≤ 1000000))) &&
    (r.nodewd == 0 || (decide (20 ≤ r.nodewd.toNat) && decide (r.nodewd.toNat ≤ 40))) &&
    (r.hangwd == 0 || (decide (16 ≤ r.hangwd.toNat) && decide (r.hangwd.toNat ≤ 32))) &&
    decide (r.tvec0.toNat % 4 = 0) && decide (r.pairtab.toNat % 256 = 0)

/-- The device-queue entries of a context leave its partition (R348). -/
def State.park (s : State) (c : Nat) : State :=
  let p := (s.ctxAt c).record.part.toNat
  if 64 ≤ p then s
  else
    let mine := (s.partAt p).queue.filter fun e => e.ctx == c
    (s.updPart p fun x => { x with queue := x.queue.filter fun e => e.ctx != c }).updCtx c fun x => { x with parked := x.parked ++ mine }

/-- An idle context leaves the tiles that it still holds, and the regions that it has bound, those on blocks that are leaving among
them (R345, R348). -/
def State.leaveIdle (s : State) (c : Nat) : State :=
  let p := (s.ctxAt c).record.part.toNat
  let ts := s.ctxTiles c
  let blocks := s.ctxBlocks p c
  let s := ts.foldl (fun s t => (s.closeWindows c t).freeTile t) s
  let s := if (s.partAt p).now = some c then
      (blocks.foldl State.unbindRegion s).updPart p fun x =>
        { x with now := none, ending := false, token := [], regrid := false, out := x.out.filter fun t => !ts.contains t }
    else s
  ((s.updCtx c fun x => { x with resumed := false, forced := false, saveAt := none }).joinBlocks ts).lateResize p

/-- The record of a context changes its binding; the entries of others that waited for room in the queue it leaves, and its own in
that of its new partition, enter (R324, R348). -/
def State.rebind (s : State) (c : Nat) (f : Ctx → Ctx) : State :=
  let old := (s.ctxAt c).record.part.toNat
  let s := (((s.leaveIdle c).park c).updCtx c f).unpark old
  s.unpark (s.ctxAt c).record.part.toNat

/-- CONTEXT_BIND: the record's limits and the conditions of R348; a second resident context brings the shared plan (R350,
R418). A kennel that is INCOMPLETE is never resumed: the binding is refused and reports it (R359). -/
def execContextBind (n : Nat) (rec : CtxRec) (s : State) : Out :=
  s.managed fun s =>
    if !(s.ctxAt n).exists_ || !s.mayRebind n || !s.recordOk rec then s
    else if s.readNat rec.kennel.toNat 4 = 3 then s.reply (.incomplete n)
    else if 1 < s.readNat rec.kennel.toNat 4 then s
    else
      let s := s.rebind n fun x => { x with record := rec, tlb := [], walks := [] }
      if 2 ≤ s.residents then s.plan 1250 else s

/-- CONTEXT_UNBIND. -/
def execContextUnbind (n : Nat) (s : State) : Out :=
  s.managed fun s =>
    if (s.ctxAt n).exists_ && s.mayRebind n then s.rebind n fun x => { x with record := { x.record with part := 0xFF } }
    else s

/-! ### The schedule (R351) -/

def schedLen (e : BitVec 32) : Nat := bits e.toNat 13 19
def schedWeight (e : BitVec 32) : Nat := bits e.toNat 9 4
def schedOn (e : BitVec 32) : Bool := e.getLsbD 8
def schedCtx (e : BitVec 32) : Nat := bits e.toNat 0 8

/-- SCHEDULE_ENTRY_WRITE. -/
def execScheduleEntryWrite (num idx : Nat) (v : BitVec 32) (s : State) : Out :=
  s.managed fun s =>
    let bad := schedOn v && (decide (schedLen v < 10) || schedWeight v == 0 || s.partOf (schedCtx v) != some num)
    if 64 ≤ num || 16 ≤ idx || bad then s else s.updPart num fun x => { x with sched := x.sched.set 0 idx v }

/-- A context has an active graph or a queued launch. -/
def State.hasWork (s : State) (p c : Nat) : Bool := (s.partAt p).queue.any fun e => e.ctx == c

/-- An entry of the schedule names a context that can run. -/
def State.runnable (s : State) (p k : Nat) : Bool :=
  let e := (s.partAt p).sched.get 0 k
  schedOn e && s.partOf (schedCtx e) == some p && s.hasWork p (schedCtx e)

/-- The entry whose slice comes next, and the slices it then has had in its turn (R351): the entry that runs while it has
slices left in the round, else the next entry in order. -/
def State.nextSlice (s : State) (p : Nat) : Option (Nat × Nat) :=
  let x := s.partAt p
  if s.runnable p x.entry && decide (x.slices < schedWeight (x.sched.get 0 x.entry)) then some (x.entry, x.slices + 1)
  else (((List.range 16).map fun i => (x.entry + 1 + i) % 16).find? fun k => s.runnable p k).map fun k => (k, 1)

/-- Tiles of a rectangle in the order of the bind-off token: rows from the top, alternately left to right and back (R353). -/
def serpentine (d : BitVec 64) : List Nat :=
  (List.range (2 * descBH d)).flatMap fun j =>
    let row := (List.range (2 * descBW d)).map fun i => tileKey (2 * descX0 d + i) (2 * descY0 d + j)
    if j % 2 = 0 then row else row.reverse

/-- A graph under its first cast-on goes back to the queue (R331: cast-on takes place only in its context's slice). -/
def DqEntry.first (e : DqEntry) : Bool := e.stage == 1 && !e.again && !e.anew
def DqEntry.uncast (e : DqEntry) : DqEntry := { e with stage := 0, slot := none, todo := [], asked := false, masks := [] }
def State.uncastAll (s : State) (p c : Nat) : State :=
  let slots := ((s.entries p c).filter DqEntry.first).filterMap DqEntry.slot
  (s.updPart p fun x => { x with queue := x.queue.map fun e => if e.ctx = c && e.first then e.uncast else e }).updCtx c fun x =>
    { x with tmap := slots.foldl (fun m a => m.del a) x.tmap }

/-- The context leaves the tiles of the partition; a tile that has halted stays as it is (R113), and what waited for one goes
on. -/
def State.vacatePart (s : State) (p c : Nat) : State :=
  let ts := (s.ctxTiles c).filter fun t => !(s.tileAt t).halted
  let s := ts.foldl State.freeTile s
  let s := s.updCtx c fun x => { x with forced := false, resumed := false, saveAt := none }
  let s := s.updPart p fun x => { x with now := none, ending := false, token := [], regrid := false }
  s.joinBlocks ts

/-- What the cast-on of a resume that is given up has done to a region goes, its bindings among it. A request goes on: under
verification it ends so, verified it stays with the context, under programming its image becomes live (R414). -/
def State.stopRegion (s : State) (b : Nat) : State :=
  let r := s.regionAt b
  match r.req with
  | none => s.updRegion b Region.released
  | some q =>
    if r.state = 2 then s.keepRequest b q
    else s.updRegion b fun r =>
      { r.released with state := r.state, held := r.state == 3, req := some { q with stopped := r.state == 1 } }

/-- A resume is given up before any task has issued: the kennel, the images and the collars stay as they are, and a resize that
waited for it goes on (R346). -/
def State.stopResume (s : State) (p c : Nat) : State :=
  (((s.ctxBlocks p c).foldl State.stopRegion s).vacatePart p c).lateResize p

/-- SLICE_END (R351, R352): the slice's length has passed or its context has no more work, and another context can run. A resume
that has not completed by then is given up. -/
def execSliceEnd (part : Nat) (s : State) : Out :=
  let x := s.partAt part
  .next (match x.now, s.nextSlice part with
    | some c, some (k, n) =>
      let passed := decide (x.startedAt + 1000 * schedLen (x.sched.get 0 x.entry) ≤ s.ns) || !s.hasWork part c
      if x.ending || (s.ctxAt c).forced || !passed then s
      else if schedCtx (x.sched.get 0 k) = c then
        s.updPart part fun y => { y with entry := k, slices := n, startedAt := s.ns }
      else if !(s.ctxAt c).resumed then s.stopResume part c
      else
        (s.uncastAll part c).updPart part fun y => { y with ending := true, endedAt := s.ns, token := serpentine y.desc }
    | _, _ => s)

/-- BIND_OFF_TOKEN_HOP (R353); the token wakes the block (R423). -/
def execBindOffTokenHop (part : Nat) (s : State) : Out :=
  .next (match (s.partAt part).token with
    | [] => s
    | t :: r =>
      ((s.updTile t fun x => { x with passed := true }).updPart part fun x => { x with token := r }).wakeBlock (blockOf t))

/-! ### The kennel (R355, R356) -/

def State.kennelAt (s : State) (c : Nat) : Nat := (s.ctxAt c).record.kennel.toNat

/-- The tiles of a partition with their numbers k. -/
def State.numbered (s : State) (p : Nat) : List (Nat × Nat) := (s.partTiles p).zipIdx.map fun x => (x.2, x.1)

/-- A graph position (R355). -/
def gpos (e : DqEntry) : List Byte :=
  let nodes := List.range (gNodes e.graph)
  let run := nodes.find? fun i => (e.pos i).started && !(e.pos i).done
  let i := run.getD ((nodes.find? fun i => !(e.pos i).done).getD 0)
  le 4 e.num.toNat ++ le 1 e.width ++ le 1 i ++ le 1 (if run.isSome then 2 else 1) ++ [0] ++ le 8 (e.pos i).following ++ List.replicate 16 0

/-- The header of a kennel: KSTATE, SAVES, RECT, NTILE, STICKY, GPOS, SCR, TRV and its zero area (R355, R357, R358). -/
def State.writeKennel (s : State) (p c kstate ntile : Nat) : State :=
  let k := s.kennelAt c
  let d := (s.partAt p).desc
  let saves := (s.ctxAt c).saves + 1
  let slots := (List.range 8).flatMap fun a =>
    match (s.entries p c).find? fun e => e.slot == some a with
    | some e => gpos e
    | none => List.replicate 32 0
  let s := ((s.updCtx c fun x => { x with saves := saves }).zeroAt (k + 0x7000) 0x9000).store k (le 4 kstate ++ le 4 0 ++ le 8 saves ++
    [BitVec.ofNat 8 (descX0 d), BitVec.ofNat 8 (descY0 d), BitVec.ofNat 8 (descBW d), BitVec.ofNat 8 (descBH d)] ++
    le 2 ntile ++ [0, 0] ++ le 8 (s.ctxAt c).sticky.toNat ++ slots)
  (s.numbered p).foldl (fun s x =>
    let r := if (s.tileAt x.2).ctx = some c then (s.tileAt x.2).trap else {}
    let s := s.store (k + 0x400 + 32 * x.1) (r.scratch.toList.flatMap fun w => le 8 w.toNat)
    s.store (k + 0x4C00 + 16 * x.1) (le 8 r.tvec.toNat ++ [r.sticky] ++ List.replicate 7 0)) s

/-- The trap registers that SCR and TRV give tile k (R357). -/
def State.savedTrap (s : State) (c k : Nat) : TrapRegs :=
  let b := s.kennelAt c
  { tvec := BitVec.ofNat 64 (s.readNat (b + 0x4C00 + 16 * k) 8)
    sticky := s.byte (b + 0x4C00 + 16 * k + 8)
    scratch := Vector.ofFn fun (i : Fin 4) => BitVec.ofNat 64 (s.readNat (b + 0x400 + 32 * k + 8 * i) 8) }

/-- Bytes and their poison marks move from one place to another; what they leave reads 0. -/
def State.moveBytes (s : State) (src dst n : Nat) : State :=
  let here := fun x => decide (src ≤ x) && decide (x < src + n)
  let cells := s.mem.filter fun c => here c.1
  let marks := s.poison.filter here
  let s := (s.zeroAt dst n).zeroAt src n
  let s := cells.foldl (fun s c => s.store (dst + (c.1 - src)) [c.2]) s
  { s with poison := s.poison ++ marks.map fun x => dst + (x - src) }

/-- The place of the SRAM of tile k in the kennel (R355, R356). -/
def State.imageAt (s : State) (c k : Nat) : Nat := s.kennelAt c + 2 ^ 24 + 2 ^ 22 * k

/-- What an engine word keeps of what it was about in a tile image: its progress; the source bytes that it has taken and not used are
taken again, but for those that have left a buffer or a port (R244, log 61). -/
def Entry.rest (t : Tile) (e : Entry) : Entry :=
  { e with
    faulted := e.faulted && !(t.faults.any fun f => f.uid == e.uid)
    inb := e.inb.take e.own
    raw := []
    put := 0 }

/-- A task in an image: a WAITC that sleeps issues again (R136). -/
def Task.rested (k : Task) : Task := { k with sleep := none, seen := 0, asked := .no, yielding := 0 }

/-- What a tile image keeps (R136, R213, R244, R356, R380): undelivered faults, chunks that an expander keeps, and the weights of
planes are not saved; an MLDW that is loading goes back to the head of its queue, and what the C word at the head has taken of a
source buffer ahead of its progress point goes back into it. -/
def Tile.image (t : Tile) : Tile :=
  let t : Tile := match t.cq with
    | [] => t
    | e :: q =>
      let r := t.giveBack e (sourceOf e.word)
      { r.1 with cq := r.2 :: q }
  let loads := (t.plane0.load.toList ++ t.plane1.load.toList).map fun e => ({ e with prog := 0, stage := 0, inb := [] } : Entry)
  let bare := fun (p : Plane) => ({ replay := if p.st = 2 then p.replay else none } : Plane)
  { t with
    tasks := t.tasks.map Task.rested
    vq := t.vq.map (Entry.rest t)
    mq := loads ++ t.mq.map (Entry.rest t)
    cq := t.cq.map (Entry.rest t)
    lq := t.lq.map (Entry.rest t)
    plane0 := bare t.plane0
    plane1 := bare t.plane1
    sts := t.sts.map fun x => (x.1, ({ x.2 with kept := [] } : AStream))
    faults := []
    trapWait := 0
    queueWait := Vector.replicate 4 0
    saveAt := none }

/-! ### Regions under a save (R300) -/

/-- The hold of a save begins on a region that runs an image, or for which one is under way (R300, R414). -/
def Region.holdForSave (r : Region) : Region :=
  if r.live.isNone && r.req.isNone then r else { r with held := true, save := true, drain := r.live.any fun i => i.qclass == 1 }

/-- A region is ready to be saved: no verification or programming is under way, no binding change waits, its input ports are
held at frame boundaries; and FIN = FOUT, or `late` says that a promise is broken. -/
def Region.savable (r : Region) (late : Bool) : Bool :=
  r.live.isNone && r.req.isNone ||
    (r.save && r.state != 1 && r.state != 3 && r.pend == 0 && r.answer.isNone && r.stopped && (r.balanced || late))

/-- The collar record of a region; an image that has passed verification becomes the context's (R414). -/
def Region.collar (r : Region) : Collar :=
  let v := r.req.bind RgnReq.image
  { mask := r.mask
    again := r.again
    ports := r.ports
    image := v.or r.live }

/-- The blocks whose collar a save writes. -/
def State.collarBlocks (s : State) (p c : Nat) : List Nat :=
  (s.ctxBlocks p c).filter fun b => (s.regionAt b).live.isSome || (s.regionAt b).req.isSome

/-- The collar records of a context's regions go to the context. -/
def State.saveCollars (s : State) (p c : Nat) : State :=
  (s.collarBlocks p c).foldl (fun s b =>
    let r := s.regionAt b
    (s.updCtx c fun x => { x with collars := x.collars.put b r.collar }).updRegion b Region.released) s

/-- A region takes its collar record back; a replaced image is programmed again and starts from its reset state. A rejection that
stands on the region goes on standing (R415). -/
def State.restoreCollar (s : State) (b : Nat) (k : Collar) : State :=
  let r := s.regionAt b
  let clock := match k.image with
    | none => r.clock
    | some i => if r.live = k.image then r.clock else (s.regionClock i.fmax).getD r.clock
  let s := match k.image with
    | none => s
    | some i => if r.live = k.image then s else s.raiseRbc i
  s.updRegion b fun r =>
    { r with
      live := k.image
      state := if r.state = 5 then 5 else if k.image.isSome then 4 else 0
      reason := if r.state = 5 then r.reason else 0
      mask := k.mask
      again := k.again
      ports := k.ports
      clock := clock
      held := false
      drain := false
      save := false }

/-! ### The end of a save -/

/-- A save ends with the kennel INCOMPLETE (R362), under a fatal code of R381, and the context is removed. -/
def State.abandonSave (s : State) (c code reason : Nat) : State :=
  ((s.setKstate c 3 reason).postFatal (s.ctxTiles c).head? c code).removeContext c code false true

/-- The parts of the kennel that a save of some images writes: the header, collar records and images (R355). -/
def State.kennelParts (s : State) (p c : Nat) (images : List (Nat × Nat)) : List (Nat × Nat) :=
  let k := s.kennelAt c
  let blocks := s.collarBlocks p c
  (k, 65536) :: ((s.numbered p).filter fun x => blocks.contains (blockOf x.2)).map (fun x => (k + 0x10000 + 0x4000 * x.1, 0x4000)) ++
    images.map fun x => (s.imageAt c x.1, 2 ^ 22)

/-- KLEN holds the partition's images, and no kennel byte that the save meets is poisoned (R362). -/
def State.kennelBad (s : State) (p c : Nat) (images : List (Nat × Nat)) : Option (Nat × Nat) :=
  let r := (s.ctxAt c).record
  let most := (images.map fun x => x.1 + 1).foldl max (s.partTiles p).length
  if r.klen.toNat < 2 ^ 24 + 2 ^ 22 * most then some (2, 2)
  else if (s.kennelParts p c images).any fun x => s.poisoned x.1 x.2 then some (3, 3)
  else none

/-- The context leaves the partition after its save; whether a resize of its graphs was under way stays with it (R347). -/
def State.leavePart (s : State) (p c : Nat) : State :=
  let regrid := (s.partAt p).regrid
  (s.updCtx c fun x => { x with regrid := regrid }).vacatePart p c

/-- The save of a context whose tiles have all switched, none by force (R357), or some by force with their images (R358). -/
def State.completeSave (s : State) (p c : Nat) (images : List (Nat × Nat)) : State :=
  match s.kennelBad p c images with
  | some (code, reason) => s.abandonSave c code reason
  | none =>
    let s := s.saveCollars p c
    let s := s.writeKennel p c (if (s.ctxAt c).forced then 2 else 1) images.length
    let s := images.foldl (fun s x =>
      (s.updCtx c fun y => { y with images := y.images.put x.2 (x.1, (s.tileAt x.2).image) }).moveBytes (sramLoc x.2 0) (s.imageAt c x.1)
        Config.sramBytes) s
    (s.leavePart p c).lateResize p

/-! ### Switching tiles (R353) -/

/-- A FIXED node in progress names the tile for a stitch that is not dispatched yet (R352); under a resize none is (R347). A FREE
node that a region of class 2 makes co-resident has such stitches for every tile of its width (R300). -/
def State.awaited (s : State) (p c t : Nat) : Bool :=
  !(s.partAt p).regrid && (s.entries p c).any fun e =>
    e.slot.isSome && (List.range (gNodes e.graph)).any fun i =>
      (e.pos i).started && !(e.pos i).done &&
        if nFixed (e.node i) then
          (List.range (e.count i)).any fun l => decide ((e.pos i).next ≤ l) && s.mapTile p e i l == t
        else s.unbalanced e && !(e.pos i).spent (e.count i) && (s.widthTiles p (e.nodeWidth i)).contains t

/-- A tile is the last of its block to switch; it waits for the quiesce of the block's region (R300). -/
def State.lastOfBlock (s : State) (p t : Nat) : Bool :=
  (List.range 4).all fun q =>
    let u := tileInBlock (blockOf t) q
    u == t || !(s.inPart p u) || (s.tileAt u).switched || (s.tileAt u).halted || (s.tileAt u).ctx.isNone

/-- Every tile of the context has switched, or has halted. -/
def State.allSwitched (s : State) (c : Nat) : Bool :=
  (s.ctxTiles c).all fun t => (s.tileAt t).ctx != some c || (s.tileAt t).switched || (s.tileAt t).halted

/-- Every region under the context is ready to be saved. -/
def State.regionsReady (s : State) (p c : Nat) (late : Bool) : Bool :=
  (s.ctxBlocks p c).all fun b => (s.regionAt b).savable late

/-- The last tile that switches, or leaves, ends a cooperative save, once a verification that a tile of another block has begun
since its own block switched is over (R414). -/
def State.maybeSaved (s : State) (p c : Nat) : State :=
  if (s.partAt p).ending && !(s.ctxAt c).forced && s.allSwitched c then
    if s.regionsReady p c false then s.completeSave p c []
    else (s.ctxBlocks p c).foldl (fun s b => s.updRegion b Region.holdForSave) s
  else s

/-- A tile that a resize takes out of its partition leaves (R347 step 2). Its block has left with its last tile, and what waited
for the tile goes on. -/
def State.leaveTile (s : State) (p c t : Nat) : State :=
  if (s.tileAt t).vacant then
    let s := (s.closeWindows c t).freeTile t
    let s := if s.leaving p (blockOf t) then s else s.unbindRegion (blockOf t)
    ((s.joinBlocks [t]).endRegrid p).maybeSaved p c
  else s

/-- The tile switches; the last of the partition ends the save. -/
def State.switchTile (s : State) (p c t : Nat) : State :=
  let s := (s.nodeBoundary c t).updTile t fun x => { x with switched := true, saveAt := none }
  (s.updCtx c fun x => { x with saveAt := some (x.saveAt.getD s.clock) }).maybeSaved p c

/-- The save of a tile begins, which the hang watchdog measures (R362). -/
def State.saveBegins (s : State) (t : Nat) : State :=
  s.updTile t fun x => { x with saveAt := some (x.saveAt.getD (s.cyclesAt t)) }

/-- TILE_SWITCH (R353, R357, and R346 for a tile that leaves its partition); at a tile that has switched the save may end. A tile
that waits for stitches of a node is under no hold (R300). -/
def execTileSwitch (tile : Nat) (s : State) : Out :=
  let x := s.tileAt tile
  .next (match x.ctx, x.part with
    | some c, some p =>
      let pt := s.partAt p
      if pt.now ≠ some c || (s.ctxAt c).forced then s
      else if !s.inPart p tile then s.leaveTile p c tile
      else if pt.ending && x.switched then s.maybeSaved p c
      else if !pt.ending || !x.passed || x.halted || !x.vacant then s
      else if s.awaited p c tile then s.unhold (blockOf tile)
      else if s.lastOfBlock p tile && !(s.regionAt (blockOf tile)).savable false then
        (s.saveBegins tile).updRegion (blockOf tile) Region.holdForSave
      else s.switchTile p c tile
    | _, _ => s)

/-! ### Forced pre-emption (R354, R358) -/

/-- A resize that waits is rejected by T_HALT (R363). -/
def State.dropResize (s : State) (p : Nat) : State :=
  if s.power.halted && (s.partAt p).resize.isSome then (s.updPart p fun x => { x with resize := none }).reply (.savedMidnode p) else s

/-- A forced pre-emption begins: fetch and engines stop on the tiles that still run the context, its regions are held, and a graph
under its first cast-on goes back to the queue. A context whose resume is under way has no task yet: the resume is given up. -/
def State.force (s : State) (p c : Nat) : State :=
  let s' := s.dropResize p
  if (s.ctxAt c).forced then s
  else if !(s.ctxAt c).resumed then s'.stopResume p c
  else
    let mine := (s.ctxTiles c).filter fun t => !(s.tileAt t).switched && !(s.tileAt t).halted
    let s := mine.foldl State.saveBegins (s'.uncastAll p c)
    let s := s.updCtx c fun x => { x with forced := true, saveAt := some (x.saveAt.getD s.clock) }
    let s := (s.ctxBlocks p c).foldl (fun s b => (s.updRegion b Region.holdForSave).wakeBlock b) s
    s.updPart p fun x => { x with ending := true, token := [] }

/-- GRACE_EXPIRY. -/
def execGraceExpiry (part : Nat) (s : State) : Out :=
  let x := s.partAt part
  .next (match x.now with
    | none => s
    | some c => if x.ending && decide (x.endedAt + 1000 * descGrace x.desc ≤ s.ns) then s.force part c else s)

/-- FORCED_PREEMPT_REQUEST (R358). -/
def execForcedPreemptRequest (ctx : Nat) (s : State) : Out :=
  s.managed fun s =>
    match s.partOf ctx with
    | none => s
    | some p => if (s.partAt p).now = some ctx then s.force p ctx else s

/-- Everything that R358 lets finish on a tile has: results and responses landed, rows inside the array entered, words under
way completed; accesses that wait for an engine word under SBAR are saved. -/
def Tile.settledForSave (t : Tile) : Bool :=
  t.outbound == 0 && t.rows.isEmpty && t.air.isEmpty &&
    t.tasks.all fun k => k.landings.isEmpty && k.stream.all fun a => !a.sent && t.barred a.bars

/-- A tile that stands between nodes and runs nothing needs no image (R365): SCR and TRV hold what it keeps. -/
def Tile.bare (t : Tile) : Bool := t.vacant && t.node.isNone

/-- The tiles that a forced save images, with their numbers: those of the rectangle in row-major order, then those that a resize
takes out of it and that have not left (log 69). -/
def State.imaged (s : State) (p c : Nat) : List (Nat × Nat) :=
  let gone := (s.ctxTiles c).filter fun t => !s.inPart p t
  let mine := fun t => (s.tileAt t).ctx == some c && !(s.tileAt t).switched && !(s.tileAt t).halted && !(s.tileAt t).bare
  (s.numbered p ++ (gone.zipIdx).map fun x => ((s.partTiles p).length + x.2, x.1)).filter fun kt => mine kt.2

/-- FORCED_SAVE_DONE (R358): tiles that had not switched leave their images. -/
def execForcedSaveDone (ctx : Nat) (s : State) : Out :=
  .next (match s.partOf ctx with
    | none => s
    | some p =>
      let x := s.ctxAt ctx
      let late := decide (x.saveAt.getD 0 + 3072 ≤ s.clock)
      if !x.forced || !((s.ctxTiles ctx).all fun t => (s.tileAt t).settledForSave) || !s.regionsReady p ctx late ||
          !(s.ctxBlocks p ctx).all s.awake then s
      else s.completeSave p ctx (s.imaged p ctx))

/-- HANG_WATCHDOG_EXPIRY (R362): the save of a tile has lasted for HANGWD cycles of its block (R422). -/
def execHangWatchdogExpiry (ctx : Nat) (s : State) : Out :=
  let due := fun t => (s.tileAt t).saveAt.any fun a => decide (a + periodOf (s.ctxAt ctx).record.hangwd 24 ≤ s.cyclesAt t)
  .next (if (s.ctxTiles ctx).any due then s.abandonSave ctx 1 1 else s)

/-- LATE_FLAG_RAISE (R360): a flag that comes up after a tile has switched, or has stopped for a forced save, is the task's that
issued the operation, or the context's once that task has exited. None comes after KSTATE is written. -/
def execLateFlagRaise (ctx tile task : Nat) (f : BitVec 8) (s : State) : Out :=
  let t := s.tileAt tile
  .next (if t.ctx ≠ some ctx || !(t.switched || (s.ctxAt ctx).forced) then s
    else if (t.taskAt task).live && !t.switched then
      s.updTile tile fun u => u.updTask task fun k => { k with flags := k.flags ||| f }
    else s.updCtx ctx fun y => { y with sticky := y.sticky ||| f })

/-! ### Resume (R359) -/

/-- Tile k of a context that starts its slice (R21, R24, R357): from its image, else zeroed with the saved or the first trap
registers. An image waits until the graphs are cast on again. -/
def State.arriveTile (s : State) (p c kst k t : Nat) : State :=
  let saved := s.byte (s.kennelAt c + 18)
  let savedH := s.byte (s.kennelAt c + 19)
  let s := s.freshTile p c t
  if kst = 0 || decide (4 * saved.toNat * savedH.toNat ≤ k) then s
  else s.updTile t fun x => { x with trap := s.savedTrap c k }

/-- The rectangle of a partition is the one that the kennel names. -/
def State.sameAsSaved (s : State) (p c : Nat) : Bool :=
  let d := (s.partAt p).desc
  let b := s.kennelAt c
  (s.bytesAt (b + 16) 4).map BitVec.toNat == [descX0 d, descY0 d, descBW d, descBH d]

/-- The slice of a context begins: its tiles are made ready, and its active graphs are to be cast on again, on another rectangle
than the kennel names, or than the context was bound to, or under a resize, as new ones (R346-R348). -/
def State.beginResume (s : State) (p c : Nat) : State :=
  let kst := s.kstate c
  let regrid := (s.ctxAt c).regrid
  let anew := kst == 0 || (kst == 1 && (regrid || !s.sameAsSaved p c))
  let free := (s.numbered p).filter fun x => (s.tileAt x.2).ctx.isNone
  let s := free.foldl (fun s x => s.arriveTile p c kst x.1 x.2) s
  let s := s.updPart p fun x => { x with now := some c, startedAt := s.ns, regrid := regrid && kst == 2 }
  let s := (((s.ctxAt c).images.map fun i => blockOf i.1).foldl addOnce (s.partBlocks p)).foldl State.wakeBlock s
  ((s.entries p c).filter fun e => e.slot.isSome).foldl (fun s e => s.recast p e true anew) s

/-- A replay of a plane's REC (R213): an MLDW at the head of M, on behalf of the task that REC names, or of the lowest that is
present; with no task there is none. Until it issues its plane is EMPTY. -/
def Tile.replayPlane (t : Tile) (p : Nat) : Tile :=
  match (t.plane p).replay with
  | none => t
  | some (a, y, depth, k) =>
    match (k :: List.range 4).find? fun j => (t.taskAt j).live with
    | none => t.setPlane p Plane.cleared
    | some j =>
      let e : Entry :=
        { uid := t.uid, task := j, tok := none, word := .mldw 0 y (BitVec.ofNat 4 (depth / 8 - 1)) (BitVec.ofNat 1 p), a := a,
          level := (t.taskAt j).level }
      { t with uid := t.uid + 1, mq := e :: t.mq }.setPlane p Plane.cleared

/-- PREEMPT for task 0 of a tile restored from its image, if it stood at USER level (R359, R380). -/
def State.deliverPreempt (s : State) (t : Nat) : State :=
  let x := s.tileAt t
  if !(x.taskAt 0).live || (x.taskAt 0).level == .supervisor then s
  else if x.trap.busy then s.updTile t fun y => { y with preempt := true }
  else s.enterTrap t 0 6 ⟨.preempt, 0, .read, 0⟩ (x.taskAt 0).pc

/-- An image comes back to its tile (R356, R359); the slot tables loaded at cast-on and the router's counts stay;
wp0 is replayed before wp1 (log 77). -/
def State.restoreTile (s : State) (p c k t : Nat) : State :=
  match (s.ctxAt c).images.find t with
  | none => s
  | some (_, i) =>
    let now := s.tileAt t
    let i : Tile :=
      { i with
        ctx := some c
        part := some p
        slotTable := now.slotTable
        circuits := now.circuits
        miss := now.miss
        passed := false
        lastIssue := s.cyclesAt t }
    ((s.setTile t i).moveBytes (s.imageAt c k) (sramLoc t 0) Config.sramBytes).updTile t fun x => (x.replayPlane 1).replayPlane 0

/-- A resume completes: images and collars are back, KSTATE is EMPTY, and tasks issue (R359). Collars of another rectangle are
not restored. -/
def State.endResume (s : State) (p c : Nat) : State :=
  let imaged := (s.ctxAt c).images.map Prod.fst
  let same := s.sameAsSaved p c
  let s := (s.ctxAt c).images.foldl (fun s i => s.restoreTile p c i.2.1 i.1) s
  let s := if same then (s.ctxAt c).collars.foldl (fun s b => s.restoreCollar b.1 b.2) s else s
  let s := if s.kstate c = 0 then s else s.store (s.kennelAt c) (le 4 0)
  let s := s.updCtx c fun x =>
    { x with images := [], collars := [], resumed := true, forced := false, saveAt := none, regrid := false }
  (imaged.foldl State.deliverPreempt s).lateResize p

/-- The shared plan is in force where two contexts are resident (R350), at half its frequency under a throttle (R427, R429). -/
def State.planReady (s : State) : Bool :=
  decide (s.residents < 2) || s.power.fact == if s.power.throttled then s.power.goal / 2 else s.power.goal

/-- The tiles that a context takes over are free: those of the rectangle that have not halted, and those of its images. -/
def State.tilesFree (s : State) (p c : Nat) : Bool :=
  (s.partTiles p ++ (s.ctxAt c).images.map Prod.fst).all fun t => (s.tileAt t).ctx.isNone || (s.tileAt t).halted

/-- A graph of a context is under cast-on, and does not wait for a usable width. -/
def State.casting (s : State) (p c : Nat) : Bool := (s.entries p c).any fun e => e.stage == 1 && !e.narrow

/-- CONTEXT_RESUME (R353, R359): the slice of the next context of the schedule begins once every tile is free, and it completes
once its graphs are cast on again, but for those that have no usable width on a new rectangle (R329). -/
def execContextResume (ctx : Nat) (s : State) : Out :=
  .next (match s.partOf ctx with
    | none => s
    | some p =>
      let x := s.partAt p
      if s.power.halted || !s.power.on then s
      else if x.now = some ctx then
        if (s.ctxAt ctx).resumed || s.casting p ctx then s else s.endResume p ctx
      else match x.now, s.nextSlice p with
        | none, some (k, n) =>
          if schedCtx (x.sched.get 0 k) ≠ ctx || decide (2 < s.kstate ctx) || !s.planReady || !s.tilesFree p ctx ||
              (s.kstate ctx == 2 && !s.sameAsSaved p ctx) || (s.partBlocks p).any (fun b => (s.regionAt b).req.isSome) then s
          else
            let s := (s.updPart p fun y => { y with entry := k, slices := n }).beginResume p ctx
            if s.casting p ctx then s else s.endResume p ctx
        | _, _ => s)

/-! ### Removal and shootdown -/

/-- CONTEXT_REMOVE_REQUEST (R361): the kennel becomes EMPTY, unless the hang watchdog has set INCOMPLETE. -/
def execContextRemoveRequest (ctx : Nat) (s : State) : Out :=
  s.managed fun s => if (s.ctxAt ctx).exists_ then s.removeContext ctx 0 false (s.kstate ctx == 3) else s

/-- The VF's queues after an FLR (R436): submissions, held entries and messages go, doorbells read 0. -/
def Vf.flrDone (v : Vf) : Vf :=
  let zero := fun (r : Ring) => ({ r with prod := 0, cons := 0 } : Ring)
  { sq := v.sq.map fun q => (q.1, zero q.2), cq := zero v.cq, eq := zero v.eq, sent := v.sent }

/-- FUNCTION_LEVEL_RESET (R436). -/
def execFunctionLevelReset (n : Nat) (s : State) : Out :=
  .next (if !(s.ctxAt n).exists_ then s
    else
      let s := s.updCtx n fun x => { x with vf := { x.vf with flr := true } }
      let s := s.removeContext n 0 true (s.kstate n == 3)
      s.updCtx n fun x =>
        { x with
          vf := x.vf.flrDone
          qos := (List.range 192).map fun j => (j, ({ fill := 0 } : Qos)) })

/-- A kept translation, and a kept pointer, of an address in a range (R372). -/
def Tlb.overlaps (t : Tlb) (lo hi : Nat) : Bool := decide (lo < t.va + t.size) && decide (t.va ≤ hi)
def Walk.overlaps (w : Walk) (lo hi : Nat) : Bool :=
  let size := 2 ^ (12 + 9 * (w.level - 1))
  decide (lo < (w.key + 1) * size) && decide (w.key * size ≤ hi)

/-- SHOOTDOWN_REQUEST (R372): the kept translations and pointers of a range go; the request is complete once the accesses that
were translated before have performed. -/
def execShootdownRequest (ctx lo hi : Nat) (s : State) : Out :=
  s.managed fun s =>
    s.updCtx ctx fun x =>
      { x with
        tlb := x.tlb.filter fun t => !t.overlaps lo hi
        walks := x.walks.filter fun w => !w.overlaps lo hi
        shoots := x.shoots ++ [⟨x.era, BitVec.ofNat 64 lo, hi + 1 - lo⟩]
        era := x.era + 1 }

/-- A tile, or its image, has an access translated before a shootdown left to perform: of a scalar stream, the zeroing of a
parcel, or the counter of a link word (R235, R372). -/
def Tile.early (t : Tile) (x : Shoot) : Bool :=
  t.tasks.any (fun k => (k.stream.any fun a => decide (a.era ≤ x.num)) || k.landings.any fun r => !r.zero.isEmpty) ||
    (t.lq ++ t.air).any fun e => e.ctr.isSome && decide (e.era ≤ x.num)

/-- A shootdown is complete when no access that was translated before it is left to perform, on a tile, in a saved image, of an ASK
that the lease agent holds, or on its way to another tile. -/
def State.shootOver (s : State) (c : Nat) (x : Shoot) : Bool :=
  let mine := s.ctxTiles c
  let onWay := fun (p : Pkt) => match p with
    | .req _ _ _ _ (.reg _) .. => false
    | .req t .. => mine.contains t
    | _ => false
  !(mine.any fun t => (s.tileAt t).early x) && !((s.ctxAt c).images.any fun i => i.2.2.early x) &&
    !((s.pod.adds ++ s.pod.asks).any fun a => a.ctx == c && a.ctr.isSome && decide (a.era ≤ x.num)) && !s.pkts.any onWay

/-- The management interface answers the shootdowns of a context that are complete. -/
def State.shootDone (s : State) (c : Nat) : State :=
  let ended := (s.ctxAt c).shoots.filter (s.shootOver c)
  let s := ended.foldl (fun s x => s.reply (.shootdown c x.va x.len)) s
  s.updCtx c fun x => { x with shoots := x.shoots.filter fun y => !ended.contains y }

end Sys2Proof.Machine
end

