-- ==== Sys2Proof/Machine/HostPort.lean ====
section
/-! DEFINITION. HostPort.lean: doorbells and the configuration of the queues of the VFs and of the PF (R432-R435), MSI-X tests,
key slots (R409), supervisor images (R440) and attestation (R441). VF number 192 stands for the PF, whose one queue is the
management event queue. -/

namespace Sys2Proof.Machine

/-- The number that stands for the PF. -/
def pf : Nat := 192

def State.updVf (s : State) (n : Nat) (f : Vf → Vf) : State := s.updCtx n fun x => { x with vf := f x.vf }

/-- SUBMISSION_DOORBELL_WRITE (R432): a submission that arrives during an FLR is discarded (R436). -/
def execSubmissionDoorbellWrite (n q : Nat) (prod : BitVec 32) (s : State) : Out :=
  let v := (s.ctxAt n).vf
  .next (if !s.power.on || !(s.ctxAt n).exists_ || v.flr || 4 ≤ q || (v.sq.get {} q).k == 0 then s
    else s.updVf n fun v => { v with sq := v.sq.put q { (v.sq.get {} q) with prod := prod } })

/-- Entries that waited for room follow (R432, R435). -/
def State.drainAll (s : State) (n : Nat) : State :=
  let s := s.drainC n (s.ctxAt n).vf.heldC
  s.drainE n (s.ctxAt n).vf.heldE

/-- CONSUMER_DOORBELL_WRITE (R432, R433, R435): the reader advances CONS, which acknowledges the vector's message. -/
def execConsumerDoorbellWrite (n : Nat) (events : Bool) (cons : BitVec 32) (s : State) : Out :=
  .next (if !s.power.on then s
    else if n = pf then
      let s : State := { s with mgmt := { s.mgmt with ring := { s.mgmt.ring with cons := cons } } }
      s.drainM s.mgmt.held
    else if !(s.ctxAt n).exists_ then s
    else if events then (s.updVf n fun v => { v with eq := { v.eq with cons := cons }, msiE := false }).drainAll n
    else (s.updVf n fun v => { v with cq := { v.cq with cons := cons }, msiC := false }).drainAll n)

/-- The ring after a write of BASE or of CFG (R434): an enabled queue takes only K := 0, which zeroes its doorbell; a BASE is
a multiple of 4,096, and a K from 1 to 3 or 17 to 31 is rejected. -/
def Ring.config (r : Ring) (isBase : Bool) (v : Word) : Ring :=
  let k := bits v.toNat 0 5
  if isBase then (if r.k ≠ 0 || v.toNat % 4096 ≠ 0 then r else { r with base := v })
  else if k = 0 then { r with k := 0, prod := 0, cons := 0 }
  else if r.k ≠ 0 || k < 4 || 16 < k then r
  else { r with k := k }

/-- QUEUE_CONFIG_WRITE (R434, R435): queues 0 to 3 are the submission queues, 4 the completion and 5 the event queue. -/
def execQueueConfigWrite (n q : Nat) (isBase : Bool) (v : Word) (s : State) : Out :=
  .next (if !s.power.on then s
    else if n = pf then
      let s : State := { s with mgmt := { s.mgmt with ring := s.mgmt.ring.config isBase v } }
      s.drainM s.mgmt.held
    else if !(s.ctxAt n).exists_ then s
    else
      let s := s.updVf n fun x =>
        match q with
        | 4 => { x with cq := x.cq.config isBase v, msiC := x.msiC && (x.cq.config isBase v).k != 0 }
        | 5 => { x with eq := x.eq.config isBase v, msiE := x.msiE && (x.eq.config isBase v).k != 0 }
        | _ => if q < 4 then { x with sq := x.sq.put q ((x.sq.get {} q).config isBase v) } else x
      s.drainAll n)

/-- MSIX_TEST_WRITE (R433): vectors 2 to 7. -/
def execMsixTestWrite (n vec : Nat) (s : State) : Out :=
  s.managed fun s =>
    if !(s.ctxAt n).exists_ || (s.ctxAt n).vf.flr || vec < 2 || 7 < vec then s
    else s.updVf n fun v => v.signal vec

/-! ### The BARs of a function (R434, R435) -/

/-- A 32-bit write to the MSI-X table: dword 3 holds the mask bit alone (log 79). A vector that is no longer masked sends the
message that was pending. -/
def Vf.tableWrite (v : Vf) (off : Nat) (x : BitVec 32) : Vf :=
  let k := off / 16
  let sh := 32 * (off % 16 / 4)
  let x := if off % 16 = 12 then x &&& 1 else x
  let keep : BitVec 128 := ~~~((0xFFFFFFFF : BitVec 128) <<< sh)
  let v := { v with msix := v.msix.put k ((v.vector k &&& keep) ||| (x.setWidth 128 <<< sh)) }
  if v.pending.getLsbD k && !(v.vector k).getLsbD 96 then
    { v with pending := v.pending &&& ~~~((1 : Byte) <<< k) }.signal k
  else v

/-- A register of BAR0: one of the BASE and CFG registers, a submission doorbell, a consumer's doorbell, or VFSTAT. -/
inductive BarReg where
  | config (q : Nat) (isBase : Bool)
  | submit (q : Nat)
  | consume (events : Bool)
  | stat
  deriving DecidableEq, Repr

/-- The register of a VF at an offset of BAR0, and that of the PF. -/
def vfReg (off : Nat) : Option BarReg :=
  if off < 0x60 ∧ off % 8 = 0 then some (.config (off / 16) (off % 16 == 0))
  else if 0x100 ≤ off ∧ off < 0x120 ∧ off % 8 = 0 then some (.submit ((off - 0x100) / 8))
  else if off = 0x120 then some (.consume false)
  else if off = 0x128 then some (.consume true)
  else if off = 0x200 then some .stat
  else none
def pfReg (off : Nat) : Option BarReg :=
  if off = 0 then some (.config 0 true)
  else if off = 8 then some (.config 0 false)
  else if off = 0x100 then some (.consume true)
  else none
def barReg (n off : Nat) : Option BarReg := if n = pf then pfReg off else vfReg off

/-- A write of the host to a BAR: the event of the register that it reaches; offsets that the table does not list ignore it. Of a
doorbell the host writes its own half: PROD in bits 31 to 0 as a writer, CONS in bits 63 to 32 as the reader (R432). -/
def State.barWrite (s : State) (n bar off : Nat) (v : Word) : Out :=
  match bar with
  | 0 => match barReg n off with
    | some (.config q isBase) => execQueueConfigWrite n q isBase v s
    | some (.submit q) => execSubmissionDoorbellWrite n q (v.setWidth 32) s
    | some (.consume events) => execConsumerDoorbellWrite n events ((v >>> 32).setWidth 32) s
    | _ => .next s
  | 2 =>
    .next (if !s.power.on || n == pf || !(s.ctxAt n).exists_ || 128 ≤ off || off % 4 != 0 then s
      else s.updVf n fun x => x.tableWrite off (v.setWidth 32))
  | _ => .next s

/-- The ring of a VF's queue: 0 to 3 the submission queues, 4 the completion and 5 the event queue. -/
def Vf.ring (v : Vf) (q : Nat) : Ring := if q = 4 then v.cq else if q = 5 then v.eq else v.sq.get {} q

/-- VFSTAT: the context is bound, and an FLR is under way. -/
def State.vfStat (s : State) (n : Nat) : Word :=
  BitVec.ofNat 64 ((if (s.partOf n).isSome then 1 else 0) + if (s.ctxAt n).vf.flr then 2 else 0)

/-- A doorbell as it reads: CONS in bits 63 to 32, PROD in bits 31 to 0 (R432). -/
def Ring.doorbell (r : Ring) : Word := BitVec.ofNat 64 (r.cons.toNat * 2 ^ 32 + r.prod.toNat)

/-- What the host reads of a BAR; offsets that the table does not list read 0. -/
def State.barRead (s : State) (n bar off : Nat) : Word :=
  let v := (s.ctxAt n).vf
  let ring := fun q => if n = pf then s.mgmt.ring else v.ring q
  match bar with
  | 0 => match barReg n off with
    | some (.config q true) => (ring q).base
    | some (.config q false) => BitVec.ofNat 64 (ring q).k
    | some (.submit q) => (ring q).doorbell
    | some (.consume events) => (ring (if events then 5 else 4)).doorbell
    | some .stat => s.vfStat n
    | none => 0
  | 2 =>
    if off < 128 ∧ off % 4 = 0 then ((v.vector (off / 16)) >>> (32 * (off % 16 / 4))).setWidth 32 |>.setWidth 64
    else if off = 0x800 then v.pending.setWidth 64
    else 0
  | _ => 0

/-! ### Keys, images and attestation -/

/-- KEY_SLOT_INSTALL (R409): the installation record is signed by the fused key (its layout: log 9). RBC stays. -/
def execKeySlotInstall (slot : Nat) (key sig : List Byte) (s : State) : Out :=
  s.managed fun s =>
    if 16 ≤ slot || key.length ≠ 2592 || !mldsaVerify Config.rootKey (sha3_512 (le 8 slot ++ key)) sig then s
    else { s with mgmt := { s.mgmt with keys := s.mgmt.keys.put slot { s.keySlot slot with key := key, st := 1 } } }

/-- KEY_SLOT_REVOKE (R409): live images stay. -/
def execKeySlotRevoke (slot : Nat) (s : State) : Out :=
  s.managed fun s =>
    if (s.keySlot slot).st = 1 then
      { s with mgmt := { s.mgmt with keys := s.mgmt.keys.put slot { s.keySlot slot with st := 2 } } }
    else s

/-- SUPERVISOR_IMAGE_INSTALL (R440): an image that fails verification leaves the previous one. Where in a context's memory the
code of an installed image lies, the spec does not say (log 9). -/
def execSupervisorImageInstall (num slot : Nat) (image sig : List Byte) (s : State) : Out :=
  s.managed fun s =>
    let k := s.keySlot slot
    let d := sha3_512 image
    if num < 64 && k.st == 1 && mldsaVerify k.key d sig then s.updPart num fun x => { x with super := some d } else s

/-- The status word of a key slot (R409). -/
def KeySlot.status (k : KeySlot) : Nat := k.rbc.toNat * 2 ^ 32 + k.st

/-- What an attestation report holds (R441); its layout: log 14. -/
def State.report (s : State) (nonce : BitVec 512) : List Byte :=
  le 64 nonce.toNat ++ le 64 (s.mgmt.boot.getD Config.firmwareDigest).toNat ++
    (s.parts.flatMap fun p => p.2.super.toList.flatMap fun d => le 8 p.1 ++ le 64 d.toNat) ++
    (s.regions.flatMap fun r => r.2.live.toList.flatMap fun i => le 8 r.1 ++ le 64 i.digest.toNat) ++
    ((List.range 16).flatMap fun k => le 8 (s.keySlot k).status) ++ s.fused.flatMap fun b => le 2 b

/-- ATTESTATION_REQUEST (R441). -/
def execAttestationRequest (nonce : BitVec 512) (s : State) : Out :=
  s.managed fun s =>
    let r := s.report nonce
    { s with mgmt := { s.mgmt with reports := s.mgmt.reports ++ [r ++ Config.attestationSign r] } }

end Sys2Proof.Machine
end

