-- ==== Sys2Proof/Machine/Ethernet.lean ====
section
/-! DEFINITION. Ethernet.lean: the classification of frames, the ingest rings and priority pause (R437-R439). -/

namespace Sys2Proof.Machine

def State.ethAt (s : State) (p : Nat) : Eth := s.eth.get {} p
def State.updEth (s : State) (p : Nat) (f : Eth → Eth) : State := { s with eth := s.eth.put p (f (s.ethAt p)) }

/-- The value of FLOWTABn: FLOWi is 8n + i at reset (R438). -/
def flowTabReset (n : Nat) : Word := BitVec.ofNat 64 (leNat ((List.range 8).map fun i => BitVec.ofNat 8 (8 * n + i)))
def Eth.flowTabAt (e : Eth) (n : Nat) : Word := e.flowTab.get (flowTabReset n) n

/-- A flow; at reset it is disabled. -/
def Eth.flow (e : Eth) (f : Nat) : Flow := e.flows.get {} f
def State.updFlow (s : State) (p f : Nat) (g : Flow → Flow) : State :=
  s.updEth p fun e => { e with flows := e.flows.put f (g (e.flow f)) }

/-- The default classifier (R437). -/
def Eth.classify (e : Eth) (x : EthFrame) : Nat :=
  bits (e.flowTabAt (x.pcp % 8)).toNat (8 * ((x.udp.getD 0) % 8)) 6

/-- A fault of a flow's translation disables it and is posted to its owner (R439). -/
def State.ingestFault (s : State) (p f : Nat) (a : Word) : State :=
  let c := ((s.ethAt p).flow f).ctx.toNat
  (s.updFlow p f fun x => { x with ctx := 0xFF }).postEvent c 6
    ([BitVec.ofNat 8 p, BitVec.ofNat 8 f, 0, 0, 0, 0, 0, 0] ++ le 8 a.toNat)

/-- The translation of an address of a flow's owner; TADDR of a fault is the address. -/
def State.flowAddr (s : State) (c : Nat) (a : Word) (k : AccKind) : Res Nat :=
  if !canonical a then trapOf .apertureMiss a else s.translate c a k .supervisor

/-- What a port does for a flow, or the end of it: a fault disables the flow, a poisoned page table or counter ends the owner
(R382, R439); what meets no memory changes nothing (log 7). -/
def State.flowDone (s : State) (p f : Nat) (r : Res State) : State :=
  match r with
  | .ok s' => s'
  | .error (.trap i) => s.ingestFault p f i.addr
  | .error (.fatal k) => s.fatalCtx ((s.ethAt p).flow f).ctx.toNat k
  | .error _ => s

/-- The 64-byte pieces of a record in the ring. -/
def State.ringPieces (s : State) (c : Nat) (x : Flow) : Nat → Nat → Res (List Nat)
  | 0, _ => .ok []
  | n + 1, q => do
    let pa ← s.flowAddr c (x.base + BitVec.ofNat 64 ((x.prod.toNat + q) % (max x.size 1))) .write
    let rest ← s.ringPieces c x n (q + 64)
    .ok (pa :: rest)

/-- The record of a frame (R439); what fills it up to a multiple of 64: log 22. -/
def ingestRecord (p f : Nat) (x : EthFrame) (prod : Nat) : List Byte :=
  let b := le 4 x.bytes.length ++ le 1 p ++ le 1 f ++ [0, 0] ++ le 8 x.time.toNat ++ x.bytes
  b ++ (List.range ((64 - b.length % 64) % 64)).map fun i => Config.ingestPad (prod + b.length + i)

/-- Bytes to 64-byte pieces. -/
def State.putPieces (s : State) : List Nat → List Byte → State
  | [], _ => s
  | pa :: r, bs => (s.store pa (bs.take 64)).putPieces r (bs.drop 64)

/-- The port sends pause for a class. -/
def State.sendPause (s : State) (p f : Nat) : State := { s with sent := s.sent ++ [.pause p ((s.ethAt p).flow f).cls] }

/-- The counter add of a record of n bytes, and the pause at the fill that it leaves (R439 steps 2 and 3). -/
def State.ingestCount (s : State) (p f n fill : Nat) : Res State := do
  let w := (s.ethAt p).flow f
  let cnt ← s.flowAddr w.ctx.toNat w.cntA .amo
  let s ← s.addTo cnt n
  if w.hiwm ≤ fill then .ok ((s.updFlow p f fun y => { y with paused := true }).sendPause p f) else .ok s

/-- A frame that does not fit is dropped; else its record is written, PROD advances, and the counter receives its add (R439). A
record of which a piece faults is not written at all (log 22); one that is stays, whatever becomes of the add. -/
def State.ingestWrite (s : State) (p f : Nat) (x : EthFrame) (cons : Nat) : Res State := do
  let w := (s.ethAt p).flow f
  let r := ingestRecord p f x w.prod.toNat
  let fill := (w.prod.toNat + 2 ^ 64 - cons) % 2 ^ 64
  if w.size < fill + r.length then
    .ok (s.updFlow p f fun y => { y with drops := if y.drops = BitVec.allOnes 64 then y.drops else y.drops + 1 })
  else
    let ps ← s.ringPieces w.ctx.toNat w (r.length / 64) 0
    let s := (s.putPieces ps r).updFlow p f fun y => { y with prod := y.prod + BitVec.ofNat 64 r.length }
    .ok (s.flowDone p f (s.ingestCount p f r.length (fill + r.length)))

/-- The consumer's count of a flow, as the port reads it. -/
def State.consumed (s : State) (w : Flow) : Res Nat := do
  let pa ← s.flowAddr w.ctx.toNat w.consA .read
  .ok (s.readNat pa 8)

/-- A frame goes to a flow (R439). A disabled flow drops it. -/
def State.ingest (s : State) (p f : Nat) (x : EthFrame) : State :=
  let w := (s.ethAt p).flow f
  if w.ctx = 0xFF then s
  else s.flowDone p f do
    let cons ← s.consumed w
    s.ingestWrite p f x cons

/-- ETH_FRAME_RECEIVE (R437-R439) at the port of a die (R18): a frame with a bad FCS or length is dropped and counted; one that an attached region
classifies waits for it. -/
def execEthFrameReceive (port : Nat) (frame : EthFrame) (s : State) : Out :=
  let e := s.ethAt port
  .next (if !s.power.on || s.dies ≤ port then s
    else if !frame.fcsOk || frame.bytes.length < 64 || 9216 < frame.bytes.length then
      s.updEth port fun e => { e with rxbad := if e.rxbad = BitVec.allOnes 64 then e.rxbad else e.rxbad + 1 }
    else if e.glue.getLsbD 16 then s.updEth port fun e => { e with waiting := e.waiting ++ [frame] }
    else s.ingest port (e.classify frame) frame)

/-- The oldest frame that waits for its region goes to a flow. -/
def State.glueTo (s : State) (port flow : Nat) : State :=
  match (s.ethAt port).waiting with
  | [] => s
  | x :: r => (s.updEth port fun e => { e with waiting := r }).ingest port (if flow < 64 then flow else 63) x

/-- GLUE_CLASSIFY_ANSWER (R437): an answer out of range sends the frame to flow 63. -/
def execGlueClassifyAnswer (port flow : Nat) (s : State) : Out := .next (s.glueTo port flow)

/-- GLUE_CLASSIFY_TIMEOUT (R437). -/
def execGlueClassifyTimeout (port : Nat) (s : State) : Out := .next (s.glueTo port 63)

/-- PAUSE_RENEWAL (R439): the pause goes on until the fill falls below LOWM. -/
def execPauseRenewal (port flow : Nat) (s : State) : Out :=
  let w := (s.ethAt port).flow flow
  .next (if !w.paused || w.ctx == 0xFF then s
    else s.flowDone port flow ((s.consumed w).map fun cons =>
      if (w.prod.toNat + 2 ^ 64 - cons) % 2 ^ 64 < w.lowm then s.updFlow port flow fun y => { y with paused := false }
      else s.sendPause port flow))

/-- GLUE_WRITE (R438): the Ethernet port of a die takes a region of that die. -/
def execGlueWrite (port : Nat) (v : Word) (s : State) : Out :=
  s.managed fun s =>
    let bx := bits v.toNat 8 8
    let yy := bits v.toNat 0 8
    let bad := decide (s.blockSide ≤ bx) || decide (s.blockSide ≤ yy) || bx / 6 + 2 * (yy / 6) != port ||
      s.fused.contains (blockKey bx yy)
    if s.dies ≤ port || (v.getLsbD 16 && bad) then s else s.updEth port fun e => { e with glue := v &&& 0x1FFFF }

end Sys2Proof.Machine
end

