-- ==== Sys2Proof/Machine/Ras.lean ====
section
/-! DEFINITION. Ras.lean: T_HALT (R427, R428), corrected and uncorrectable errors, row repair and tag parity (R281, R382,
R442), and the registers of the management interface that have no event of their own (R9, R10). -/

namespace Sys2Proof.Machine

/-- THERMAL_HALT (R427): TRIP_REASON first, then every resident context is taken off by force, and nothing issues. -/
def execThermalHalt (temp sensor : Nat) (s : State) : Out :=
  let s := s.sensed temp
  .next (if s.power.halted || decide (temp < s.power.haltAt) then s
    else
      let s := s.trip 2 temp sensor
      let s : State := { s with power := { s.power with halted := true } }
      let s := (s.parts.flatMap fun kv => kv.2.now.toList.map fun c => (kv.1, c)).foldl (fun s x => s.force x.1 x.2) s
      s.postThermal 3 temp sensor)

/-- The memory of a location (R435): 0 SRAM, 1 weight store, 2 HBM4. -/
def memoryOf (loc : Nat) : Nat := if loc < 2 ^ 40 then 2 else if loc < 2 ^ 41 then 1 else 0

/-- An event of class 5. -/
def State.postRas (s : State) (code loc memory : Nat) : State :=
  s.postMgmt 5 code none none (le 8 (loc % 2 ^ 40) ++ [BitVec.ofNat 8 memory])

/-- A corrected error of HBM4 counts for its row; one of which 16 fall within an hour is scheduled for repair (R442). -/
def Mgmt.correct (m : Mgmt) (row ns : Nat) : Mgmt :=
  let hour := ((m.corrected.get [] row).filter fun t => decide (ns < t + 3600000000000)) ++ [ns]
  { m with
    corrected := m.corrected.put row hour
    scheduled := if 16 ≤ hour.length then addOnce m.scheduled row else m.scheduled }

/-- ECC_CORRECTION (R382, R442): a single-bit error is corrected, or the 8-byte word is marked poisoned (log 23). -/
def execEccCorrection (loc : Nat) (uncorrectable : Bool) (s : State) : Out :=
  .next (if uncorrectable then
      ({ s with poison := (List.range 8).foldl (fun l i => addOnce l (loc / 8 * 8 + i)) s.poison } : State).postRas 2 loc (memoryOf loc)
    else
      let s : State := if memoryOf loc = 2 then { s with mgmt := s.mgmt.correct (Config.hbmRow loc) s.ns } else s
      s.postRas 1 loc (memoryOf loc))

/-- HBM_ROW_REPAIR (R442): a row that is scheduled is repaired; its contents move with it. Repairs persist. -/
def execHbmRowRepair (row : Nat) (s : State) : Out :=
  let m := s.mgmt
  .next (if m.scheduled.contains row then
      ({ s with mgmt := { m with
          repairs := addOnce m.repairs row
          scheduled := m.scheduled.filter (· != row)
          corrected := m.corrected.del row } } : State).postRas 3 (Config.hbmRowBase row) 2
    else s)

/-- SLOT_MISS of a router (R310): the entries of its table that reserve an output, 255 at most, above the demoted flits. -/
def Tile.slotMissReg (t : Tile) : Word :=
  BitVec.ofNat 64 (min 255 (t.slotTable.countP fun e => (slotFields e.2.toNat).any fun f => f.2 != 0) * 2 ^ 32 + t.miss.toNat)

/-- The way mask of a partition in a slice (R281, R344). -/
def Part.mask (p : Part) (slice : Nat) : BitVec 16 := p.ways.get (BitVec.ofNat 16 (descWays p.desc)) slice

/-- L2_TAG_PARITY_ERROR (R281, R381): the contexts of the partitions that own the way, or of those that share a common-pool
way, are removed. A way of the common pool is nobody's own (log 70). -/
def execL2TagParityError (slice way : Nat) (s : State) : Out :=
  let common := (s.pool.get 0 slice).getLsbD way
  let hit := s.parts.filter fun kv =>
    descValid kv.2.desc && (if common then descShare kv.2.desc else (kv.2.mask slice).getLsbD way)
  .next ((hit.flatMap fun kv => s.bound kv.1).foldl (fun s c => s.fatalCtx c 7) s)

/-! ### Registers (R9, R10) -/

/-- W1C: each bit written as 1 is cleared. -/
def w1c {n : Nat} (old : BitVec n) (v : Word) : BitVec n := old &&& ~~~(v.setWidth n)

/-- A field of a context's record that system software changes. -/
def State.updRecord (s : State) (c : Nat) (ok : Bool) (f : CtxRec → CtxRec) : State :=
  if ok && (s.ctxAt c).exists_ then s.updCtx c fun x => { x with record := f x.record } else s

/-- A share of a weight store takes a new place or size inside the 1 GiB of the die (R5, R16, log 70): what it holds at another
place is no graph's (R332). -/
def State.updShare (s : State) (p die : Nat) (f : Share → Share) : State :=
  let old := (s.partAt p).shares.get {} die
  let sh := f old
  if 64 ≤ p || s.dies ≤ die || Config.weightBytes < sh.base + sh.size then s
  else s.updPart p fun x => { x with shares := x.shares.put die (if sh.base = old.base then sh else { sh with digest := none }) }

/-- A flow's register (R439). -/
def State.setFlow (s : State) (p f : Nat) (ok : Bool) (g : Flow → Flow) : State :=
  if ok && decide (p < s.dies) && decide (f < 64) then s.updFlow p f g else s

/-- A flow as its registers stand; a write that breaks LOWM < HIWM ≤ SIZE is ignored (R439, log 70). -/
def State.flowOf (s : State) (p f : Nat) : Flow := (s.ethAt p).flow f

/-- A ring size of R439. -/
def flowSizeOk (n : Nat) : Bool := (List.range 15).any fun i => n == 2 ^ (16 + i)

/-- The write of a register. A QUOTA below the number of lanes that the context holds is ignored (R394, log 89). -/
def State.writeReg (s : State) (r : MReg) (v : Word) : State :=
  let n := v.toNat
  match r with
  | .pwrRamp => { s with power := { s.power with ramp := v &&& 0x1FFFF } }
  | .pwrFloor => { s with power := { s.power with floor := v &&& 0x1FFFF } }
  | .tripReason => { s with power := { s.power with trip := w1c s.power.trip (v &&& 0xFF) } }
  | .termMax => if 200 ≤ n ∧ n ≤ 65535 then { s with pod := { s.pod with termMax := n } } else s
  | .commonPool slice => { s with pool := s.pool.put slice (v.setWidth 16) }
  | .droopCnt b => s.updBlock b fun x => { x with droop := w1c x.droop v }
  | .slotMiss t => s.updTile t fun x => { x with miss := w1c x.miss v }
  | .qos c port => s.updCtx c fun x => { x with qos := x.qos.put port { x.qos.get {} port with cfg := v &&& 0xFFFFFFFFFFFF } }
  | .rxBad p => if s.dies ≤ p then s else s.updEth p fun e => { e with rxbad := w1c e.rxbad v }
  | .flowTab p k => if k < 8 ∧ p < s.dies then s.updEth p fun e => { e with flowTab := e.flowTab.put k (v &&& 0x3F3F3F3F3F3F3F3F) } else s
  | .flowBase p f => s.setFlow p f (n % 64 == 0) fun x => { x with base := v }
  | .flowSize p f => s.setFlow p f (flowSizeOk n && decide ((s.flowOf p f).hiwm ≤ n)) fun x => { x with size := n }
  | .flowCtx p f => s.setFlow p f true fun x => { x with ctx := v.setWidth 8 }
  | .flowClass p f => s.setFlow p f (decide (n < 8)) fun x => { x with cls := n }
  | .flowConsA p f => s.setFlow p f true fun x => { x with consA := v }
  | .flowCntA p f => s.setFlow p f true fun x => { x with cntA := v }
  | .flowHiwm p f => s.setFlow p f (decide ((s.flowOf p f).lowm < n) && decide (n ≤ (s.flowOf p f).size)) fun x => { x with hiwm := n }
  | .flowLowm p f => s.setFlow p f (decide (n < (s.flowOf p f).hiwm)) fun x => { x with lowm := n }
  | .partDesc p => s.writeDesc p v
  | .sliceWays p slice => if p < 64 then s.updPart p fun x => { x with ways := x.ways.put slice (v.setWidth 16) } else s
  | .wshareBase p die => s.updShare p die fun x => { x with base := n }
  | .wshareSize p die => s.updShare p die fun x => { x with size := n }
  | .peerTmo c => s.updRecord c (n == 0 || (decide (100 ≤ n) && decide (n ≤ 1000000))) fun x => { x with peertmo := v.setWidth 32 }
  | .nodeWd c => s.updRecord c (n == 0 || (decide (20 ≤ n) && decide (n ≤ 40))) fun x => { x with nodewd := v.setWidth 8 }
  | .hangWd c => s.updRecord c (n == 0 || (decide (16 ≤ n) && decide (n ≤ 32))) fun x => { x with hangwd := v.setWidth 8 }
  | .quota c => s.updRecord c (decide (s.leases c ≤ n % 65536)) fun x => { x with quota := v.setWidth 16 }

/-- REGISTER_WRITE (R9, R10). -/
def execRegisterWrite (r : MReg) (v : Word) (s : State) : Out := s.managed fun s => s.writeReg r v

end Sys2Proof.Machine
end

