-- ==== Sys2Proof/Machine/Dispatch.lean ====
section
/-! DEFINITION. Dispatch.lean: one arm per constructor of Instr, one direct call of its meaning. -/

namespace Sys2Proof.Machine

def exec (i : Instr) (s : State) : Host.Outcome State Fault Refusal :=
  match i with
  | .add g d a b => Sys2Proof.Machine.execAdd g d a b s
  | .sub g d a b => Sys2Proof.Machine.execSub g d a b s
  | .mul g d a b => Sys2Proof.Machine.execMul g d a b s
  | .mulh g d a b => Sys2Proof.Machine.execMulh g d a b s
  | .mulhu g d a b => Sys2Proof.Machine.execMulhu g d a b s
  | .div g d a b => Sys2Proof.Machine.execDiv g d a b s
  | .divu g d a b => Sys2Proof.Machine.execDivu g d a b s
  | .rem g d a b => Sys2Proof.Machine.execRem g d a b s
  | .remu g d a b => Sys2Proof.Machine.execRemu g d a b s
  | .andS g d a b => Sys2Proof.Machine.execAndS g d a b s
  | .orS g d a b => Sys2Proof.Machine.execOrS g d a b s
  | .xorS g d a b => Sys2Proof.Machine.execXorS g d a b s
  | .andn g d a b => Sys2Proof.Machine.execAndn g d a b s
  | .shl g d a b => Sys2Proof.Machine.execShl g d a b s
  | .shr g d a b => Sys2Proof.Machine.execShr g d a b s
  | .sar g d a b => Sys2Proof.Machine.execSar g d a b s
  | .rotr g d a b => Sys2Proof.Machine.execRotr g d a b s
  | .minS g d a b => Sys2Proof.Machine.execMinS g d a b s
  | .maxS g d a b => Sys2Proof.Machine.execMaxS g d a b s
  | .minu g d a b => Sys2Proof.Machine.execMinu g d a b s
  | .maxu g d a b => Sys2Proof.Machine.execMaxu g d a b s
  | .clz g d a => Sys2Proof.Machine.execClz g d a s
  | .ctz g d a => Sys2Proof.Machine.execCtz g d a s
  | .popc g d a => Sys2Proof.Machine.execPopc g d a s
  | .sextb g d a => Sys2Proof.Machine.execSextb g d a s
  | .sexth g d a => Sys2Proof.Machine.execSexth g d a s
  | .sextw g d a => Sys2Proof.Machine.execSextw g d a s
  | .zextb g d a => Sys2Proof.Machine.execZextb g d a s
  | .zexth g d a => Sys2Proof.Machine.execZexth g d a s
  | .zextw g d a => Sys2Proof.Machine.execZextw g d a s
  | .sel g d a b => Sys2Proof.Machine.execSel g d a b s
  | .addi g d a imm => Sys2Proof.Machine.execAddi g d a imm s
  | .andi g d a imm => Sys2Proof.Machine.execAndi g d a imm s
  | .ori g d a imm => Sys2Proof.Machine.execOri g d a imm s
  | .xori g d a imm => Sys2Proof.Machine.execXori g d a imm s
  | .shli g d a m => Sys2Proof.Machine.execShli g d a m s
  | .shri g d a m => Sys2Proof.Machine.execShri g d a m s
  | .sari g d a m => Sys2Proof.Machine.execSari g d a m s
  | .rotri g d a m => Sys2Proof.Machine.execRotri g d a m s
  | .lih d imm => Sys2Proof.Machine.execLih d imm s
  | .apc d imm => Sys2Proof.Machine.execApc d imm s
  | .cmp g q a b c => Sys2Proof.Machine.execCmp g q a b c s
  | .cmpi g q c a imm => Sys2Proof.Machine.execCmpi g q c a imm s
  | .pand g q x y => Sys2Proof.Machine.execPand g q x y s
  | .por g q x y => Sys2Proof.Machine.execPor g q x y s
  | .pxor g q x y => Sys2Proof.Machine.execPxor g q x y s
  | .pandn g q x y => Sys2Proof.Machine.execPandn g q x y s
  | .pnot g q x => Sys2Proof.Machine.execPnot g q x s
  | .pmov g q x => Sys2Proof.Machine.execPmov g q x s
  | .pset g q => Sys2Proof.Machine.execPset g q s
  | .pbr t imm => Sys2Proof.Machine.execPbr t imm s
  | .br g t => Sys2Proof.Machine.execBr g t s
  | .brl g t => Sys2Proof.Machine.execBrl g t s
  | .pbrr g t a => Sys2Proof.Machine.execPbrr g t a s
  | .nop g => Sys2Proof.Machine.execNop g s
  | .mfs g d sc => Sys2Proof.Machine.execMfs g d sc s
  | .mts g d sc => Sys2Proof.Machine.execMts g d sc s
  | .trap g a => Sys2Proof.Machine.execTrap g a s
  | .rte g => Sys2Proof.Machine.execRte g s
  | .yield g => Sys2Proof.Machine.execYield g s
  | .tfence g => Sys2Proof.Machine.execTfence g s
  | .drain g => Sys2Proof.Machine.execDrain g s
  | .twait g d e => Sys2Proof.Machine.execTwait g d e s
  | .cvta g d a b => Sys2Proof.Machine.execCvta g d a b s
  | .isin g d a b => Sys2Proof.Machine.execIsin g d a b s
  | .halt g => Sys2Proof.Machine.execHalt g s
  | .rgnLoad g d a b => Sys2Proof.Machine.execRgnLoad g d a b s
  | .rgnStat g d a => Sys2Proof.Machine.execRgnStat g d a s
  | .rgnBind g d a b => Sys2Proof.Machine.execRgnBind g d a b s
  | .ldb g d a imm => Sys2Proof.Machine.execLdb g d a imm s
  | .ldh g d a imm => Sys2Proof.Machine.execLdh g d a imm s
  | .ldw g d a imm => Sys2Proof.Machine.execLdw g d a imm s
  | .ldd g d a imm => Sys2Proof.Machine.execLdd g d a imm s
  | .ldbu g d a imm => Sys2Proof.Machine.execLdbu g d a imm s
  | .ldhu g d a imm => Sys2Proof.Machine.execLdhu g d a imm s
  | .ldwu g d a imm => Sys2Proof.Machine.execLdwu g d a imm s
  | .stb g d a imm => Sys2Proof.Machine.execStb g d a imm s
  | .sth g d a imm => Sys2Proof.Machine.execSth g d a imm s
  | .stw g d a imm => Sys2Proof.Machine.execStw g d a imm s
  | .std g d a imm => Sys2Proof.Machine.execStd g d a imm s
  | .ldaW g d a sc => Sys2Proof.Machine.execLdaW g d a sc s
  | .ldaD g d a sc => Sys2Proof.Machine.execLdaD g d a sc s
  | .strW g d a sc => Sys2Proof.Machine.execStrW g d a sc s
  | .strD g d a sc => Sys2Proof.Machine.execStrD g d a sc s
  | .amoAdd sc o d a b w => Sys2Proof.Machine.execAmoAdd sc o d a b w s
  | .amoAnd sc o d a b w => Sys2Proof.Machine.execAmoAnd sc o d a b w s
  | .amoOr sc o d a b w => Sys2Proof.Machine.execAmoOr sc o d a b w s
  | .amoXor sc o d a b w => Sys2Proof.Machine.execAmoXor sc o d a b w s
  | .amoMin sc o d a b w => Sys2Proof.Machine.execAmoMin sc o d a b w s
  | .amoMax sc o d a b w => Sys2Proof.Machine.execAmoMax sc o d a b w s
  | .amoMinu sc o d a b w => Sys2Proof.Machine.execAmoMinu sc o d a b w s
  | .amoMaxu sc o d a b w => Sys2Proof.Machine.execAmoMaxu sc o d a b w s
  | .amoSwp sc o d a b w => Sys2Proof.Machine.execAmoSwp sc o d a b w s
  | .amoCas sc o d a b w => Sys2Proof.Machine.execAmoCas sc o d a b w s
  | .fence g sc k => Sys2Proof.Machine.execFence g sc k s
  | .sbar g a => Sys2Proof.Machine.execSbar g a s
  | .waitc g sc a b => Sys2Proof.Machine.execWaitc g sc a b s
  | .tspawn g d a b => Sys2Proof.Machine.execTspawn g d a b s
  | .texit g => Sys2Proof.Machine.execTexit g s
  | .exit g => Sys2Proof.Machine.execExit g s
  | .recv g d a => Sys2Proof.Machine.execRecv g d a s
  | .send g d a b => Sys2Proof.Machine.execSend g d a b s
  | .launch g d a => Sys2Proof.Machine.execLaunch g d a s
  | .bind g d a => Sys2Proof.Machine.execBind g d a s
  | .dqpush g d a => Sys2Proof.Machine.execDqpush g d a s
  | .dqpop g d => Sys2Proof.Machine.execDqpop g d s
  | .dqsteal g d a => Sys2Proof.Machine.execDqsteal g d a s
  | .dqlen g d => Sys2Proof.Machine.execDqlen g d s
  | .pld g d a b z => Sys2Proof.Machine.execPld g d a b z s
  | .pst g d a b z => Sys2Proof.Machine.execPst g d a b z s
  | .pldr g d a b => Sys2Proof.Machine.execPldr g d a b s
  | .pstr g d a b => Sys2Proof.Machine.execPstr g d a b s
  | .pnew g d a => Sys2Proof.Machine.execPnew g d a s
  | .pfree g a => Sys2Proof.Machine.execPfree g a s
  | .plen g d a => Sys2Proof.Machine.execPlen g d a s
  | .pstat g d a => Sys2Proof.Machine.execPstat g d a s
  | .pmap g d a => Sys2Proof.Machine.execPmap g d a s
  | .punmap g a => Sys2Proof.Machine.execPunmap g a s
  | .post d a b => Sys2Proof.Machine.execPost d a b s
  | .precv g d => Sys2Proof.Machine.execPrecv g d s
  | .vadd d a b m t => Sys2Proof.Machine.execVadd d a b m t s
  | .vsub d a b m t => Sys2Proof.Machine.execVsub d a b m t s
  | .vmul d a b m t => Sys2Proof.Machine.execVmul d a b m t s
  | .vmad d a b m t => Sys2Proof.Machine.execVmad d a b m t s
  | .vmsb d a b m t => Sys2Proof.Machine.execVmsb d a b m t s
  | .vabs d a m t => Sys2Proof.Machine.execVabs d a m t s
  | .vneg d a m t => Sys2Proof.Machine.execVneg d a m t s
  | .vmin d a b m t => Sys2Proof.Machine.execVmin d a b m t s
  | .vmax d a b m t => Sys2Proof.Machine.execVmax d a b m t s
  | .vadds d a b m t => Sys2Proof.Machine.execVadds d a b m t s
  | .vsubs d a b m t => Sys2Proof.Machine.execVsubs d a b m t s
  | .vmulhi d a b m t => Sys2Proof.Machine.execVmulhi d a b m t s
  | .vand d a b m t => Sys2Proof.Machine.execVand d a b m t s
  | .vor d a b m t => Sys2Proof.Machine.execVor d a b m t s
  | .vxor d a b m t => Sys2Proof.Machine.execVxor d a b m t s
  | .vnot d a m t => Sys2Proof.Machine.execVnot d a m t s
  | .vshl d a b m t => Sys2Proof.Machine.execVshl d a b m t s
  | .vshr d a b m t => Sys2Proof.Machine.execVshr d a b m t s
  | .vsar d a b m t => Sys2Proof.Machine.execVsar d a b m t s
  | .vclz d a m t => Sys2Proof.Machine.execVclz d a m t s
  | .vpopc d a m t => Sys2Proof.Machine.execVpopc d a m t s
  | .vcmp d a b m c t => Sys2Proof.Machine.execVcmp d a b m c t s
  | .vcvt d a u m sc r t => Sys2Proof.Machine.execVcvt d a u m sc r t s
  | .vrcp d a m t => Sys2Proof.Machine.execVrcp d a m t s
  | .vrsq d a m t => Sys2Proof.Machine.execVrsq d a m t s
  | .vsqrt d a m t => Sys2Proof.Machine.execVsqrt d a m t s
  | .vexp2 d a m t => Sys2Proof.Machine.execVexp2 d a m t s
  | .vlog2 d a m t => Sys2Proof.Machine.execVlog2 d a m t s
  | .vtanh d a m t => Sys2Proof.Machine.execVtanh d a m t s
  | .vsin d a m t => Sys2Proof.Machine.execVsin d a m t s
  | .vcos d a m t => Sys2Proof.Machine.execVcos d a m t s
  | .vredadd d a m t => Sys2Proof.Machine.execVredadd d a m t s
  | .vredmax d a m t => Sys2Proof.Machine.execVredmax d a m t s
  | .vredmin d a m t => Sys2Proof.Machine.execVredmin d a m t s
  | .vredor d a m t => Sys2Proof.Machine.execVredor d a m t s
  | .vredand d a m t => Sys2Proof.Machine.execVredand d a m t s
  | .vscan d a m t => Sys2Proof.Machine.execVscan d a m t s
  | .vperm d a b m t => Sys2Proof.Machine.execVperm d a b m t s
  | .vbcast d a m t => Sys2Proof.Machine.execVbcast d a m t s
  | .viota d m t => Sys2Proof.Machine.execViota d m t s
  | .vslide d a b m t => Sys2Proof.Machine.execVslide d a b m t s
  | .vsel d a b m t => Sys2Proof.Machine.execVsel d a b m t s
  | .vmovs d a b t => Sys2Proof.Machine.execVmovs d a b t s
  | .vext d a b t => Sys2Proof.Machine.execVext d a b t s
  | .vcmul d a b m t => Sys2Proof.Machine.execVcmul d a b m t s
  | .vconj d a m t => Sys2Proof.Machine.execVconj d a m t s
  | .mand d a b t => Sys2Proof.Machine.execMand d a b t s
  | .mor d a b t => Sys2Proof.Machine.execMor d a b t s
  | .mxor d a b t => Sys2Proof.Machine.execMxor d a b t s
  | .mnot d a t => Sys2Proof.Machine.execMnot d a t s
  | .mpop d a m t => Sys2Proof.Machine.execMpop d a m t s
  | .vany d a m t => Sys2Proof.Machine.execVany d a m t s
  | .vall d a m t => Sys2Proof.Machine.execVall d a m t s
  | .vld v a m t => Sys2Proof.Machine.execVld v a m t s
  | .vlds v a x m t => Sys2Proof.Machine.execVlds v a x m t s
  | .vgath v a x m t => Sys2Proof.Machine.execVgath v a x m t s
  | .vst v a m t => Sys2Proof.Machine.execVst v a m t s
  | .vsts v a x m t => Sys2Proof.Machine.execVsts v a x m t s
  | .vscat v a x m t => Sys2Proof.Machine.execVscat v a x m t s
  | .vamoAdd v imm a m sc w => Sys2Proof.Machine.execVamoAdd v imm a m sc w s
  | .vamoOr v imm a m sc w => Sys2Proof.Machine.execVamoOr v imm a m sc w s
  | .vamoAnd v imm a m sc w => Sys2Proof.Machine.execVamoAnd v imm a m sc w s
  | .vamoXor v imm a m sc w => Sys2Proof.Machine.execVamoXor v imm a m sc w s
  | .vamoMin v imm a m sc w => Sys2Proof.Machine.execVamoMin v imm a m sc w s
  | .vamoMax v imm a m sc w => Sys2Proof.Machine.execVamoMax v imm a m sc w s
  | .vpop v b => Sys2Proof.Machine.execVpop v b s
  | .vpush v b => Sys2Proof.Machine.execVpush v b s
  | .vpeek v b => Sys2Proof.Machine.execVpeek v b s
  | .mldw a t y p => Sys2Proof.Machine.execMldw a t y p s
  | .mswp => Sys2Proof.Machine.execMswp s
  | .mtag a => Sys2Proof.Machine.execMtag a s
  | .mmul e b x t r p => Sys2Proof.Machine.execMmul e b x t r p s
  | .mmulz e b x t r p => Sys2Proof.Machine.execMmulz e b x t r p s
  | .mrel x => Sys2Proof.Machine.execMrel x s
  | .mzero x k => Sys2Proof.Machine.execMzero x k s
  | .mstat d x p => Sys2Proof.Machine.execMstat d x p s
  | .mlda e b x k => Sys2Proof.Machine.execMlda e b x k s
  | .mrd o e b x t r => Sys2Proof.Machine.execMrd o e b x t r s
  | .mrds o e b x t r => Sys2Proof.Machine.execMrds o e b x t r s
  | .sbdef e a b => Sys2Proof.Machine.execSbdef e a b s
  | .stdef e a b => Sys2Proof.Machine.execStdef e a b s
  | .stdim e a b => Sys2Proof.Machine.execStdim e a b s
  | .stpos e a => Sys2Proof.Machine.execStpos e a s
  | .strst e => Sys2Proof.Machine.execStrst e s
  | .copy sc d a b => Sys2Proof.Machine.execCopy sc d a b s
  | .copym sc d a b => Sys2Proof.Machine.execCopym sc d a b s
  | .cqnt sc d a b => Sys2Proof.Machine.execCqnt sc d a b s
  | .cexp sc d a b => Sys2Proof.Machine.execCexp sc d a b s
  | .ccvt sc d a b => Sys2Proof.Machine.execCcvt sc d a b s
  | .cfill d a b => Sys2Proof.Machine.execCfill d a b s
  | .rld a b c sc => Sys2Proof.Machine.execRld a b c sc s
  | .rst a b c sc => Sys2Proof.Machine.execRst a b c sc s
  | .ramo a b c sc f => Sys2Proof.Machine.execRamo a b c sc f s
  | .rfence sc => Sys2Proof.Machine.execRfence sc s
  | .lcnt a => Sys2Proof.Machine.execLcnt a s
  | .leaseAsk a b c => Sys2Proof.Machine.execLeaseAsk a b c s
  | .leaseGive a b => Sys2Proof.Machine.execLeaseGive a b s
  | .leaseStat a b => Sys2Proof.Machine.execLeaseStat a b s
  | .fctl a b => Sys2Proof.Machine.execFctl a b s
  | .fstat a b => Sys2Proof.Machine.execFstat a b s
  | .dep g x y z => Sys2Proof.Machine.execDep g x y z s
  | .vwinWrite v => Sys2Proof.Machine.execVwinWrite v s
  | .srseedWrite v => Sys2Proof.Machine.execSrseedWrite v s
  | .rmodeWrite v => Sys2Proof.Machine.execRmodeWrite v s
  | .leaseqRead d => Sys2Proof.Machine.execLeaseqRead d s
  | .registerWrite r v => Sys2Proof.Machine.execRegisterWrite r v s
  | .sequencerResultLanding tile task k => Sys2Proof.Machine.execSequencerResultLanding tile task k s
  | .engineQueueHeadIssue tile e budget => Sys2Proof.Machine.execEngineQueueHeadIssue tile e budget s
  | .engineFaultDelivery tile => Sys2Proof.Machine.execEngineFaultDelivery tile s
  | .arrayRowExit tile => Sys2Proof.Machine.execArrayRowExit tile s
  | .planeLoadComplete tile plane => Sys2Proof.Machine.execPlaneLoadComplete tile plane s
  | .streamBufferFire tile e k => Sys2Proof.Machine.execStreamBufferFire tile e k s
  | .copyPieceLand tile => Sys2Proof.Machine.execCopyPieceLand tile s
  | .copyCounterAdd tile => Sys2Proof.Machine.execCopyCounterAdd tile s
  | .copymFollowOnFill tile => Sys2Proof.Machine.execCopymFollowOnFill tile s
  | .remoteRequestArrival k => Sys2Proof.Machine.execRemoteRequestArrival k s
  | .remoteResponseLanding k ans => Sys2Proof.Machine.execRemoteResponseLanding k ans s
  | .writeAckLanding k ans => Sys2Proof.Machine.execWriteAckLanding k ans s
  | .rstCounterMessage k => Sys2Proof.Machine.execRstCounterMessage k s
  | .crossPackageRequest q => Sys2Proof.Machine.execCrossPackageRequest q s
  | .sendArrival k => Sys2Proof.Machine.execSendArrival k s
  | .dqstealArrival k => Sys2Proof.Machine.execDqstealArrival k s
  | .waitcWake loc => Sys2Proof.Machine.execWaitcWake loc s
  | .flitOutOfRectangle tile ctx => Sys2Proof.Machine.execFlitOutOfRectangle tile ctx s
  | .parcelOffer o => Sys2Proof.Machine.execParcelOffer o s
  | .parcelLastByteLands o bytes => Sys2Proof.Machine.execParcelLastByteLands o bytes s
  | .parcelAcknowledgement o => Sys2Proof.Machine.execParcelAcknowledgement o s
  | .hostSubmissionIntake ctx queue => Sys2Proof.Machine.execHostSubmissionIntake ctx queue s
  | .castOn part => Sys2Proof.Machine.execCastOn part s
  | .stitchDispatch part => Sys2Proof.Machine.execStitchDispatch part s
  | .stitchStart tile => Sys2Proof.Machine.execStitchStart tile s
  | .nodeComplete part slot node => Sys2Proof.Machine.execNodeComplete part slot node s
  | .graphComplete part slot => Sys2Proof.Machine.execGraphComplete part slot s
  | .widthChange part slot => Sys2Proof.Machine.execWidthChange part slot s
  | .nodeWatchdogExpiry part slot node => Sys2Proof.Machine.execNodeWatchdogExpiry part slot node s
  | .sliceEnd part => Sys2Proof.Machine.execSliceEnd part s
  | .bindOffTokenHop part => Sys2Proof.Machine.execBindOffTokenHop part s
  | .tileSwitch tile => Sys2Proof.Machine.execTileSwitch tile s
  | .graceExpiry part => Sys2Proof.Machine.execGraceExpiry part s
  | .contextResume ctx => Sys2Proof.Machine.execContextResume ctx s
  | .hangWatchdogExpiry ctx => Sys2Proof.Machine.execHangWatchdogExpiry ctx s
  | .lateFlagRaise ctx tile task f => Sys2Proof.Machine.execLateFlagRaise ctx tile task f s
  | .partitionCreate num v => Sys2Proof.Machine.execPartitionCreate num v s
  | .partitionResize num v => Sys2Proof.Machine.execPartitionResize num v s
  | .partitionDelete num => Sys2Proof.Machine.execPartitionDelete num s
  | .widthCapWrite num cap => Sys2Proof.Machine.execWidthCapWrite num cap s
  | .vfEnable n => Sys2Proof.Machine.execVfEnable n s
  | .contextBind n r => Sys2Proof.Machine.execContextBind n r s
  | .contextUnbind n => Sys2Proof.Machine.execContextUnbind n s
  | .scheduleEntryWrite num idx v => Sys2Proof.Machine.execScheduleEntryWrite num idx v s
  | .shootdownRequest ctx lo hi => Sys2Proof.Machine.execShootdownRequest ctx lo hi s
  | .forcedPreemptRequest ctx => Sys2Proof.Machine.execForcedPreemptRequest ctx s
  | .contextRemoveRequest ctx => Sys2Proof.Machine.execContextRemoveRequest ctx s
  | .functionLevelReset n => Sys2Proof.Machine.execFunctionLevelReset n s
  | .submissionDoorbellWrite n q prod => Sys2Proof.Machine.execSubmissionDoorbellWrite n q prod s
  | .consumerDoorbellWrite n events cons => Sys2Proof.Machine.execConsumerDoorbellWrite n events cons s
  | .queueConfigWrite n q isBase v => Sys2Proof.Machine.execQueueConfigWrite n q isBase v s
  | .msixTestWrite n vec => Sys2Proof.Machine.execMsixTestWrite n vec s
  | .attestationRequest nonce => Sys2Proof.Machine.execAttestationRequest nonce s
  | .supervisorImageInstall num slot image sig => Sys2Proof.Machine.execSupervisorImageInstall num slot image sig s
  | .keySlotInstall slot key sig => Sys2Proof.Machine.execKeySlotInstall slot key sig s
  | .keySlotRevoke slot => Sys2Proof.Machine.execKeySlotRevoke slot s
  | .regionVerifyDone v => Sys2Proof.Machine.execRegionVerifyDone v s
  | .regionQuiesced region => Sys2Proof.Machine.execRegionQuiesced region s
  | .regionProgramDone region => Sys2Proof.Machine.execRegionProgramDone region s
  | .portBindingApply region port => Sys2Proof.Machine.execPortBindingApply region port s
  | .sidebandDelivery region port => Sys2Proof.Machine.execSidebandDelivery region port s
  | .podBringUp id members => Sys2Proof.Machine.execPodBringUp id members s
  | .revokeCycle offers dark => Sys2Proof.Machine.execRevokeCycle offers dark s
  | .laneRetuneDone peer r => Sys2Proof.Machine.execLaneRetuneDone peer r s
  | .lossOfLight peer l => Sys2Proof.Machine.execLossOfLight peer l s
  | .elsFailure e => Sys2Proof.Machine.execElsFailure e s
  | .farEndLossReport peer l => Sys2Proof.Machine.execFarEndLossReport peer l s
  | .elsRelit e => Sys2Proof.Machine.execElsRelit e s
  | .flitReceive peer seq crcOk l => Sys2Proof.Machine.execFlitReceive peer seq crcOk l s
  | .linkAckTimer peer => Sys2Proof.Machine.execLinkAckTimer peer s
  | .linkAckReceive peer ack => Sys2Proof.Machine.execLinkAckReceive peer ack s
  | .replayTimeout peer => Sys2Proof.Machine.execReplayTimeout peer s
  | .peerTimeout ctx peer => Sys2Proof.Machine.execPeerTimeout ctx peer s
  | .ethFrameReceive port frame => Sys2Proof.Machine.execEthFrameReceive port frame s
  | .glueClassifyAnswer port flow => Sys2Proof.Machine.execGlueClassifyAnswer port flow s
  | .glueClassifyTimeout port => Sys2Proof.Machine.execGlueClassifyTimeout port s
  | .pauseRenewal port flow => Sys2Proof.Machine.execPauseRenewal port flow s
  | .glueWrite port v => Sys2Proof.Machine.execGlueWrite port v s
  | .clkplanWrite v => Sys2Proof.Machine.execClkplanWrite v s
  | .clockGlideStep => Sys2Proof.Machine.execClockGlideStep s
  | .spurListWrite n v => Sys2Proof.Machine.execSpurListWrite n v s
  | .thermcfgWrite v => Sys2Proof.Machine.execThermcfgWrite v s
  | .powerWindow watts => Sys2Proof.Machine.execPowerWindow watts s
  | .qosRefill port => Sys2Proof.Machine.execQosRefill port s
  | .weightRefreshWindow phase => Sys2Proof.Machine.execWeightRefreshWindow phase s
  | .thermalWarn temp sensor => Sys2Proof.Machine.execThermalWarn temp sensor s
  | .thermalThrottle temp sensor => Sys2Proof.Machine.execThermalThrottle temp sensor s
  | .throttleClear => Sys2Proof.Machine.execThrottleClear s
  | .thermalHalt temp sensor => Sys2Proof.Machine.execThermalHalt temp sensor s
  | .thermalHaltClear => Sys2Proof.Machine.execThermalHaltClear s
  | .thermalCut temp sensor => Sys2Proof.Machine.execThermalCut temp sensor s
  | .droopDetect block => Sys2Proof.Machine.execDroopDetect block s
  | .droopStretchEnd block => Sys2Proof.Machine.execDroopStretchEnd block s
  | .blockIdle block => Sys2Proof.Machine.execBlockIdle block s
  | .blockHoldExpiry block => Sys2Proof.Machine.execBlockHoldExpiry block s
  | .blockWakeRequest block => Sys2Proof.Machine.execBlockWakeRequest block s
  | .blockWakeGrant => Sys2Proof.Machine.execBlockWakeGrant s
  | .blockWakeComplete block => Sys2Proof.Machine.execBlockWakeComplete block s
  | .eccCorrection loc uncorrectable => Sys2Proof.Machine.execEccCorrection loc uncorrectable s
  | .hbmRowRepair row => Sys2Proof.Machine.execHbmRowRepair row s
  | .l2TagParityError slice way => Sys2Proof.Machine.execL2TagParityError slice way s
  | .powerUp fw => Sys2Proof.Machine.execPowerUp fw s
  | .frameCrossing region port beat => Sys2Proof.Machine.execFrameCrossing region port beat s
  | .parcelOfferAnswer o status => Sys2Proof.Machine.execParcelOfferAnswer o status s
  | .forcedSaveDone ctx => Sys2Proof.Machine.execForcedSaveDone ctx s
  | .vfDisable n => Sys2Proof.Machine.execVfDisable n s
  | .thermWarnClear => Sys2Proof.Machine.execThermWarnClear s
  | .supplyFault => Sys2Proof.Machine.execSupplyFault s

end Sys2Proof.Machine
end

