-- ==== Sys2Proof/Machine/Turns.lean ====
section
/-! DEFINITION. Turns.lean: what one turn does: the issue of a task with the deliveries that come before it (R66, R67, R380) and
the choice of the task (R340), flits on a circuit (R309), the agents' turns, time, and what TLBs and walk caches keep (R371); and
the placing of a word where the next issue fetches. -/

namespace Sys2Proof.Machine

/-! ### The issue of a task -/

/-- What reaches the task that issues at its issue boundary, before its word: an engine fault of its own, which an earlier fault
that waited for BUSY keeps back (R380); then a WATCHDOG or PREEMPT delivery that waited for BUSY (R338, R359, R380). -/
def State.delivery (s : State) : Option Out :=
  let t := s.cur
  let k : Nat := s.task
  if t.trap.busy || !s.running s.tile || !s.me.live || s.power.halted then none
  else match t.faults.find? fun f => f.task == k with
    | some f =>
      if t.mayDeliver f then some (s.deliver s.tile f)
      else if s.me.asked = .out then none
      else some (.next s.waits)
    | none =>
      if t.watchdog.getLsbD k then
        let s' := s.updTile s.tile fun u => { u with watchdog := u.watchdog &&& ~~~((1 : BitVec 4) <<< k) }
        some (.next (s'.enterTrap s.tile k 5 ⟨.watchdog, 0, .read, 0⟩ s.me.pc))
      else if t.preempt && k == 0 then
        let s' := s.updTile s.tile fun u => { u with preempt := false }
        some (.next (s'.enterTrap s.tile k 6 ⟨.preempt, 0, .read, 0⟩ s.me.pc))
      else none

/-- The word at the PC of the issuing task: fetched, decoded and executed (R66, R67, R79). -/
def State.issueWord (s : State) : Out :=
  if !s.canIssue then .next s.waits
  else match s.fetch s.me.pc with
    | .error e => s.finish s.me.pc (.error e)
    | .ok w =>
      match decode w with
      | none => s.finish s.me.pc (trapOf .illegalEncoding 0)
      | some i => exec i s

/-- One issue of the current task. -/
def State.issue (s : State) : Out :=
  match s.delivery with
  | some o => o
  | none => s.issueWord

/-! ### Which task issues (R340) -/

/-- The state in which the issue of task `k` is tried. -/
def State.trying (s : State) (k : Fin 4) : State :=
  { s with task := k }.updTile s.tile fun t => { t with last := k + 1 }

/-- From `s` to `s'`, the issue of task `k` came to nothing: the task, the trap registers and the context are as they were. -/
def State.stalled (s s' : State) (k : Fin 4) : Bool :=
  let x := s.cur
  let y := s'.tileAt s.tile
  y.last != k && y.ctx == x.ctx && y.trap == x.trap && { y.tasks[k] with yielding := x.tasks[k].yielding } == x.tasks[k]

/-- The first ready task of some slots issues next. What a stalled one leaves behind is that it waits: for whom its queue, its
trap or its HALT waits, and that no YIELD counts it (R108, R113, R341, R380). -/
def State.survey (s : State) : List (Fin 4) → State
  | [] => s
  | k :: r =>
    if !s.cur.tasks[k].live then s.survey r
    else match (s.trying k).issue with
      | .next s' =>
        if s.stalled s' k then (s.updTile s.tile fun t => { s'.tileAt s.tile with last := t.last }).survey r
        else { s with task := k }
      | _ => { s with task := k }

/-- The live tasks of a tile. -/
def Tile.liveTasks (t : Tile) : List (Fin 4) := (List.finRange 4).filter fun k => t.tasks[k].live

/-- The state in which a tile issues: its task is the first ready one in slot order after the one that issued last (R340); where
one task alone lives, that one. -/
def State.chosen (s : State) : State :=
  match s.cur.liveTasks with
  | [] => s
  | [k] => { s with task := k }
  | _ => s.survey (slotsAfter s.cur.last)

/-! ### Flits on a circuit (R303, R306, R309) -/

/-- The field of an output in an entry of a slot table (R306). -/
def slotField (e : BitVec 32) (out : Nat) : Nat := bits e.toNat (3 * (out - 1)) 3

/-- A flit at a router, in at one port and out at another, moves on its slot now. A block under a stretch sees every other slot,
here the even ones (R309, log 71). -/
def State.onSlot (s : State) (router input out : Nat) : Bool :=
  slotField ((s.tileAt router).slotTable.get 0 (s.clock % 256)) out == input &&
    !((s.blockAt (blockOf router)).stretched && s.clock % 2 == 1)

/-- The router counts a demoted flit (R309, R310). -/
def State.demoted (s : State) (router : Nat) : State :=
  s.updTile router fun t => { t with miss := if t.miss = BitVec.allOnes 32 then t.miss else t.miss + 1 }

/-- The flits of a packet on a circuit that stand in the VC2 FIFO of an input port of a router, by their order (R303). -/
def Pkt.standing (router input : Nat) : Pkt → List Nat
  | .req _ _ _ _ _ _ way flits => flits.filterMap fun f => match way[f.pos]? with
    | none => none
    | some h => if h.1 = router ∧ h.2.1 = input then some f.seq else none
  | _ => []

/-- A packet on a circuit has an output of a router: its header has passed and its last flit has not (R303). -/
def Pkt.keeps (router out : Nat) : Pkt → Bool
  | .req _ _ _ _ _ _ way flits =>
    (List.range way.length).any fun p =>
      (way[p]?).any (fun h => h.1 == router && h.2.2 == out) && (flits.head?).any (fun f => decide (p < f.pos)) &&
        flits.any fun f => decide (f.pos ≤ p)
  | _ => false

/-- The VC2 FIFO of an input port: 4 flits; at the local port of a tile those beyond wait in the tile (R303). -/
def State.meshFifo (s : State) (router input : Nat) : List Nat := s.pkts.flatMap (Pkt.standing router input)

/-- The name of an output of a router. -/
def outKey (router out : Nat) : Nat := 8 * router + out

/-- A flit of packet k may leave the router `h` for `next`: it is at the head of its FIFO, its output has passed no flit in this
cycle and is not another packet's, and the next FIFO of 4 flits has room (R302, R303). -/
def State.couldMove (s : State) (k : Nat) (f : Flit) (h : Nat × Nat × Nat) (next : Option (Nat × Nat × Nat)) : Bool :=
  (s.meshFifo h.1 h.2.1).all (fun q => decide (f.seq ≤ q)) && s.outs.get 0 (outKey h.1 h.2.2) != s.clock + 1 &&
    !(s.pkts.eraseIdx k).any (Pkt.keeps h.1 h.2.2) &&
    match next with
    | none => true
    | some g => decide ((s.meshFifo g.1 g.2.1).length < 4)

/-- In this cycle the output of a router is that of a flit which can move on its slot (R309). -/
def State.slotted (s : State) (router out : Nat) : Bool :=
  s.pkts.zipIdx.any fun x => match x.1 with
    | .req _ _ _ _ _ _ way flits => flits.any fun f => (way[f.pos]?).any fun h =>
        h.1 == router && h.2.2 == out && s.onSlot h.1 h.2.1 h.2.2 && s.couldMove x.2 f h way[f.pos + 1]?
    | _ => false

/-- A flit may leave its router now: on its slot ahead of every other, else where no flit on its slot takes the output (R309). -/
def State.mayMove (s : State) (k : Nat) (f : Flit) (h : Nat × Nat × Nat) (next : Option (Nat × Nat × Nat)) : Bool :=
  s.couldMove k f h next && (s.onSlot h.1 h.2.1 h.2.2 || !s.slotted h.1 h.2.2)

/-- Flit j of packet k moves on by one router, on its slot or demoted (R309); its output is taken for this cycle. -/
def State.moveFlit (s : State) (k j : Nat) : State :=
  match s.pkts[k]? with
  | some (.req t i op loc d home way flits) =>
    match flits[j]? with
    | none => s
    | some f =>
      match way[f.pos]? with
      | none => s
      | some h =>
        if !s.mayMove k f h way[f.pos + 1]? then s
        else
          let s := if s.onSlot h.1 h.2.1 h.2.2 then s else s.demoted h.1
          { s with
            pkts := s.pkts.set k (.req t i op loc d home way (flits.set j ⟨f.pos + 1, s.hops⟩))
            hops := s.hops + 1
            outs := s.outs.put (outKey h.1 h.2.2) (s.clock + 1) }
  | _ => s

/-- The first flit of packet k that can move on its route. -/
def State.nextFlit (s : State) (k : Nat) : Option Nat :=
  match s.pkts[k]? with
  | some (.req _ _ _ _ _ _ way flits) =>
    flits.findIdx? fun f => (way[f.pos]?).any fun h => s.mayMove k f h way[f.pos + 1]?
  | _ => none

/-! ### Agents (log 1) -/

/-- The first packet on its way that a test picks, by its place. -/
def State.findPkt (s : State) (f : Pkt → Bool) : Nat := s.pkts.findIdx f

/-- Packets of a tile, by kind. -/
def Pkt.isReq (t : Nat) : Pkt → Bool
  | .req u .. => u == t
  | _ => false
def Pkt.isResp (t : Nat) : Pkt → Bool
  | .resp u .. => u == t
  | _ => false
def Pkt.isAck (t : Nat) : Pkt → Bool
  | .ack u .. => u == t
  | _ => false
def Pkt.isCounter (t : Nat) : Pkt → Bool
  | .counter u .. => u == t
  | _ => false
def Pkt.isSend (t : Nat) : Pkt → Bool
  | .send u .. => u == t
  | _ => false
def Pkt.isSteal (t : Nat) : Pkt → Bool
  | .steal u .. => u == t
  | _ => false

/-- The locations on which tasks of a tile sleep. -/
def Tile.sleepLocs (t : Tile) : List Nat := t.tasks.toList.filterMap Task.sleep

/-- The oldest request of a tile goes on: a flit of it on its circuit, or its arrival. -/
def State.goOn (s : State) (t : Nat) : Out :=
  let k := s.findPkt (Pkt.isReq t)
  match s.nextFlit k with
  | some j => .next (s.moveFlit k j)
  | none => execRemoteRequestArrival k s

/-- The turn of an agent: the event of the opcode table that it performs. -/
def State.agent (s : State) (t : Nat) (a : Agent) : Out :=
  match a with
  | .landing task k => execSequencerResultLanding t task k s
  | .head e budget => execEngineQueueHeadIssue t e budget s
  | .fire e k => execStreamBufferFire t e k s
  | .planeLoad p => execPlaneLoadComplete t p s
  | .planePart p n => s.planePart t p n
  | .part n => s.piecePart t n
  | .rowExit => execArrayRowExit t s
  | .piece => execCopyPieceLand t s
  | .counterAdd => execCopyCounterAdd t s
  | .followOn => execCopymFollowOnFill t s
  | .deliver => execEngineFaultDelivery t s
  | .request => s.goOn t
  | .response => execRemoteResponseLanding (s.findPkt (Pkt.isResp t)) (.ok []) s
  | .ack => execWriteAckLanding (s.findPkt (Pkt.isAck t)) (.ok []) s
  | .counterMsg => execRstCounterMessage (s.findPkt (Pkt.isCounter t)) s
  | .send => execSendArrival (s.findPkt (Pkt.isSend t)) s
  | .steal => execDqstealArrival (s.findPkt (Pkt.isSteal t)) s
  | .wake => (s.tileAt t).sleepLocs.foldl (fun o loc => match o with
      | .next s' => execWaitcWake loc s'
      | o => o) (.next s)
  | .cast => execCastOn ((s.tileAt t).part.getD 64) s
  | .dispatch => execStitchDispatch ((s.tileAt t).part.getD 64) s
  | .start => execStitchStart t s

/-! ### Kept translations (R371) -/

/-- What all contexts keep at one place. -/
def State.kept {α : Type} (s : State) (f : Ctx → List α) (p : α → Bool) : Nat := (s.ctxs.map fun kv => (f kv.2).countP p).sum

/-- The TLB of a slice port has room for a page of a size: 64 entries of 2 MiB, 512 of the others (R371). -/
def State.tlbRoom (s : State) (port size : Nat) : Bool :=
  let big := fun n => decide (n = 2 ^ 21)
  decide (s.kept Ctx.tlb (fun t => t.port == port && big t.size == big size) < if size = 2 ^ 21 then 64 else 512)

/-- The TLB of the port at which an access of a tile enters takes in the translation of the page; an entry whose walk faults is
not kept (R371). -/
def State.tlbFill (s : State) (c tile : Nat) (va : Word) (k : AccKind) (lv : Level) : State :=
  let die := dieOf tile
  let port := entryPort die va
  let from_ := (s.ctxAt c).walkStart die va
  if !canonical va then s
  else match s.walkFrom va k from_.1 from_.2 with
    | .error _ => s
    | .ok (l, _) =>
      if !permits l.perm k lv || !s.tlbRoom port l.size then s
      else s.updCtx c fun x =>
        { x with tlb := x.tlb ++ [⟨port, va.toNat - va.toNat % l.size, l.size, l.pa, BitVec.ofNat 7 l.perm⟩] }

/-- A TLB drops what it keeps for an address. -/
def State.tlbDrop (s : State) (c : Nat) (va : Word) : State :=
  s.updCtx c fun x => { x with tlb := x.tlb.filter fun t => !(decide (t.va ≤ va.toNat) && decide (va.toNat < t.va + t.size)) }

/-- The table to which the entry of a level of a walk points (R367, R368). -/
def State.pointer (s : State) (va : Word) (level : Nat) : Nat → Nat → Option Nat
  | 0, _ => none
  | lvl + 1, t =>
    match s.pte (t + 8 * bits va.toNat (12 + 9 * lvl) 9) with
    | .error _ => none
    | .ok e =>
      if bits e 0 12 ≠ 1 || bits e 52 12 ≠ 0 then none
      else if lvl + 1 = level then some (bits e 12 40 * 4096)
      else s.pointer va level lvl (bits e 12 40 * 4096)

/-- The walk cache of a die takes in a pointer of levels 5 to 2 of a walk that faults nowhere; it has 64 places for each level
(R371, log 78). -/
def State.walkFill (s : State) (c die level : Nat) (va : Word) (k : AccKind) (lv : Level) : State :=
  let from_ := (s.ctxAt c).walkStart die va
  let key := va.toNat / 2 ^ (12 + 9 * (level - 1))
  let faults := match s.walkFrom va k from_.1 from_.2 with
    | .error _ => true
    | .ok (l, _) => !permits l.perm k lv
  if !canonical va || faults || level < 2 ||
      64 ≤ s.kept Ctx.walks fun w => w.die == die && w.level == level then s
  else match s.pointer va level from_.1 from_.2 with
    | none => s
    | some t => s.updCtx c fun x => { x with walks := x.walks ++ [⟨die, level, key, t⟩] }

/-- A walk cache drops what it keeps for an address. -/
def State.walkDrop (s : State) (c : Nat) (va : Word) : State :=
  s.updCtx c fun x => { x with walks := x.walks.filter fun w => !w.overlaps va.toNat va.toNat }

/-- An address of a context whose page a die's TLB would forbid. -/
def State.denied (s : State) (c die : Nat) (va : Word) : State :=
  s.updCtx c fun x => { x with tlb := ⟨entryPort die va, va.toNat - va.toNat % 4096, 4096, 0, 0⟩ :: x.tlb }

/-- The state that an outcome leaves, without what TLBs and walk caches keep. -/
def bareOut : Out → Option State
  | .next s => some { s with ctxs := s.ctxs.map fun kv => (kv.1, { kv.2 with tlb := [], walks := [] }) }
  | _ => none

/-- What runs makes an access that a die translates at an address of a context: its outcome rests on that translation (R371). -/
def State.needs (s : State) (run : State → Out) (c die : Nat) (va : Word) : Bool :=
  (s.ctxs.find c).isSome && bareOut (run (s.denied c die va)) != bareOut (run s)

/-! ### One turn -/

/-- What a turn does. Without power only power-up and time go on (R427, R440). A TLB or a walk cache keeps what the walk of an access
has read in the turn of that access (R371). -/
def turnOf : Turn → State → Out
  | .elapse cycles ns, s => .next (s.elapse cycles ns)
  | .event i, s =>
    if !i.isEvent then .next s
    else if s.power.on then exec i s
    else match i with
      | .powerUp f => execPowerUp f s
      | _ => .next s
  | .issue tile, s => if s.power.on then ({ s with tile := tile } : State).chosen.issue else .next s
  | .agent tile a, s => if s.power.on then s.agent tile a else .next s
  | .flit k j, s => .next (s.moveFlit k j)
  | .portion k n, s => s.servePart k n
  | .tlbFill c tile va k lv t, s =>
    turnOf t (if s.needs (turnOf t) c (dieOf tile) va then s.tlbFill c tile va k lv else s)
  | .tlbDrop c va, s => .next (s.tlbDrop c va)
  | .walkFill c die level va k lv t, s =>
    turnOf t (if s.needs (turnOf t) c die va then s.walkFill c die level va k lv else s)
  | .walkDrop c va, s => .next (s.walkDrop c va)
  | .leaseAdd, s => s.leaseAdd
  | .shootDone c, s => .next (s.shootDone c)
  | .sense temp, s => .next (s.sensed temp)
  | .barWrite n bar off v, s => s.barWrite n bar off v
def State.turn (s : State) (t : Turn) : Out := turnOf t s

/-! ### Placing a word where the next issue fetches -/

/-- The issuing task can issue: its tile has a context that runs, no other task lives on it, and nothing is delivered first. -/
def State.readied (s : State) : State :=
  let c := s.cur.ctx.getD 0
  let s : State := { s with agenda := [], power := { s.power with on := true, halted := false } }
  let s := s.updBlock (blockOf s.tile) fun b => { b with gate := .active }
  let s := s.updCtx c fun x => { x with exists_ := true, resumed := true, forced := false }
  let s := s.updTile s.tile fun t =>
    { t with
      ctx := some c
      part := some (t.part.getD 0)
      halted := false
      halting := none
      switched := false
      faults := []
      watchdog := 0
      preempt := false
      tasks := t.tasks.map fun k => { k with live := false } }
  s.updMe fun t => { t with live := true, sleep := none, yielding := 0 }

/-- A table entry that points to the next table, and a leaf that permits everything at every level (R368). -/
def nextTable (pa : Nat) : Nat := pa + 1
def fullLeaf (pa : Nat) : Nat := pa + 0x1F

/-- The address space of the issuing task's context with one page at address 0, with its tables in HBM4 behind it, and the
task at its start. -/
def State.mapped (s : State) : State :=
  let s := s.updCtx (s.cur.ctx.getD 0) fun x => { x with record := { x.record with ptroot := 0x1000000 }, tlb := [], walks := [] }
  let s := (((s.store 0x1000000 (le 8 (nextTable 0x1001000))).store 0x1001000 (le 8 (nextTable 0x1002000))).store 0x1002000
    (le 8 (nextTable 0x1003000))).store 0x1003000 (le 8 (nextTable 0x1004000))
  (s.store 0x1004000 (le 8 (fullLeaf 0x1005000))).updMe fun t => { t with pc := 0 }

/-- A word stored at an address of the issuing task's context, where it translates. -/
def State.putWord (s : State) (a : Word) (w : Nat) : State :=
  match if canonical a then s.translate s.who.ctx a .exec s.who.level (dieOf s.tile) else .error .hole with
  | .ok pa => s.store pa (le 4 w)
  | .error _ => s

/-- The PC of the issuing task translates for fetch. -/
def State.fetches (s : State) : Bool :=
  match s.fetch s.me.pc with
  | .ok _ => s.me.pc.toNat % 4096 ≤ 4084
  | .error _ => false

/-- A word at the PC of the issuing task, and two words of zeros behind it. -/
def State.placed (s : State) (w : Nat) : State :=
  let s := s.readied
  let s := if s.fetches then s else s.mapped
  ((s.putWord s.me.pc w).putWord (s.me.pc + 4) 0).putWord (s.me.pc + 8) 0

end Sys2Proof.Machine
end

