-- ==== Sys2Proof/Machine/Step.lean ====
section
/-! DEFINITION. Step.lean: one step of the machine, and the state whose next step runs a given word. -/

namespace Sys2Proof.Machine

/-- One step: the oldest turn of the agenda, or the next issue of the current tile where the agenda holds none. -/
def step (s : State) : Host.Outcome State Fault Refusal :=
  match s.agenda with
  | [] => if s.power.on then s.chosen.issue else .next s
  | t :: r => ({ s with agenda := r } : State).turn t

/-- The state with an instruction where the next step fetches (log 13). -/
def State.withFetchWord (s : State) (_nbits w : Nat) : State := s.placed w

end Sys2Proof.Machine
end

