-- ==== Sys2Proof/Safety.lean ====
section
/-! DEFINITION. Safety.lean: what a safe step and a well-formed state are, and the terms in which the claims speak of one word:
how it issues, what it leaves alone, what it writes. -/

namespace Sys2Proof

/-- A step is safe when it gives a next state: the package goes on. -/
def SafeStep (s : Machine.State) : Prop := ∃ s', Machine.step s = .next s'

/-- What every reachable state has: memory in its canonical form, and the blocks fused off that its grade has (R3). -/
def Inv (s : Machine.State) : Prop := Machine.Memory.wf s.mem = true ∧ s.fusesOk = true

end Sys2Proof

namespace Sys2Proof.Claims

open Sys2Proof.Machine

/-- The steps of R67 that come before the operation of a sequencer word all let it go on: its task may issue, the word is
legal, is no branch in a delay slot, has its privilege, its guard is landed and true, and no register that it names is
pending. -/
def issues (s : State) (w : Instr) (g : Guard) (b : Board) : Bool :=
  s.canIssue && w.wf && !(s.me.slot.isSome && w.branchClass) && !(privilegedWord w && s.me.level == .user) &&
  !s.me.pPending g.p && s.me.guard g && !b.blocked s.me

/-- From `s` to `t` one task has gone on by a unit of `n` words, and `f` is all that happened to it: outside its tile nothing
changed, every byte of memory reads as before, and on the tile the other tasks and everything but the notes that any
issue leaves (and the YIELDs that an issue counts for) are as before. -/
structure TaskStep (s t : State) (f : Task → Task) (n : Nat) : Prop where
  rest : { t with tiles := s.tiles } = s
  bytes : ∀ a, t.byte a = s.byte a
  others : ∀ k, k ≠ s.tile → t.tileAt k = s.tileAt k
  tile : { t.cur with tasks := s.cur.tasks, last := s.cur.last, queueWait := s.cur.queueWait, lastIssue := s.cur.lastIssue,
                      trapWait := s.cur.trapWait } = s.cur
  tasks : ∀ k : Fin 4, k ≠ s.task → { t.cur.tasks[k] with yielding := s.cur.tasks[k].yielding } = s.cur.tasks[k]
  own : { t.me with yielding := 0 } = { (f s.me).advance n with yielding := 0 }

/-- The word answers a next state in which s[d] holds `v` (s0 reads as 0 and nothing is written to it), and every other
register, every predicate and everything else is as it was, but for the PC. -/
def Writes (s : State) (w : Instr) (d : BitVec 5) (v : Word) : Prop :=
  ∃ t, exec w s = .next t ∧ TaskStep s t (fun x => x.sset d v) 1 ∧ t.getS d = (if d = 0 then 0 else v) ∧
    (∀ n, n ≠ d → t.getS n = s.getS n) ∧ ∀ q, t.getP q = s.getP q

/-- The same for a predicate register, which is never p0. -/
def Sets (s : State) (w : Instr) (q : BitVec 3) (v : Bool) : Prop :=
  ∃ t, exec w s = .next t ∧ TaskStep s t (fun x => x.pset q v) 1 ∧ t.getP q = v ∧
    (∀ n, n ≠ q → t.getP n = s.getP n) ∧ ∀ n, t.getS n = s.getS n

/-- The word answers a next state in which nothing but the PC has changed. -/
def GoesOn (s : State) (w : Instr) : Prop :=
  ∃ t, exec w s = .next t ∧ TaskStep s t id 1 ∧ (∀ n, t.getS n = s.getS n) ∧ ∀ q, t.getP q = s.getP q

/-- The word performs `x` and then counts as issued: one word on, and no byte, register or tile changes beyond `x`. -/
def Performs (s : State) (w : Instr) (x : State) : Prop := exec w s = .next (x.issued 1)

/-- The word answers a next state in which `v` is on its way to s[d], which is pending until it lands, and nothing else but the
PC has changed. -/
def Lands (s : State) (w : Instr) (d : BitVec 5) (v : Word) : Prop :=
  ∃ t, exec w s = .next t ∧
    TaskStep s t (fun x => if d = 0 then x else { x.smark d with landings := x.landings ++ [⟨d, v, []⟩] }) 1

/-- System software can act: the package has power and its firmware runs. -/
def Managed (s : State) : Prop := s.power.on = true ∧ s.mgmt.firmware = true

/-- The state after the word when it stops in a trap of the issuing task. -/
def Traps (s : State) (w : Instr) (i : TrapInfo) : Prop := exec w s = .next (s.issueTrap i s.me.pc)

end Sys2Proof.Claims
end

