-- ==== Sys2Proof/Certificates/Slice0/Obligations.lean ====
section
/-! DEFINITION. Obligations.lean: what is to be proved of the model, from the numbered rules of the spec. The terms that
statements share are those of Safety.lean; what only one group of them needs stands before that group. -/

section

open Sys2Proof Sys2Proof.Machine Sys2Proof.Claims

/-! ### Encodings -/

/-- R66, R69, R72, R79: the word of a well-formed instruction decodes to that instruction with every operand, through the
decoder on bytes, and no two instructions share a word. -/
def Obligations.EncodedWordsDecode : Prop :=
  (∀ i : Instr, i.isEvent = false → i.wf = true →
    encode i < 2 ^ 32 ∧ decode (encode i) = some i ∧
    ∀ rest, decodeBytes (bytesOf 4 (encode i) ++ rest) = some (i, rest)) ∧
  ∀ i j : Instr, i.isEvent = false → i.wf = true → j.isEvent = false → j.wf = true → encode i = encode j → i = j

/-- R69, R79: a word that decodes is the word of what it decodes to, so that no bit of a legal word is ignored: every bit
that an encoding does not assign is 0. R72, R79: a word of a major opcode that is not assigned is no instruction. -/
def Obligations.EveryBitIsRead : Prop :=
  (∀ (w : Nat) (i : Instr), w < 2 ^ 32 → decode w = some i → i.isEvent = false ∧ i.wf = true ∧ encode i = w) ∧
  (∀ w : Nat, (w / 2 ^ 26 % 64) ∈ [0x00, 0x1A, 0x1B, 0x1C, 0x1D, 0x1E, 0x1F, 0x2C, 0x2D, 0x2E, 0x2F, 0x34, 0x35, 0x39, 0x3D, 0x3F] →
     decode w = none)

/-- Words written out from the encodings of the spec, one of each family, are the instructions they stand for. -/
def Obligations.WrittenWordsDecode : Prop :=
  decode 0b000001_0000_00011_00001_00010_0000000 = some (.add ⟨false, 0⟩ 3 1 2) ∧
  decode 0b000010_1011_00101_00000_111111111111 = some (.addi ⟨true, 3⟩ 5 0 0xFFF) ∧
  decode 0x64064280 = some (.rgnLoad ⟨false, 0⟩ 3 4 5) ∧
  decode 0xDC114158 = some (.copy 17 8 5 12) ∧
  decode 0xF0042800 = some (.fctl 4 5) ∧
  decode 0x602D4004 = some (.pmap ⟨false, 0⟩ 22 20) ∧
  decode 0b100000_00111_00001_00010_011_0000_0110 = some (.vadd 7 1 2 3 .f32)

/-! ### Reset and the step -/

/-- What the spec states of the machine right after package reset: every tile without context, queues and tasks empty, SRAM
0, no partition valid, GRACE at its default (R344), PWR_RAMP and THERMCFG at their reset values (R420, R427). That the
rounding generators hold the states of seed 0 is the model's choice (log 4): R57 gives SEED its reset value 0 and says what a
write of it does. -/
def Obligations.ResetState : Prop :=
  let s := State.reset
  (∀ t, (s.tileAt t).ctx = none ∧ (s.tileAt t).part = none ∧ (s.tileAt t).vq = [] ∧ (s.tileAt t).mq = [] ∧
    (s.tileAt t).cq = [] ∧ (s.tileAt t).lq = [] ∧ ∀ k : Fin 4, ((s.tileAt t).tasks[k]).live = false) ∧
  (∀ t o, o < Config.sramBytes → s.byte (sramLoc t o) = 0) ∧
  (∀ t, (s.tileAt t).gv = 0x9E3779B97F4A7C15 ∧ (s.tileAt t).gm = 0xC2B2AE3D27D4EB4F ∧ (s.tileAt t).gc = 0x165667B19E3779F9) ∧
  (∀ p, descValid (s.partAt p).desc = false ∧ descGrace (s.partAt p).desc = 1000) ∧
  s.power.ramp = 0x0FA0 ∧ s.power.therm = 0x73695F

/-- The machine after reset holds its memory in canonical form (the model's choice of how it lists memory, log 2), and no
block is fused off but those of its ordering code (R3). -/
def Obligations.ResetKeepsInv : Prop := Inv State.reset

/-- Every step keeps the canonical form of memory, so that equal memories are equal data (log 2), and the blocks fused off:
on VL9-P4S two on each die, eight in all, else none (R3). -/
def Obligations.StepKeepsInv : Prop := ∀ s t : State, Inv s → step s = .next t → Inv t

/-- A step of a tile lets the chosen task issue; when that task may issue and nothing is delivered to it first, the step is
the meaning of the instruction that the word at its PC decodes to (R66, R67); a word that decodes to none traps
ILLEGAL_ENCODING (R79). The choice is the one live task where there is one, and changes nothing but the task and the notes on
its tile (R340). -/
def Obligations.StepRunsDecoded : Prop :=
  (∀ (s : State) (w : Nat), let c := s.chosen
    s.agenda = [] → s.power.on = true → c.delivery = none → c.canIssue = true → c.fetch c.me.pc = .ok w →
    (∀ i, decode w = some i → step s = exec i c) ∧
    (decode w = none → step s = .next (c.issueTrap ⟨.illegalEncoding, 0, .read, 0⟩ c.me.pc))) ∧
  ∀ s : State, (∀ k, s.cur.liveTasks = [k] → s.chosen = { s with task := k }) ∧
    { s.chosen with task := s.task, tiles := s.tiles } = s ∧ ∀ u, u ≠ s.tile → s.chosen.tileAt u = s.tileAt u

/-- A word placed where the machine fetches next is the one that the next step runs (log 13). -/
def Obligations.PlacedWordRuns : Prop :=
  ∀ (i : Instr), i.isEvent = false → i.wf = true →
    step (State.reset.withFetchWord 32 (encode i)) = exec i (State.reset.withFetchWord 32 (encode i))

/-! ### The register file, the guard, and the words on registers -/

/-- R270, R6: a byte reads as what was last written to it, a write of n bytes changes those n bytes and no other, and a value
of n bytes is stored with its least significant byte at the lowest address. R19: s0 and p0 read as a constant and discard
what is written; any other register reads what was last written to it, and a write changes no other register. -/
def Obligations.StorageReadsBack : Prop :=
  (∀ (s : State) (loc : Nat) (bs : List Byte),
     (∀ k (h : k < bs.length), (s.store loc bs).byte (loc + k) = bs[k]) ∧
     (∀ a, a < loc ∨ loc + bs.length ≤ a → (s.store loc bs).byte a = s.byte a) ∧
     ∀ n v, v < 2 ^ (8 * n) → (s.store loc (bytesOf n v)).readNat loc n = v) ∧
  (∀ (t : Task) (d n : BitVec 5) (v : Word) (q m : BitVec 3) (b : Bool),
     (t.sset 0 v = t ∧ t.sget 0 = 0 ∧ t.pset 0 b = t ∧ t.pget 0 = true) ∧
     (d ≠ 0 → (t.sset d v).sget d = v) ∧ (n ≠ d → (t.sset d v).sget n = t.sget n) ∧ (t.sset d v).p = t.p ∧
     (q ≠ 0 → (t.pset q b).pget q = b) ∧ (m ≠ q → (t.pset q b).pget m = t.pget m) ∧ (t.pset q b).s = t.s)

/-- R88, R84: the two-source words of major 0x01 whose result the next word may read. R88, R91, R92: the words of one source
and those with an immediate: 12-bit immediates are sign-extended by ADDI and zero-extended by ANDI, ORI and XORI. R88: CLZ,
CTZ and POPC: for 0 the first two give 64; else the number of zero bits above the highest one bit, below the lowest one bit,
and the number of one bits. -/
def Obligations.ScalarArithmetic : Prop :=
  (∀ (s : State) (g : Guard) (d a b : BitVec 5), let x := s.getS a; let y := s.getS b
   ∀ p ∈ [(Instr.add g d a b, x + y), (.sub g d a b, x - y), (.andS g d a b, x &&& y), (.orS g d a b, x ||| y),
       (.xorS g d a b, x ^^^ y), (.andn g d a b, x &&& ~~~y), (.shl g d a b, x <<< (y.toNat % 64)),
       (.shr g d a b, x >>> (y.toNat % 64)), (.sar g d a b, x.sshiftRight (y.toNat % 64)),
       (.rotr g d a b, x.rotateRight (y.toNat % 64)), (.minS g d a b, if x.toInt ≤ y.toInt then x else y),
       (.maxS g d a b, if x.toInt ≤ y.toInt then y else x), (.minu g d a b, if x.toNat ≤ y.toNat then x else y),
       (.maxu g d a b, if x.toNat ≤ y.toNat then y else x)],
     issues s p.1 g { src := [a, b], dst := [d] } = true → Writes s p.1 d p.2) ∧
  (∀ (s : State) (g : Guard) (d a : BitVec 5) (i : BitVec 12) (n : BitVec 6), let x := s.getS a
   ∀ p ∈ [(Instr.sextb g d a, (x.setWidth 8).signExtend 64), (.sexth g d a, (x.setWidth 16).signExtend 64),
       (.sextw g d a, (x.setWidth 32).signExtend 64), (.zextb g d a, (x.setWidth 8).setWidth 64),
       (.zexth g d a, (x.setWidth 16).setWidth 64), (.zextw g d a, (x.setWidth 32).setWidth 64),
       (.addi g d a i, x + i.signExtend 64), (.andi g d a i, x &&& i.setWidth 64), (.ori g d a i, x ||| i.setWidth 64),
       (.xori g d a i, x ^^^ i.setWidth 64), (.shli g d a n, x <<< n.toNat), (.shri g d a n, x >>> n.toNat),
       (.sari g d a n, x.sshiftRight n.toNat), (.rotri g d a n, x.rotateRight n.toNat)],
     issues s p.1 g { src := [a], dst := [d] } = true → Writes s p.1 d p.2) ∧
  ((∀ (s : State) (g : Guard) (d a : BitVec 5), issues s (.clz g d a) g { src := [a], dst := [d] } = true →
     ∃ k : Nat, Writes s (.clz g d a) d (BitVec.ofNat 64 k) ∧ k ≤ 64 ∧ (∀ j, 64 - k ≤ j → (s.getS a).getLsbD j = false) ∧
       (k < 64 → (s.getS a).getLsbD (63 - k) = true)) ∧
   (∀ (s : State) (g : Guard) (d a : BitVec 5), issues s (.ctz g d a) g { src := [a], dst := [d] } = true →
     ∃ k : Nat, Writes s (.ctz g d a) d (BitVec.ofNat 64 k) ∧ k ≤ 64 ∧ (∀ j, j < k → (s.getS a).getLsbD j = false) ∧
       (k < 64 → (s.getS a).getLsbD k = true)) ∧
   ∀ (s : State) (g : Guard) (d a : BitVec 5), issues s (.popc g d a) g { src := [a], dst := [d] } = true →
     Writes s (.popc g d a) d (BitVec.ofNat 64 ((List.range 64).countP fun j => (s.getS a).getLsbD j)))

/-- R84, R88, R89: a multiply or divide marks its destination pending and its result, computed from the operands at issue, is
in flight; division by 0 gives -1 (all ones) and the dividend as remainder, and the quotient truncates toward 0. R84, R86: a
result in flight of task k of a tile lands: its register receives it and is no longer pending, and it is in flight no more.
R151, R282: while pieces of a parcel are left to zero, a request of the next of them that lies in one 256-byte block and that
its slice port admits zeroes those bytes and no other, and the register stays pending. -/
def Obligations.MultiplyAndDivide : Prop :=
  (∀ (s : State) (g : Guard) (d a b : BitVec 5), let x := s.getS a; let y := s.getS b
   ∀ p ∈ [(Instr.mul g d a b, x * y), (.mulh g d a b, BitVec.ofInt 64 (x.toInt * y.toInt / 2 ^ 64)),
       (.mulhu g d a b, BitVec.ofNat 64 (x.toNat * y.toNat / 2 ^ 64)),
       (.div g d a b, if y = 0 then BitVec.allOnes 64 else BitVec.ofInt 64 (x.toInt.tdiv y.toInt)),
       (.rem g d a b, if y = 0 then x else BitVec.ofInt 64 (x.toInt.tmod y.toInt)),
       (.divu g d a b, if y = 0 then BitVec.allOnes 64 else x / y), (.remu g d a b, if y = 0 then x else x % y)],
     issues s p.1 g { src := [a, b], dst := [d] } = true →
     ∃ t, exec p.1 s = .next t ∧
       TaskStep s t (fun k => if d = 0 then k else { k.smark d with landings := k.landings ++ [⟨d, p.2, []⟩] }) 1) ∧
  ((∀ (s s1 : State) (tile task j p n : Nat) (r : Landing) (rest : List (Nat × Nat)), let m := min n (256 - p % 256)
     ((s.tileAt tile).taskAt task).landings[j]? = some r → r.zero = (p, n) :: rest → s.admitAt tile p m = .ok s1 →
     ∃ t, exec (.sequencerResultLanding tile task (j + 1)) s = .next t ∧ (∀ k, k < m → t.byte (p + k) = 0) ∧
       (∀ a, a < p ∨ p + m ≤ a → t.byte a = s.byte a) ∧
       ((t.tileAt tile).taskAt task).landings[j]? =
         some { r with zero := if n ≤ 256 - p % 256 then rest else (p + m, n - m) :: rest } ∧
       ((t.tileAt tile).taskAt task).spend = ((s.tileAt tile).taskAt task).spend ∧ (∀ u, u ≠ tile → t.tileAt u = s.tileAt u)) ∧
   ∀ (s : State) (tile task j : Nat) (r : Landing), ((s.tileAt tile).taskAt task).landings[j]? = some r → r.zero = [] →
     ∃ t, exec (.sequencerResultLanding tile task (j + 1)) s = .next t ∧
       (t.tileAt tile).taskAt task =
         ({ (s.tileAt tile).taskAt task with landings := ((s.tileAt tile).taskAt task).landings.eraseIdx j } : Task).sset r.dst r.val ∧
       (∀ u, u ≠ tile → t.tileAt u = s.tileAt u) ∧ { t with tiles := s.tiles } = s)

/-- R93, R90, R112: LIH places a signed 21-bit immediate at bit 12, APC adds a signed word offset to its own PC, SEL selects
by its guard and always executes, CVTA replaces the space of an address, ISIN tests it. R94, R95: compares write a predicate;
a CMPI immediate is a sign-extended 11-bit value. R96: the predicate words. -/
def Obligations.ConstantsComparesPredicates : Prop :=
  ((∀ (s : State) (d : BitVec 5) (i : BitVec 21),
     (issues s (.lih d i) always { dst := [d] } = true → Writes s (.lih d i) d (i.signExtend 64 <<< 12)) ∧
     (issues s (.apc d i) always { dst := [d] } = true → Writes s (.apc d i) d (s.me.pc + i.signExtend 64 * 4))) ∧
   (∀ (s : State) (g : Guard) (d a b : BitVec 5),
     issues s (.sel g d a b) always { src := [if s.me.guard g then a else b], psrc := [g.p], dst := [d] } = true →
     Writes s (.sel g d a b) d (if s.me.guard g then s.getS a else s.getS b)) ∧
   ∀ (s : State) (g : Guard) (d a : BitVec 5) (sp : Space),
     (issues s (.cvta g d a sp) g { src := [a], dst := [d] } = true →
       Writes s (.cvta g d a sp) d (BitVec.ofNat 64 (spacePrefix sp * 2 ^ 52 + (s.getS a).toNat % 2 ^ 52))) ∧
     (issues s (.isin g d a sp) g { src := [a], dst := [d] } = true →
       Writes s (.isin g d a sp) d (if inSpace sp (s.getS a) then 1 else 0))) ∧
  (∀ (s : State) (g : Guard) (q : BitVec 3) (a b : BitVec 5) (i : BitVec 11), let x := s.getS a
   let holds := fun (c : SCond) (y : Word) => match c with
     | .eq => decide (x = y)
     | .ne => decide (x ≠ y)
     | .lt => decide (x.toInt < y.toInt)
     | .ge => decide (x.toInt ≥ y.toInt)
     | .ltu => decide (x.toNat < y.toNat)
     | .geu => decide (x.toNat ≥ y.toNat)
   ∀ c, (issues s (.cmp g q a b c) g { src := [a, b], pdst := [q] } = true → Sets s (.cmp g q a b c) q (holds c (s.getS b))) ∧
     (issues s (.cmpi g q c a i) g { src := [a], pdst := [q] } = true → Sets s (.cmpi g q c a i) q (holds c (i.signExtend 64)))) ∧
  (∀ (s : State) (g : Guard) (q a b : BitVec 3), let x := s.getP a; let y := s.getP b
   ∀ p ∈ [(Instr.pand g q a b, [a, b], x && y), (.por g q a b, [a, b], x || y), (.pxor g q a b, [a, b], x ^^ y),
       (.pandn g q a b, [a, b], x && !y), (.pnot g q a, [a], !x), (.pmov g q a, [a], x), (.pset g q, [], true)],
     issues s p.1 g { psrc := p.2.1, pdst := [q] } = true → Sets s p.1 q p.2.2)

/-- The word waits where a register that it names is pending: nothing of it happens, and no register, byte or PC changes. -/
def Sys2Proof.Claims.Waits (s : State) (w : Instr) (g : Guard) (b : Board) : Prop :=
  s.canIssue = true → w.wf = true → (s.me.slot.isSome && w.branchClass) = false →
  (privilegedWord w && s.me.level == .user) = false → s.me.pPending g.p = false → s.me.guard g = true → b.blocked s.me = true →
    ∃ t, exec w s = .next t ∧ t.me.pc = s.me.pc ∧ (∀ n, t.getS n = s.getS n ∧ t.me.sPending n = s.me.sPending n) ∧
      (∀ q, t.getP q = s.getP q) ∧ ∀ n, t.byte n = s.byte n

/-- R67, R68: a guarded word that is legal, in its place and privileged enough, whose guard has landed and is false, has no
effect: only the PC goes on. (SEL, BR and BRL read their guard as an operand; an engine word is guarded by a DEP.) R67, R85:
a word waits while a register that it reads or writes is pending; nothing of it happens, and no register, byte or PC changes:
words on registers and predicates, branches, loads, stores and atomics, and the words on tasks, channels and parcels. -/
def Obligations.WordsHeldBack : Prop :=
  (∀ (s : State) (g : Guard) (d a b : BitVec 5) (q x y : BitVec 3) (r : BitVec 10) (i : BitVec 9) (im : BitVec 12)
     (i11 : BitVec 11) (n : BitVec 6) (t2 : BitVec 2) (c : SCond) (sc : Scope) (k : FKind) (e : Eng) (sp : Space) (z : Size),
   ∀ w ∈ [Instr.add g d a b, .sub g d a b, .mul g d a b, .mulh g d a b, .mulhu g d a b, .div g d a b, .divu g d a b,
       .rem g d a b, .remu g d a b, .andS g d a b, .orS g d a b, .xorS g d a b, .andn g d a b, .shl g d a b, .shr g d a b,
       .sar g d a b, .rotr g d a b, .minS g d a b, .maxS g d a b, .minu g d a b, .maxu g d a b, .clz g d a, .ctz g d a,
       .popc g d a, .sextb g d a, .sexth g d a, .sextw g d a, .zextb g d a, .zexth g d a, .zextw g d a, .addi g d a im,
       .andi g d a im, .ori g d a im, .xori g d a im, .shli g d a n, .shri g d a n, .sari g d a n, .rotri g d a n,
       .cmp g q a b c, .cmpi g q c a i11, .pand g q x y, .por g q x y, .pxor g q x y, .pandn g q x y, .pnot g q x,
       .pmov g q x, .pset g q, .pbrr g t2 a, .nop g, .mfs g d r, .mts g d r, .trap g a, .rte g, .yield g, .tfence g, .drain g,
       .twait g d e, .cvta g d a sp, .isin g d a sp, .halt g, .rgnLoad g d a b, .rgnStat g d a, .rgnBind g d a b,
       .ldb g d a i, .ldh g d a i, .ldw g d a i, .ldd g d a i, .ldbu g d a i, .ldhu g d a i, .ldwu g d a i, .stb g d a i,
       .sth g d a i, .stw g d a i, .std g d a i, .ldaW g d a sc, .ldaD g d a sc, .strW g d a sc, .strD g d a sc,
       .fence g sc k, .sbar g a, .waitc g sc a b, .tspawn g d a b, .texit g, .exit g, .recv g d a, .send g d a b,
       .launch g d a, .bind g d a, .dqpush g d a, .dqpop g d, .dqsteal g d a, .dqlen g d, .pld g d a b z, .pst g d a b z,
       .pldr g d a b, .pstr g d a b, .pnew g d a, .pfree g a, .plen g d a, .pstat g d a, .pmap g d a, .punmap g a, .precv g d],
     s.canIssue = true → w.wf = true → (s.me.slot.isSome && w.branchClass) = false →
     (privilegedWord w && s.me.level == .user) = false → s.me.pPending g.p = false → s.me.guard g = false → GoesOn s w) ∧
  (∀ (s : State) (g : Guard) (d a b : BitVec 5) (q x y : BitVec 3) (r : BitVec 10) (i : BitVec 9) (im : BitVec 12)
     (i11 : BitVec 11) (i21 : BitVec 21) (n : BitVec 6) (t2 : BitVec 2) (c : SCond) (sc : Scope) (o : Order) (z : Wd) (sp : Space)
     (m : Size),
     (∀ w ∈ [Instr.add g d a b, .sub g d a b, .mul g d a b, .mulh g d a b, .mulhu g d a b, .div g d a b, .divu g d a b,
         .rem g d a b, .remu g d a b, .andS g d a b, .orS g d a b, .xorS g d a b, .andn g d a b, .shl g d a b, .shr g d a b,
         .sar g d a b, .rotr g d a b, .minS g d a b, .maxS g d a b, .minu g d a b, .maxu g d a b, .pld g d a b m, .pldr g d a b,
         .send g d a b, .rgnLoad g d a b, .rgnBind g d a b], Waits s w g { src := [a, b], dst := [d] }) ∧
     (∀ w ∈ [Instr.clz g d a, .ctz g d a, .popc g d a, .sextb g d a, .sexth g d a, .sextw g d a, .zextb g d a, .zexth g d a,
         .zextw g d a, .addi g d a im, .andi g d a im, .ori g d a im, .xori g d a im, .shli g d a n, .shri g d a n, .sari g d a n,
         .rotri g d a n, .cvta g d a sp, .isin g d a sp, .rgnStat g d a, .ldb g d a i, .ldh g d a i, .ldw g d a i, .ldd g d a i,
         .ldbu g d a i, .ldhu g d a i, .ldwu g d a i, .ldaW g d a sc, .ldaD g d a sc, .recv g d a, .launch g d a, .bind g d a,
         .dqpush g d a, .dqsteal g d a, .pnew g d a, .plen g d a, .pstat g d a, .pmap g d a],
       Waits s w g { src := [a], dst := [d] }) ∧
     (∀ w ∈ [Instr.stb g d a i, .sth g d a i, .stw g d a i, .std g d a i, .strW g d a sc, .strD g d a sc],
       Waits s w g { src := [a, d] }) ∧
     (∀ w ∈ [Instr.pst g d a b m, .pstr g d a b], Waits s w g { src := [a, b, d] }) ∧
     (∀ w ∈ [Instr.pbrr g t2 a, .mts g a r, .trap g a, .sbar g a, .pfree g a, .punmap g a], Waits s w g { src := [a] }) ∧
     (∀ w ∈ [Instr.mfs g d r, .dqpop g d, .dqlen g d, .precv g d], Waits s w g { dst := [d] }) ∧
     (∀ w ∈ [Instr.lih d i21, .apc d i21], Waits s w always { dst := [d] }) ∧
     (∀ w ∈ [Instr.amoAdd sc o d a b z, .amoAnd sc o d a b z, .amoOr sc o d a b z, .amoXor sc o d a b z, .amoMin sc o d a b z,
         .amoMax sc o d a b z, .amoMinu sc o d a b z, .amoMaxu sc o d a b z, .amoSwp sc o d a b z],
       Waits s w always { src := [a, b], dst := [d] }) ∧
     Waits s (.amoCas sc o d a b z) always { src := [a, b, d], dst := [d] } ∧
     Waits s (.waitc g sc a b) g { src := [a, b] } ∧ Waits s (.tspawn g d a b) g { src := [a, b, 7], dst := [d] } ∧
     Waits s (.sel g d a b) always { src := [if s.me.guard g then a else b], psrc := [g.p], dst := [d] } ∧
     Waits s (.cmp g q a b c) g { src := [a, b], pdst := [q] } ∧ Waits s (.cmpi g q c a i11) g { src := [a], pdst := [q] } ∧
     (∀ w ∈ [Instr.pand g q x y, .por g q x y, .pxor g q x y, .pandn g q x y], Waits s w g { psrc := [x, y], pdst := [q] }) ∧
     (∀ w ∈ [Instr.pnot g q x, .pmov g q x], Waits s w g { psrc := [x], pdst := [q] }) ∧
     Waits s (.pset g q) g { pdst := [q] } ∧ Waits s (.br g t2) always { psrc := [g.p] } ∧
     Waits s (.brl g t2) always { psrc := [g.p], dst := if s.me.guard g then [31] else [] })

/-! ### Branches -/

/-- R97, R98: PBR prepares a target relative to its own PC, PBRR one from a register; a register that is not a multiple of 4
traps MISALIGNED and leaves the target register as it was. R99: a branch reads its target and its guard at issue, goes on to
the first of its two delay slots whether or not it is taken, and BRL writes the address behind the slots to s31 only when
taken. R67, R99: the PC after a unit of words: outside delay slots behind the unit; behind the first slot of a branch the
second; behind the second the target of a taken branch, or the word behind the slots. -/
def Obligations.BranchesAndDelaySlots : Prop :=
  ((∀ (s : State) (t : BitVec 2) (i : BitVec 24), issues s (.pbr t i) always {} = true →
     ∃ u, exec (.pbr t i) s = .next u ∧
       TaskStep s u (fun x => { x with b := x.b.set t.toNat (s.me.pc + i.signExtend 64 * 4) t.isLt }) 1) ∧
   ∀ (s : State) (g : Guard) (t : BitVec 2) (a : BitVec 5), issues s (.pbrr g t a) g { src := [a] } = true →
     ((s.getS a).toNat % 4 = 0 → ∃ u, exec (.pbrr g t a) s = .next u ∧
       TaskStep s u (fun x => { x with b := x.b.set t.toNat (s.getS a) t.isLt }) 1) ∧
     ((s.getS a).toNat % 4 ≠ 0 → Traps s (.pbrr g t a) ⟨.misaligned, s.getS a, .read, 0⟩)) ∧
  (∀ (s : State) (g : Guard) (t : BitVec 2), let taken := s.me.guard g; let target := s.me.b[t.toNat]'t.isLt
     (issues s (.br g t) always { psrc := [g.p] } = true →
       ∃ u, exec (.br g t) s = .next u ∧ u.me.pc = s.me.pc + 4 ∧ u.me.slot = some ⟨1, taken, target⟩ ∧
         (∀ n, u.getS n = s.getS n) ∧ (∀ q, u.getP q = s.getP q) ∧ u.me.b = s.me.b ∧ { u with tiles := s.tiles } = s) ∧
     (issues s (.brl g t) always { psrc := [g.p], dst := if taken then [31] else [] } = true →
       ∃ u, exec (.brl g t) s = .next u ∧ u.me.pc = s.me.pc + 4 ∧ u.me.slot = some ⟨1, taken, target⟩ ∧
         u.getS 31 = (if taken then s.me.pc + 12 else s.getS 31) ∧ (∀ n, n ≠ 31 → u.getS n = s.getS n) ∧
         (∀ q, u.getP q = s.getP q) ∧ u.me.b = s.me.b ∧ { u with tiles := s.tiles } = s)) ∧
  (∀ t : Task,
     (∀ n, t.slot = none → (t.advance n).pc = t.pc + BitVec.ofNat 64 (4 * n) ∧ (t.advance n).slot = none) ∧
     (∀ k v, t.slot = some ⟨1, k, v⟩ → (t.advance 1).pc = t.pc + 4 ∧ (t.advance 1).slot = some ⟨2, k, v⟩) ∧
     (∀ k v, t.slot = some ⟨1, k, v⟩ → (t.advance 2).pc = (if k then v else t.pc + 8) ∧ (t.advance 2).slot = none) ∧
     ∀ k v, t.slot = some ⟨2, k, v⟩ → (t.advance 1).pc = (if k then v else t.pc + 4) ∧ (t.advance 1).slot = none)

/-! ### Traps, returns, privilege, special registers -/

/-- A trap of the issuing task is taken at once: no trap is held on the tile, none that comes first waits, and TVEC is set. -/
def Sys2Proof.Claims.Takes (s : State) : Prop := s.cur.trap.busy = false ∧ s.cur.mustWait s.task = false ∧ s.cur.trap.tvec ≠ 0

/-- `u` is `s` after the entry of the issuing task into the trap `i` with `tpc`, as R377 and R378 say. -/
structure Sys2Proof.Claims.Entered (s u : State) (i : TrapInfo) (tpc : Word) : Prop where
  pc : u.me.pc = s.cur.trap.tvec
  level : u.me.level = .supervisor
  slot : u.me.slot = none
  cause : u.cur.trap.tcause = i.cause.code
  addr : u.cur.trap.taddr = i.addr
  saved : u.cur.trap.tpc = tpc
  plev : u.cur.trap.plev = s.me.level
  busy : u.cur.trap.busy = true
  kind : u.cur.trap.kind = i.kind.code
  walk : u.cur.trap.level = BitVec.ofNat 4 i.level
  task : u.cur.trap.task.toNat = s.task
  src : u.cur.trap.src = 0
  tdsl : u.cur.trap.tdsl = (match s.me.slot with
    | none => 0
    | some d => BitVec.ofNat 3 (d.k + if d.taken then 4 else 0))
  tdtgt : u.cur.trap.tdtgt = (match s.me.slot with
    | none => s.cur.trap.tdtgt
    | some d => if d.taken then d.target else s.cur.trap.tdtgt)
  kept : u.cur.trap.sticky = s.cur.trap.sticky ∧ u.cur.trap.tvec = s.cur.trap.tvec ∧ u.cur.trap.scratch = s.cur.trap.scratch
  regs : (∀ n, u.getS n = s.getS n) ∧ (∀ q, u.getP q = s.getP q) ∧ u.me.b = s.me.b
  others : (∀ k, k ≠ s.tile → u.tileAt k = s.tileAt k) ∧ { u with tiles := s.tiles } = s
  bytes : ∀ a, u.byte a = s.byte a

/-- R106: TRAP raises SOFTWARE at its word, with S(a) in TADDR, 0 for s0, and the address of the next word in TPC; a TRAP
whose guard is false performs nothing; in a delay slot it traps DELAY_SLOT instead. -/
def Obligations.TrapWord : Prop :=
  ∀ (s : State) (g : Guard) (a : BitVec 5),
    (issues s (.trap g a) g { src := [a] } = true → Takes s →
      ∃ u, exec (.trap g a) s = .next u ∧ Entered s u ⟨.software, if a = 0 then 0 else s.me.sget a, .read, 0⟩ (s.me.pc + 4)) ∧
    (s.canIssue = true → g.wf = true → s.me.slot = none → s.me.pPending g.p = false → s.me.guard g = false →
      GoesOn s (.trap g a)) ∧
    (s.canIssue = true → g.wf = true → s.me.slot.isSome = true → Traps s (.trap g a) ⟨.delaySlot, 0, .read, 0⟩)

/-- R377, R378: an issue-time trap writes TCAUSE, TADDR, TPC, TDSL, TDTGT and every field of TSTAT but STICKY, raises the
task to SUPERVISOR and goes to TVEC; no register and no byte changes. R380, R381: an issue-time trap of the task that holds
BUSY is a double fault, which ends the context under code 4; one of another task waits, without any effect on its registers
or its PC. R377, R381, R382: a trap with TVEC 0 ends the context under code 5, and the consumption of poisoned data, by a
load or an atomic of the scalar stream or by an LDA, under code 6. -/
def Obligations.TakingATrap : Prop :=
  (∀ (s : State) (i : TrapInfo) (tpc : Word), Takes s → Entered s (s.issueTrap i tpc) i tpc) ∧
  (∀ (s : State) (i : TrapInfo) (tpc : Word), s.cur.trap.busy = true →
     (s.cur.trap.holder.toNat = s.task → s.issueTrap i tpc = s.fatal s.tile (s.cur.ctx.getD 0) 4) ∧
     (s.cur.trap.holder.toNat ≠ s.task → (s.issueTrap i tpc).me.pc = s.me.pc ∧ (s.issueTrap i tpc).me.level = s.me.level ∧
       (∀ n, (s.issueTrap i tpc).getS n = s.getS n) ∧ (s.issueTrap i tpc).cur.trap = s.cur.trap)) ∧
  ((∀ (s : State) (i : TrapInfo) (tpc : Word), s.cur.trap.busy = false → s.cur.mustWait s.task = false → s.cur.trap.tvec = 0 →
     s.issueTrap i tpc = s.noted.fatal s.tile (s.cur.ctx.getD 0) 5) ∧
   (∀ (s : State) (tile task : Nat) (x : Access) (r : List Access), ((s.tileAt tile).taskAt task).stream = x :: r →
     x.sent = false → (s.tileAt tile).barred x.bars = false → elsewhere tile x.loc = false →
     (s.admitAt tile x.loc x.op.size).isOk = true → s.poisoned x.loc x.op.size = true →
     ((∃ n sg, x.op = .load n sg) ∨ ∃ k w v e, x.op = .amo k w v e) →
     exec (.sequencerResultLanding tile task 0) s = .next (s.fatal tile ((s.tileAt tile).ctx.getD 0) 6)) ∧
   ∀ (s : State) (g : Guard) (d a : BitVec 5) (sc : Scope) (loc : Nat),
     ∀ p ∈ [(Instr.ldaW g d a sc, 4), (.ldaD g d a sc, 8)], issues s p.1 g { src := [a], dst := [d] } = true →
       s.resolve s.who (s.getS a) p.2 .read = .ok loc → s.me.stream = [] → s.cur.barred s.me.bars = false →
       elsewhere s.tile loc = false → s.me.asked ≠ .out → (s.admitAt s.tile loc p.2).isOk = true → s.poisoned loc p.2 = true →
       exec p.1 s = .next (s.fatal s.tile (s.cur.ctx.getD 0) 6))

/-- R105: TDSL holds TAKEN in bit 2 and SLOT in bits 1 to 0, all writable, with reset 0; the other bits read 0. A trap in a
delay slot leaves the number of the slot, 1 or 2, and whether the branch was taken; SLOT 0, and 3 alike, resume outside a
slot. A TDTGT that is no multiple of 4 resumes before the multiple below it (log 43, the model's choice). -/
def Obligations.DelaySlotRegister : Prop :=
  (∀ k, (State.reset.tileAt k).trap.tdsl = 0) ∧
  (∀ (s : State) (g : Guard) (a : BitVec 5), issues s (.mts g a 0x104) g { src := [a] } = true →
    ∃ t, exec (.mts g a 0x104) s = .next t ∧ t.sreg 0x104 = s.getS a &&& 7) ∧
  (∀ (s : State) (g : Guard) (d : BitVec 5), issues s (.mfs g d 0x104) g { dst := [d] } = true →
    Writes s (.mfs g d 0x104) d (s.cur.trap.tdsl.setWidth 64)) ∧
  (∀ (s : State) (i : TrapInfo) (tpc : Word), Takes s →
    (s.me.slot = none → (s.issueTrap i tpc).cur.trap.tdsl.toNat = 0) ∧
    ∀ d, s.me.slot = some d → (d.k = 1 ∨ d.k = 2) →
      (s.issueTrap i tpc).cur.trap.tdsl.toNat = d.k + if d.taken then 4 else 0) ∧
  ∀ (s : State) (g : Guard), issues s (.rte g) g {} = true → let r := s.cur.trap.tdsl
    ∃ u, exec (.rte g) s = .next u ∧
      ((r.toNat % 4 = 0 ∨ r.toNat % 4 = 3) → u.me.slot = none) ∧
      ((r.toNat % 4 = 1 ∨ r.toNat % 4 = 2) → u.me.slot = some ⟨r.toNat % 4, r.getLsbD 2, s.cur.trap.tdtgt &&& ~~~3⟩)

/-- R100, R379: RTE at SUPERVISOR goes to TPC at level PLEV with BUSY 0, in the delay slot that TDSL names, whether or not a
trap is held, and before the multiple of 4 below TDTGT (log 43, the model's choice where TDTGT is none); no register and no
byte changes. R377, R379, R100: a task that takes a trap and then returns is where it was: its PC, its level and its place in
the delay slots of a branch. -/
def Obligations.ReturnFromTrap : Prop :=
  (∀ (s : State) (g : Guard), issues s (.rte g) g {} = true →
     ∃ u, exec (.rte g) s = .next u ∧ u.me.pc = s.cur.trap.tpc ∧ u.me.level = s.cur.trap.plev ∧ u.cur.trap.busy = false ∧
       (s.cur.trap.tdsl.toNat % 4 = 0 → u.me.slot = none) ∧
       (∀ k, (k = 1 ∨ k = 2) → s.cur.trap.tdsl.toNat % 4 = k →
         u.me.slot = some ⟨k, s.cur.trap.tdsl.getLsbD 2, s.cur.trap.tdtgt &&& ~~~3⟩) ∧
       { u.cur.trap with busy := s.cur.trap.busy } = s.cur.trap ∧
       (∀ n, u.getS n = s.getS n) ∧ (∀ q, u.getP q = s.getP q) ∧ (∀ a, u.byte a = s.byte a) ∧
       (∀ k, k ≠ s.tile → u.tileAt k = s.tileAt k)) ∧
  (∀ (s : State) (i : TrapInfo), Takes s →
     (∀ d, s.me.slot = some d → (d.k = 1 ∨ d.k = 2) ∧ d.target.toNat % 4 = 0 ∧ (d.taken = false → d.target = s.cur.trap.tdtgt)) →
     let u := s.issueTrap i s.me.pc
     let v := u.updTile u.tile fun t => t.rte u.task
     v.me.pc = s.me.pc ∧ v.me.level = s.me.level ∧ v.me.slot = s.me.slot ∧ v.cur.trap.busy = false)

/-- R15, R81, R82, R103, R104, R159, R333, R376, R400: MFS reads the special register of its number, whatever the level may
read; LEASEQ, whose read takes from its queue, is apart. A DEADPEER bit reads 0 of the own package and 1 of one that is no
member. R82, R104, R376, R55: what a special register reads after an MTS of `v`: the fields that the register has, the others
0; a reserved code of RMODE changes nothing; the write of one register leaves every other trap register as it was. R57, R160,
R400: MTS of SRSEED once no word that draws is under way; MTS of VWIN that asks for a free window, or gives one back; MTS of
DEADPEER, which leaves the bits of the own package and of packages that are no members. R55, R57, R160, R395: the writes of
RMODE, SRSEED and VWIN and the read of LEASEQ that MTS and MFS make: RMODE takes a code below 6; SRSEED, when no word that
draws is under way, seeds the three generators from its value; VWIN gives a free window that is asked for, and takes one back
by 0 when no vector word of the task is queued; LEASEQ gives its oldest outcome. -/
def Obligations.SpecialRegisters : Prop :=
  (∀ (s : State) (g : Guard) (d : BitVec 5), let t := s.cur
   ∀ p ∈ [((0x000 : Nat), BitVec.ofNat 64 (s.task : Nat)), (0x001, BitVec.ofNat 64 s.tile), (0x004, s.pkg.setWidth 64),
       (0x011, t.stitch), (0x021, s.me.flags.setWidth 64), (0x022, s.me.fmask.setWidth 64), (0x023, s.me.rmode.setWidth 64),
       (0x024, t.seed), (0x040, t.trap.tvec), (0x041, t.trap.tcause.setWidth 64), (0x042, t.trap.taddr), (0x043, t.trap.tpc),
       (0x060, (s.ctxAt (t.ctx.getD 0)).badchunk), (0x100, t.trap.scratch[0]), (0x101, t.trap.scratch[1]),
       (0x102, t.trap.scratch[2]), (0x103, t.trap.scratch[3]), (0x104, t.trap.tdsl.setWidth 64), (0x105, t.trap.tdtgt),
       (0x002, BitVec.ofNat 64 (256 * (tileX s.tile / 2) + tileY s.tile / 2)), (0x003, BitVec.ofNat 64 (dieOf s.tile)),
       (0x005, BitVec.ofNat 64 (t.part.getD 0 % 64)), (0x006, BitVec.ofNat 64 (t.ctx.getD 0 % 256)),
       (0x010, BitVec.ofNat 64 ((t.node.map Prod.snd).getD 0 % 64)),
       (0x020, BitVec.ofNat 64 (s.clock - (s.blockAt (blockOf s.tile)).lost / 2)),
       (0x030, BitVec.ofNat 64 ((if t.win0 = some (s.task : Nat) then 1 else if t.win1 = some (s.task : Nat) then 2 else 0) +
         (if t.win0 = none then 16 else 0) + if t.win1 = none then 32 else 0)),
       (0x044, BitVec.ofNat 64 (t.trap.sticky.toNat * 2 ^ 48 + t.trap.kind.toNat * 2 ^ 12 + t.trap.level.toNat * 2 ^ 8 +
         t.trap.task.toNat * 64 + t.trap.src.toNat * 8 + (if t.trap.plev = .supervisor then 4 else 0) +
         if t.trap.busy then 2 else 0)),
       (0x070, BitVec.ofNat 64 (96 * 2 ^ 48 + s.phase % 2 ^ 24 * 2 ^ 24 + 64 * s.power.fact % 2 ^ 24))],
     (issues s (.mfs g d (BitVec.ofNat 10 p.1)) g { dst := [d] } = true → Writes s (.mfs g d (BitVec.ofNat 10 p.1)) d p.2) ∧
     ∀ n, n < 4 → issues s (.mfs g d (BitVec.ofNat 10 (0x050 + n))) g { dst := [d] } = true →
       ∃ v : Word, Writes s (.mfs g d (BitVec.ofNat 10 (0x050 + n))) d v ∧ ∀ i, i < 64 → v.getLsbD i =
         (decide (64 * n + i ≠ s.pkg.toNat) &&
           (!s.pod.members.contains (64 * n + i) || (s.ctxAt (t.ctx.getD 0)).dead.getLsbD (64 * n + i)))) ∧
  (∀ (s : State) (g : Guard) (a : BitVec 5), let v := s.getS a
   ∀ p ∈ [((0x021 : Nat), v &&& 0xFF), (0x022, v &&& 0xFF), (0x023, if v.toNat % 8 < 6 then v &&& 7 else s.me.rmode.setWidth 64),
       (0x040, v &&& ~~~3), (0x041, v &&& 0x3F), (0x042, v), (0x043, v &&& ~~~3),
       (0x044, v &&& 0x00FF000000003FFC ||| (if s.cur.trap.busy then 2 else 0)), (0x060, v &&& ~~~63), (0x100, v), (0x101, v),
       (0x102, v), (0x103, v), (0x104, v &&& 7), (0x105, v)],
     issues s (.mts g a (BitVec.ofNat 10 p.1)) g { src := [a] } = true →
     ∃ t, exec (.mts g a (BitVec.ofNat 10 p.1)) s = .next t ∧ t.sreg p.1 = p.2 ∧
       (∀ n ∈ [0x040, 0x041, 0x042, 0x043, 0x044, 0x100, 0x101, 0x102, 0x103, 0x104, 0x105], n ≠ p.1 → t.sreg n = s.sreg n) ∧
       (∀ n, t.getS n = s.getS n) ∧ (∀ q, t.getP q = s.getP q) ∧ ∀ x, t.byte x = s.byte x) ∧
  (∀ (s : State) (g : Guard) (a : BitVec 5), let v := s.getS a
     (issues s (.mts g a 0x024) g { src := [a] } = true → (s.cur.words.any (·.draws)) = false →
       (s.cur.rows.any (·.draws)) = false → ∃ t, exec (.mts g a 0x024) s = .next t ∧ t.sreg 0x024 = v ∧
         t.cur.gv = seedGen v genV ∧ t.cur.gm = seedGen v genM ∧ t.cur.gc = seedGen v genC ∧
         (∀ n, t.getS n = s.getS n) ∧ { t with tiles := s.tiles } = s) ∧
     (issues s (.mts g a 0x030) g { src := [a] } = true →
       (s.cur.winOf s.task = 0 → (v.toNat % 4 = 1 ∨ v.toNat % 4 = 3) → s.cur.win0 = none →
         ∃ t, exec (.mts g a 0x030) s = .next t ∧ t.cur.win0 = some (s.task : Nat) ∧ t.cur.win1 = s.cur.win1) ∧
       (s.cur.winOf s.task = 0 → (v.toNat % 4 = 2 ∨ v.toNat % 4 = 3 ∧ s.cur.win0 ≠ none) → s.cur.win1 = none →
         ∃ t, exec (.mts g a 0x030) s = .next t ∧ t.cur.win1 = some (s.task : Nat) ∧ t.cur.win0 = s.cur.win0) ∧
       (s.cur.winOf s.task ≠ 0 → v.toNat % 4 = 0 → (∀ e ∈ s.cur.vq, e.task ≠ s.task) →
         ∃ t, exec (.mts g a 0x030) s = .next t ∧ t.cur.winOf s.task = 0)) ∧
     ∀ n, n < 4 → issues s (.mts g a (BitVec.ofNat 10 (0x050 + n))) g { src := [a] } = true → s.pkts = [] → s.transits = [] →
       let c := s.cur.ctx.getD 0
       ∃ t, exec (.mts g a (BitVec.ofNat 10 (0x050 + n))) s = .next t ∧ (∀ r, t.getS r = s.getS r) ∧
         ∀ p, p < 256 → (t.ctxAt c).dead.getLsbD p =
           if p / 64 = n ∧ p ≠ s.pkg.toNat ∧ p ∈ s.pod.members then v.getLsbD (p % 64) else (s.ctxAt c).dead.getLsbD p) ∧
  ((∀ (s : State) (v : Word), v.toNat % 8 < 6 →
     ∃ t, exec (.rmodeWrite v) s = .next t ∧ t.me = { s.me with rmode := BitVec.ofNat 3 v.toNat }) ∧
   (∀ (s : State) (v : Word), (s.cur.words.any (·.draws)) = false → (s.cur.rows.any (·.draws)) = false →
     ∃ t, exec (.srseedWrite v) s = .next t ∧
       t.cur = { s.cur with seed := v, gv := seedGen v genV, gm := seedGen v genM, gc := seedGen v genC }) ∧
   (∀ s : State, s.cur.winOf s.task = 0 → s.cur.win0 = none →
     ∃ t, exec (.vwinWrite 1) s = .next t ∧ t.cur = { s.cur with win0 := some (s.task : Nat) }) ∧
   (∀ s : State, s.cur.winOf s.task = 0 → s.cur.win1 = none →
     ∃ t, exec (.vwinWrite 2) s = .next t ∧ t.cur = { s.cur with win1 := some (s.task : Nat) }) ∧
   (∀ s : State, s.cur.winOf s.task ≠ 0 → (∀ e ∈ s.cur.vq, e.task ≠ s.task) →
     ∃ t, exec (.vwinWrite 0) s = .next t ∧ t.cur.winOf s.task = 0) ∧
   ∀ (s : State) (d : BitVec 5) (w : Word) (r : List Word), (s.ctxAt (s.cur.ctx.getD 0)).leaseq = w :: r →
     ∃ t, exec (.leaseqRead d) s = .next t ∧ (t.ctxAt (s.cur.ctx.getD 0)).leaseq = r ∧
       (d ≠ 0 → (t.getS d).getLsbD 63 = true ∧ t.getS d &&& 0x3FFFFFFFFFFFFFFF = w &&& 0x3FFFFFFFFFFFFFFF))

/-- R102: NOP is the word 0x3C000000 when it is not guarded; it performs nothing, and a guarded NOP performs nothing either:
once its guard has landed, whether true or false, only the PC goes on; until then it waits. -/
def Obligations.NopPerformsNothing : Prop :=
  encode (.nop ⟨false, 0⟩) = 0x3C000000 ∧ decode 0x3C000000 = some (.nop ⟨false, 0⟩) ∧
  ∀ (s : State) (g : Guard), s.canIssue = true → g.wf = true →
    (s.me.pPending g.p = false → GoesOn s (.nop g)) ∧
    (s.me.pPending g.p = true → ∃ t, exec (.nop g) s = .next t ∧ t.me.pc = s.me.pc ∧ (∀ n, t.getS n = s.getS n) ∧
      (∀ q, t.getP q = s.getP q) ∧ ∀ a, t.byte a = s.byte a)

/-- R67, R77: a privileged word at USER traps PRIVILEGED before its guard is read, with TADDR 0 and TPC its own address. R67,
R76: BR, BRL, TRAP, RTE, EXIT, TEXIT and HALT in a delay slot trap DELAY_SLOT. R109, R111: TFENCE with a masked flag raised
traps ARITH with the raised flags in TADDR; a TWAIT further back than the task has pushed traps TOKEN_RANGE. -/
def Obligations.IssueTimeTraps : Prop :=
  (∀ (s : State) (g : Guard) (d a b : BitVec 5) (n : BitVec 10),
   ∀ w ∈ [Instr.rgnLoad g d a b, .rgnStat g d a, .rgnBind g d a b, .rte g, .halt g, .mfs g d n, .mts g d n],
     (match w with
       | .mfs _ _ _ => n.toNat ∈ [0x040, 0x041, 0x042, 0x043, 0x044, 0x100, 0x101, 0x102, 0x103, 0x104, 0x105]
       | .mts _ _ _ => n.toNat ∈ [0x040, 0x041, 0x042, 0x043, 0x044, 0x050, 0x051, 0x052, 0x053, 0x060, 0x100, 0x101, 0x102,
           0x103, 0x104, 0x105]
       | _ => True) →
     s.canIssue = true → w.wf = true → s.me.level = .user → s.me.slot = none → Traps s w ⟨.privileged, 0, .read, 0⟩) ∧
  (∀ (s : State) (g : Guard) (t : BitVec 2) (a : BitVec 5),
   ∀ w ∈ [Instr.br g t, .brl g t, .trap g a, .rte g, .exit g, .texit g, .halt g],
     s.canIssue = true → w.wf = true → s.me.slot.isSome = true → Traps s w ⟨.delaySlot, 0, .read, 0⟩) ∧
  (∀ (s : State) (g : Guard) (d : BitVec 5) (e : Eng),
     (issues s (.tfence g) g {} = true → s.me.waiting = [] → s.me.flags &&& s.me.fmask ≠ 0 →
       Traps s (.tfence g) ⟨.arith, (s.me.flags &&& s.me.fmask).setWidth 64, .read, 0⟩) ∧
     (issues s (.twait g d e) g {} = true → s.me.pushes e < d.toNat → Traps s (.twait g d e) ⟨.tokenRange, 0, .read, 0⟩))

/-! ### A task's own accesses -/

/-- An access joins the scalar stream of the task, with its destination pending. -/
def Sys2Proof.Claims.Joins (s : State) (w : Instr) (op : MemOp) (loc : Nat) (d : BitVec 5) : Prop :=
  ∃ t, exec w s = .next t ∧ TaskStep s t (fun k =>
    { k.smark d with
      stream := k.stream ++ [{ op := op, loc := loc, dst := d, bars := s.cur.liveBars k.bars,
                               era := (s.ctxAt (s.cur.ctx.getD 0)).era }]
      bars := s.cur.liveBars k.bars }) 1

/-- An access of n bytes that the issuing task makes at once may perform in its own step: every earlier access of the task has
performed and no barrier of SBAR holds, the location is not another tile's SRAM, the bucket or the pool of its slice port pays
for it, no byte is poisoned, and no answer is awaited. -/
def Sys2Proof.Claims.AtOnce (s : State) (loc n : Nat) : Prop :=
  s.me.stream = [] ∧ s.cur.barred s.me.bars = false ∧ elsewhere s.tile loc = false ∧
    (s.admitAt s.tile loc n).isOk = true ∧ s.poisoned loc n = false ∧ s.me.asked ≠ .out

/-- From `s` to `t` the issuing task has gone on by one word; no register but s[d], no byte, no other tile and nothing outside
the tiles has changed, but for what a bucket or a pool paid (R282). -/
structure Sys2Proof.Claims.Read (s t : State) (d : BitVec 5) : Prop where
  pc : t.me.pc = (s.me.advance 1).pc
  regs : (∀ n, n ≠ d → t.getS n = s.getS n) ∧ ∀ q, t.getP q = s.getP q
  bytes : ∀ a, t.byte a = s.byte a
  others : ∀ u, u ≠ s.tile → t.tileAt u = s.tileAt u
  rest : { t with tiles := s.tiles, ctxs := s.ctxs, parts := s.parts } = s

/-- R120, R121, R124: a load of n bytes at S(a) + SExt(imm9) · n whose checks pass joins the scalar stream with its
destination pending; it is extended by sign or by zero as its name says. R120, R121, R123, R125: a store whose checks pass
joins the scalar stream with the low n bytes of its register; a 64-bit value that is an address of the PARCEL aperture traps
PARCEL_ESCAPE and is not stored. R120, R119: an access whose checks fail traps with their cause, and nothing of it happens.
-/
def Obligations.LoadsAndStores : Prop :=
  (∀ (s : State) (g : Guard) (d a : BitVec 5) (i : BitVec 9) (loc : Nat),
   ∀ p ∈ [(Instr.ldb g d a i, 1, true), (.ldh g d a i, 2, true), (.ldw g d a i, 4, true), (.ldd g d a i, 8, false),
       (.ldbu g d a i, 1, false), (.ldhu g d a i, 2, false), (.ldwu g d a i, 4, false)],
     issues s p.1 g { src := [a], dst := [d] } = true →
     s.resolve s.who (s.getS a + i.signExtend 64 * BitVec.ofNat 64 p.2.1) p.2.1 .read = .ok loc →
     Joins s p.1 (.load p.2.1 p.2.2) loc d) ∧
  (∀ (s : State) (g : Guard) (d a : BitVec 5) (i : BitVec 9) (loc : Nat),
   ∀ p ∈ [(Instr.stb g d a i, 1), (.sth g d a i, 2), (.stw g d a i, 4), (.std g d a i, 8)],
     issues s p.1 g { src := [a, d] } = true →
     let ea := s.getS a + i.signExtend 64 * BitVec.ofNat 64 p.2
     s.resolve s.who ea p.2 .write = .ok loc →
     (p.2 ≠ 8 ∨ escapes (s.getS d) = false → Joins s p.1 (.store (bytesOf p.2 (s.getS d).toNat)) loc 0) ∧
     (p.2 = 8 → escapes (s.getS d) = true → Traps s p.1 ⟨.parcelEscape, ea, .write, 0⟩)) ∧
  (∀ (s : State) (g : Guard) (d a : BitVec 5) (i : BitVec 9) (x : TrapInfo),
     (∀ p ∈ [(Instr.ldb g d a i, 1), (.ldh g d a i, 2), (.ldw g d a i, 4), (.ldd g d a i, 8), (.ldbu g d a i, 1),
         (.ldhu g d a i, 2), (.ldwu g d a i, 4)],
       issues s p.1 g { src := [a], dst := [d] } = true →
       s.resolve s.who (s.getS a + i.signExtend 64 * BitVec.ofNat 64 p.2) p.2 .read = .error (.trap x) → Traps s p.1 x) ∧
     ∀ p ∈ [(Instr.stb g d a i, 1), (.sth g d a i, 2), (.stw g d a i, 4), (.std g d a i, 8)],
       issues s p.1 g { src := [a, d] } = true →
       s.resolve s.who (s.getS a + i.signExtend 64 * BitVec.ofNat 64 p.2) p.2 .write = .error (.trap x) → Traps s p.1 x)

/-- R121, R124, R125, R382: the oldest access of a scalar stream, at a location of its own tile or in no SRAM, held by no
barrier and paid for at its slice port, performs: a store's bytes are written and no other byte changes; a load's register
receives the value read, extended, and is no longer pending, and no byte changes. R127, R271: LDA, with every earlier access
of its task performed, has its value when it goes on; from the SRAM of another tile, its request leaves and its task waits at
the word; STR joins the scalar stream. -/
def Obligations.AccessesPerform : Prop :=
  (∀ (s : State) (tile task : Nat) (x : Access) (r : List Access), ((s.tileAt tile).taskAt task).stream = x :: r →
     x.sent = false → (s.tileAt tile).barred x.bars = false → elsewhere tile x.loc = false →
     (s.admitAt tile x.loc x.op.size).isOk = true →
     (∀ bs, x.op = .store bs → ∃ t, exec (.sequencerResultLanding tile task 0) s = .next t ∧
       (∀ k (h : k < bs.length), t.byte (x.loc + k) = bs[k]) ∧
       (∀ a, a < x.loc ∨ x.loc + bs.length ≤ a → t.byte a = s.byte a) ∧
       (t.tileAt tile).taskAt task = { (s.tileAt tile).taskAt task with stream := r } ∧
       ∀ u, u ≠ tile → t.tileAt u = s.tileAt u) ∧
     ∀ n sg, x.op = .load n sg → s.poisoned x.loc n = false → ∃ t, exec (.sequencerResultLanding tile task 0) s = .next t ∧
       (t.tileAt tile).taskAt task =
         ({ (s.tileAt tile).taskAt task with stream := r } : Task).sset x.dst (extend n sg (s.readNat x.loc n)) ∧
       (∀ a, t.byte a = s.byte a) ∧ ∀ u, u ≠ tile → t.tileAt u = s.tileAt u) ∧
  (∀ (s : State) (g : Guard) (d a : BitVec 5) (sc : Scope) (loc : Nat),
     (∀ p ∈ [(Instr.ldaW g d a sc, 4), (.ldaD g d a sc, 8)], issues s p.1 g { src := [a], dst := [d] } = true →
       s.resolve s.who (s.getS a) p.2 .read = .ok loc →
       (AtOnce s loc p.2 → ∃ t, exec p.1 s = .next t ∧ Read s t d ∧
         t.getS d = if d = 0 then 0 else BitVec.ofInt 64 (sext (s.readNat loc p.2) (8 * p.2))) ∧
       (s.me.stream = [] → s.cur.barred s.me.bars = false → elsewhere s.tile loc = true → s.me.asked = .no →
         s.bufferFree s.tile = true →
         ∃ t, exec p.1 s = .next t ∧ t.pkts = s.pkts ++ [.req s.tile s.task (.load p.2 true) loc (.held d) (portOf loc) [] []] ∧
           t.me = { s.me with asked := .out } ∧ ∀ x, t.byte x = s.byte x)) ∧
     ∀ p ∈ [(Instr.strW g d a sc, 4), (.strD g d a sc, 8)], issues s p.1 g { src := [a, d] } = true →
       s.resolve s.who (s.getS a) p.2 .write = .ok loc → (p.2 ≠ 8 ∨ escapes (s.getS d) = false) →
       Joins s p.1 (.store (bytesOf p.2 (s.getS d).toNat)) loc 0)

/-- The value that an AMO leaves at its location, from the old value, its operand and what it expects (R130). -/
def Sys2Proof.Claims.amoNew (w : Instr) (n old v expect : Nat) : Nat :=
  match w with
  | .amoAdd .. => (old + v) % 2 ^ (8 * n)
  | .amoAnd .. => old &&& v
  | .amoOr .. => old ||| v
  | .amoXor .. => old ^^^ v
  | .amoMin .. => if sext old (8 * n) ≤ sext v (8 * n) then old else v
  | .amoMax .. => if sext old (8 * n) ≤ sext v (8 * n) then v else old
  | .amoMinu .. => min old v
  | .amoMaxu .. => max old v
  | .amoCas .. => if old = expect then v else old
  | _ => v

/-- R129-R131: an AMO that holds its task (64 bits wide, or with acquire order), at a location of its own tile or in no SRAM,
leaves the new value of R130 at its location, the old value sign-extended in s[d], and every other byte as it was. R131: a
32-bit AMO without acquire order, CAS with the value it expects among them, joins the scalar stream and its task goes on. -/
def Obligations.Atomics : Prop :=
  (∀ (s : State) (sc : Scope) (o : Order) (d a b : BitVec 5) (z : Wd) (loc : Nat),
   let n := wdBytes z
   ∀ w ∈ [Instr.amoAdd sc o d a b z, .amoAnd sc o d a b z, .amoOr sc o d a b z, .amoXor sc o d a b z, .amoMin sc o d a b z,
       .amoMax sc o d a b z, .amoMinu sc o d a b z, .amoMaxu sc o d a b z, .amoSwp sc o d a b z, .amoCas sc o d a b z],
     let cas := match w with
       | .amoCas .. => true
       | _ => false
     issues s w always { src := if cas then [a, b, d] else [a, b], dst := [d] } = true →
     s.resolve s.who (s.getS a) n .amo = .ok loc → AtOnce s loc n →
     (z = .d64 ∨ o = .acquire ∨ o = .acqRel) →
     let new := amoNew w n (s.readNat loc n) ((s.getS b).toNat % 2 ^ (8 * n)) ((s.getS d).toNat % 2 ^ (8 * n))
     (z = .d64 → escapes (if cas then s.getS b else BitVec.ofNat 64 new) = false) →
     ∃ t, exec w s = .next t ∧ t.readNat loc n = new ∧
       t.getS d = (if d = 0 then 0 else BitVec.ofInt 64 (sext (s.readNat loc n) (8 * n))) ∧
       (∀ r, r ≠ d → t.getS r = s.getS r) ∧ (∀ x, x < loc ∨ loc + n ≤ x → t.byte x = s.byte x) ∧
       t.me.pc = (s.me.advance 1).pc) ∧
  (∀ (s : State) (sc : Scope) (o : Order) (d a b : BitVec 5) (loc : Nat), (o = .relaxed ∨ o = .release) →
     s.me.asked ≠ .out → s.resolve s.who (s.getS a) 4 .amo = .ok loc →
   (issues s (.amoCas sc o d a b .w32) always { src := [a, b, d], dst := [d] } = true →
     Joins s (.amoCas sc o d a b .w32) (.amo 9 .w32 (s.getS b) (s.getS d)) loc d) ∧
   ∀ p ∈ [(Instr.amoAdd sc o d a b .w32, 0), (.amoAnd sc o d a b .w32, 1), (.amoOr sc o d a b .w32, 2),
       (.amoXor sc o d a b .w32, 3), (.amoMin sc o d a b .w32, 4), (.amoMax sc o d a b .w32, 5), (.amoMinu sc o d a b .w32, 6),
       (.amoMaxu sc o d a b .w32, 7), (.amoSwp sc o d a b .w32, 8)],
     issues s p.1 always { src := [a, b], dst := [d] } = true → Joins s p.1 (.amo p.2 .w32 (s.getS b) 0) loc d)

/-- R108-R111, R133: TFENCE, DRAIN, TWAIT and FENCE when what they wait for is there; and YIELD, which steps back behind the
tasks that are ready: each goes on to the next word. R113: HALT on a tile in which nothing is in flight leaves the walker's
set of the partition and stops the tile's fetch. R134, R135, R317: SBAR notes the words in the C queue that use a selected
stream; WAITC on a counter that has reached its target goes on, else the task sleeps on it; every write to the counter is
noted, whether or not it changes its value, and the notice wakes every task that sleeps on it (the notices of writes that
follow one another may come as one: log 34). A word at a queue head that makes an access, pushed behind a barrier of SBAR
that still holds, waits there and nothing happens. -/
def Obligations.OrderingWords : Prop :=
  (∀ (s : State) (g : Guard) (d : BitVec 5) (e : Eng) (sc : Scope) (k : FKind),
     (issues s (.tfence g) g {} = true → s.me.waiting = [] → s.me.flags &&& s.me.fmask = 0 → GoesOn s (.tfence g)) ∧
     (issues s (.drain g) g {} = true → s.myWords = [] → s.me.waiting = [] → GoesOn s (.drain g)) ∧
     (issues s (.twait g d e) g {} = true → d.toNat ≤ s.me.pushes e → (⟨e, s.me.pushes e - d.toNat⟩ : Tok) ∉ s.me.waiting →
       GoesOn s (.twait g d e)) ∧
     (issues s (.fence g sc k) g {} = true → s.me.stream = [] ∨ (k = .acq ∧ ∀ a ∈ s.me.stream, a.op.reads = false) →
       GoesOn s (.fence g sc k)) ∧
     (issues s (.yield g) g {} = true → ∃ t, exec (.yield g) s = .next t ∧ t.me.pc = (s.me.advance 1).pc ∧
       t.me.yielding = s.cur.readyOthers s.task ∧ (∀ n, t.getS n = s.getS n) ∧ { t with tiles := s.tiles } = s)) ∧
  (∀ (s : State) (g : Guard), issues s (.halt g) g {} = true → s.cur.quiet = true →
     ∃ t, exec (.halt g) s = .next t ∧ t.cur = { s.cur with halted := true, halting := none } ∧
       s.tile ∈ (t.partAt (s.cur.part.getD 0)).out ∧ t.canIssue = false ∧ ∀ k, k ≠ s.tile → t.tileAt k = s.tileAt k) ∧
  ((∀ (s : State) (g : Guard) (a : BitVec 5), issues s (.sbar g a) g { src := [a] } = true →
     ∃ t, exec (.sbar g a) s = .next t ∧ t.me.pc = (s.me.advance 1).pc ∧ (∀ n, t.getS n = s.getS n) ∧
       ∀ u, u ∈ t.me.bars ↔ u ∈ s.cur.liveBars s.me.bars ∨
         ∃ e ∈ s.cur.cq, e.uid = u ∧ usesStream e.word ((s.getS a).toNat % 256) = true) ∧
   (∀ (s : State) (g : Guard) (sc : Scope) (a b : BitVec 5) (loc : Nat),
     issues s (.waitc g sc a b) g { src := [a, b] } = true → s.resolve s.who (s.getS a) 8 .read = .ok loc →
     spaceOf (s.getS a) ≠ 0x803 → spaceOf (s.getS a) ≠ 0x804 → AtOnce s loc 8 →
     ((s.getS b).toNat ≤ s.readNat loc 8 → ∃ t, exec (.waitc g sc a b) s = .next t ∧ Read s t 0) ∧
     (s.readNat loc 8 < (s.getS b).toNat → ∃ t, exec (.waitc g sc a b) s = .next t ∧ t.me.sleep = some loc ∧
       t.me.seen = s.readNat loc 8 ∧ (∃ b, (loc, b) ∈ t.watch) ∧ t.me.pc = s.me.pc ∧ ∀ n, t.getS n = s.getS n)) ∧
   (∀ (s : State) (loc x : Nat) (bs : List Byte) (bad b : Bool), (x, b) ∈ s.watch →
     (x, b || (decide (loc < x + 8) && decide (x < loc + bs.length))) ∈ (s.store loc bs bad).watch) ∧
   (∀ (s : State) (loc tile : Nat) (k : Fin 4), ∃ t, exec (.waitcWake loc) s = .next t ∧
     let x := (s.tileAt tile).tasks[k]
     ((t.tileAt tile).tasks[k]).sleep = if x.sleep = some loc ∧ (loc, true) ∈ s.watch then none else x.sleep) ∧
   ∀ (s : State) (tile n : Nat) (e : Eng) (x : Entry) (r : List Entry), s.running tile = true → (s.tileAt tile).queue e = x :: r →
     x.faulted = false → x.held = false → x.deps = [] → x.guard = always → (s.tileAt tile).behindBar x = true →
     exec (.engineQueueHeadIssue tile e n) s = .next s)

/-- R119, R153, R269, R304, R332: the checks of an access in their order: alignment before everything; a GLOBAL address is
translated; then the aperture of a LOCAL, BLOCK, CLUSTER, WEIGHT or PARCEL address: a store to WEIGHT traps
WEIGHT_STORE_WRITE, an access that leaves the parcel of an open window PARCEL_ESCAPE; a space that is not assigned traps
APERTURE_MISS. No byte of an access to WEIGHT lies beyond the share (one that only begins in it misses: log 81, the model's
choice), and an access to a parcel that reaches into another page needs that page as well (log 82). R367-R370: the walk: an
entry without V is not present; reserved bits, or a leaf at a level that has none, are reserved; entries that point to the
next table and a leaf give the page of that leaf, of 4 KiB, of 2 MiB, or of 64 KiB where the 16 entries of its group agree,
and of a CONTIG leaf whose group does not, the reserved fault; the permission of a leaf; and a translation is the page that
is found, where it permits the access. -/
def Obligations.AddressesTranslate : Prop :=
  (∀ (s : State) (w : Who) (a : Word) (n : Nat) (k : AccKind), let o := a.toNat % 2 ^ 52
     let trap := fun (c : Cause) => (Except.error (.trap ⟨c, a, k, 0⟩) : Res Nat)
     (a.toNat % n ≠ 0 → s.resolve w a n k = trap .misaligned) ∧
     (a.toNat % n = 0 →
       (a.toNat / 2 ^ 52 = 0x800 → s.resolve w a n k =
         if o < Config.sramBytes then .ok (sramLoc w.tile o) else trap .apertureMiss) ∧
       (a.toNat / 2 ^ 52 = 0x801 → s.resolve w a n k =
         if o < 2 ^ 24 ∧ o % 2 ^ 22 < Config.sramBytes then .ok (sramLoc (tileInBlock (blockOf w.tile) (o / 2 ^ 22)) (o % 2 ^ 22))
         else trap .apertureMiss) ∧
       (canonical a = true → s.resolve w a n k = s.translate w.ctx a k w.level (dieOf w.tile)) ∧
       (a.toNat / 2 ^ 52 = 0x802 → s.resolve w a n k =
         if o < 2 ^ 38 ∧ o % 2 ^ 22 < Config.sramBytes ∧ s.inPart w.part (tileKey (o / 2 ^ 22 % 256) (o / 2 ^ 30)) = true then
           .ok (sramLoc (tileKey (o / 2 ^ 22 % 256) (o / 2 ^ 30)) (o % 2 ^ 22))
         else trap .apertureMiss) ∧
       (a.toNat / 2 ^ 52 = 0x803 → (k = .read ∨ k = .exec) → let sh := (s.partAt w.part).shares.get {} (dieOf w.tile)
         s.resolve w a n k = if o + n ≤ sh.size then .ok (weightLoc (dieOf w.tile) (sh.base + o)) else trap .apertureMiss) ∧
       (∀ x, a.toNat / 2 ^ 52 = 0x804 → o < 2 ^ 32 → (s.tileAt w.tile).windows.find (o / 2 ^ 28) = some x → s.resolve w a n k =
         if x.len < o % 2 ^ 28 + n then trap .parcelEscape
         else s.translateSpan w.ctx (x.base + BitVec.ofNat 64 (o % 2 ^ 28)) n k w.level (dieOf w.tile)) ∧
       (∀ (va : Word) (pa : Nat), s.translateSpan w.ctx va n k w.level (dieOf w.tile) = .ok pa →
         s.translate w.ctx va k w.level (dieOf w.tile) = .ok pa ∧ let m := 4096 - va.toNat % 4096
         (m < n → s.translate w.ctx (va + BitVec.ofNat 64 m) k w.level (dieOf w.tile) = .ok (pa + m))) ∧
       (∀ va : Word, n ≤ 4096 - va.toNat % 4096 →
         s.translateSpan w.ctx va n k w.level (dieOf w.tile) = s.translate w.ctx va k w.level (dieOf w.tile)) ∧
       (a.toNat / 2 ^ 52 = 0x803 → (k = .write ∨ k = .amo) →
         s.resolve w a n k = trap (if o + n ≤ ((s.partAt w.part).shares.get {} (dieOf w.tile)).size then .weightStoreWrite
           else .apertureMiss)) ∧
       (a.toNat / 2 ^ 52 = 0x804 → (s.tileAt w.tile).windows.find (o / 2 ^ 28) = none → s.resolve w a n k = trap .apertureMiss) ∧
       (0x805 ≤ a.toNat / 2 ^ 52 → a.toNat / 2 ^ 52 < 0xFF0 → s.resolve w a n k = trap .apertureMiss))) ∧
  ((∀ (s : State) (va : Word) (k : AccKind) (t n e : Nat), s.pte (t + 8 * bits va.toNat (12 + 9 * n) 9) = .ok e →
     (e % 2 = 0 → s.walkFrom va k (n + 1) t = .error (.trap ⟨.pageNotPresent, va, k, n + 1⟩)) ∧
     (e % 2 = 1 → e / 2 ^ 52 % 2 ^ 12 ≠ 0 ∨ e / 2 ^ 7 % 2 ^ 5 ≠ 0 →
       s.walkFrom va k (n + 1) t = .error (.trap ⟨.pageReservedBit, va, k, n + 1⟩)) ∧
     (e % 2 = 1 → e / 2 ^ 52 % 2 ^ 12 = 0 → e / 2 ^ 7 % 2 ^ 5 = 0 → e / 2 % 2 ^ 6 = 0 → 1 ≤ n →
       s.walkFrom va k (n + 1) t = s.walkFrom va k n (e / 2 ^ 12 % 2 ^ 40 * 4096)) ∧
     (e % 2 = 1 → e / 2 ^ 52 % 2 ^ 12 = 0 → e / 2 ^ 7 % 2 ^ 5 = 0 → e / 2 ^ 4 % 4 = 1 → n = 0 →
       s.walkFrom va k (n + 1) t = .ok (⟨4096, e / 2 ^ 12 % 2 ^ 40 * 4096, e % 2 ^ 7⟩, 1)) ∧
     (e % 2 = 1 → e / 2 ^ 52 % 2 ^ 12 = 0 → e / 2 ^ 7 % 2 ^ 5 = 0 → e / 2 ^ 4 % 2 = 1 → n = 1 →
       s.walkFrom va k (n + 1) t = if e / 2 ^ 5 % 2 = 0 ∧ e / 2 ^ 12 % 2 ^ 9 = 0 then
         .ok (⟨2 ^ 21, e / 2 ^ 21 % 2 ^ 31 * 2 ^ 21, e % 2 ^ 7⟩, 2) else .error (.trap ⟨.pageReservedBit, va, k, 2⟩)) ∧
     (e % 2 = 1 → e / 2 ^ 52 % 2 ^ 12 = 0 → e / 2 ^ 7 % 2 ^ 5 = 0 → e / 2 ^ 4 % 2 = 1 → 2 ≤ n →
       s.walkFrom va k (n + 1) t = .error (.trap ⟨.pageReservedBit, va, k, n + 1⟩)) ∧
     ∀ f : Nat → Nat, (∀ j, j < 16 → s.pte (t + 8 * (bits va.toNat 12 9 / 16 * 16) + 8 * j) = .ok (f j)) →
       e % 2 = 1 → e / 2 ^ 52 % 2 ^ 12 = 0 → e / 2 ^ 7 % 2 ^ 5 = 0 → e / 2 ^ 4 % 4 = 3 → n = 0 →
       let agree := (∀ j, j < 16 → f j % 2 = 1 ∧ f j / 2 ^ 4 % 4 = 3 ∧ f j % 2 ^ 7 = f 0 % 2 ^ 7 ∧
         f j / 2 ^ 12 % 2 ^ 40 = f 0 / 2 ^ 12 % 2 ^ 40 + j) ∧ f 0 / 2 ^ 12 % 2 ^ 4 = 0
       (agree → s.walkFrom va k (n + 1) t = .ok (⟨2 ^ 16, f 0 / 2 ^ 12 % 2 ^ 40 * 4096, e % 2 ^ 7⟩, 1)) ∧
       (¬ agree → s.walkFrom va k (n + 1) t = .error (.trap ⟨.pageReservedBit, va, k, 1⟩))) ∧
   (∀ (s : State) (c : Nat) (va : Word) (k : AccKind) (lv : Level) (die n : Nat) (l : Leaf), s.leafOf c va k die = .ok (l, n) →
     (permits l.perm k lv = true → l.pa + va.toNat % l.size < s.hbm →
       s.translate c va k lv die = .ok (l.pa + va.toNat % l.size)) ∧
     (permits l.perm k lv = false → s.translate c va k lv die = .error (.trap ⟨.pageProtection, va, k, n⟩))) ∧
   ∀ (e : Nat) (lv : Level), let user := lv = .user ∧ e / 2 ^ 6 % 2 = 1
     (permits e .read lv = true ↔ e / 2 % 2 = 1 ∧ ¬ user) ∧ (permits e .write lv = true ↔ e / 4 % 2 = 1 ∧ ¬ user) ∧
     (permits e .exec lv = true ↔ e / 8 % 2 = 1 ∧ ¬ user) ∧ (permits e .amo lv = true ↔ e / 2 % 2 = 1 ∧ e / 4 % 2 = 1 ∧ ¬ user))

/-! ### Tasks, channels, the deque, parcels -/

/-- R137: TSPAWN starts the lowest free slot of 1 to 3 at its PC, with its argument in s1, the frame pointer s7, the level
and the rounding mode of its parent and nothing else; the slot is the result, 0 when none is free. R138, R160: EXIT and
TEXIT, when every engine word of the task has performed, add its FLAGS to STICKY of its context, free its slot, and give back
its vector window and its channels. -/
def Obligations.TasksStartAndEnd : Prop :=
  (∀ (s : State) (g : Guard) (d a b : BitVec 5), issues s (.tspawn g d a b) g { src := [a, b, 7], dst := [d] } = true →
     ((s.getS a).toNat % 4 ≠ 0 → Traps s (.tspawn g d a b) ⟨.misaligned, s.getS a, .read, 0⟩) ∧
     ((s.getS a).toNat % 4 = 0 → s.cur.freeSlot = none → Writes s (.tspawn g d a b) d 0) ∧
     ∀ k : Fin 4, (s.getS a).toNat % 4 = 0 → s.cur.freeSlot = some k.val → k ≠ s.task →
       ∃ t, exec (.tspawn g d a b) s = .next t ∧ t.getS d = (if d = 0 then 0 else BitVec.ofNat 64 k.val) ∧
         (let x := t.cur.tasks[k]
          x.live = true ∧ x.pc = s.getS a ∧ x.level = s.me.level ∧ x.rmode = s.me.rmode ∧ x.sget 1 = s.getS b ∧
          x.sget 7 = s.getS 7 ∧ (∀ n, n ≠ 1 → n ≠ 7 → x.sget n = 0) ∧ x.waiting = [] ∧ x.sleep = none ∧ x.slot = none) ∧
         t.me.pc = (s.me.advance 1).pc ∧ (∀ n, n ≠ d → t.getS n = s.getS n)) ∧
  (∀ (s : State) (g : Guard), ∀ w ∈ [Instr.exit g, .texit g], issues s w g {} = true → s.myWords = [] → s.me.waiting = [] →
     ∃ t, exec w s = .next t ∧ t.me.live = false ∧ t.cur.winOf s.task = 0 ∧
       (∀ c ∈ t.cur.chans, c.2.bound ≠ some s.task.val) ∧
       (t.ctxAt (s.cur.ctx.getD 0)).sticky = (s.ctxAt (s.cur.ctx.getD 0)).sticky ||| s.me.flags ∧
       (∀ a, t.byte a = s.byte a) ∧ ∀ k, k ≠ s.tile → t.tileAt k = s.tileAt k)

/-- R139, R141: BIND takes a channel that is free or the task's own, gives one of its own back, and answers 1 where it can do
neither; RECV from a channel of its own takes the oldest word, and traps PORT_UNBOUND on another. R140, R123: SEND to a tile
that its partition has sends its word and leaves its destination pending; another tile answers 2 at once; a word that is an
address of the PARCEL aperture traps. At its channel, behind every earlier packet of its tile that leaves the mesh on its way
(R303), the word is queued (0), or finds no task bound (3) or eight words (1), and the answer lands in the sender; where both
hold it is 3 (log 58, the model's choice). R145: the work deque: DQPUSH adds at the top (1 when 64 entries are there, 2 for
all ones, which on a full deque is log 58, the model's choice), DQPOP takes the top, DQSTEAL of the own tile the bottom,
DQLEN counts; an empty deque, of another tile too, and a tile outside the partition give all ones. A steal of another tile
sends a request, which takes that tile's bottom entry. -/
def Obligations.ChannelsAndDeque : Prop :=
  (∀ (s : State) (g : Guard) (d a : BitVec 5), let c := (s.getS a).toNat % 16; let x := s.cur.chan c
     (issues s (.bind g d a) g { src := [a], dst := [d] } = true →
       ((s.getS a).getLsbD 4 = false → (x.bound = none ∨ x.bound = some s.task.val) →
         ∃ t, exec (.bind g d a) s = .next t ∧ (t.cur.chan c) = { x with bound := some s.task.val } ∧
           t.getS d = 0 ∧ ∀ n, n ≠ d → t.getS n = s.getS n) ∧
       ((s.getS a).getLsbD 4 = true → x.bound = some s.task.val →
         ∃ t, exec (.bind g d a) s = .next t ∧ (t.cur.chan c).bound = none ∧ t.getS d = 0) ∧
       ((s.getS a).getLsbD 4 = true ∨ x.bound ≠ none → x.bound ≠ some s.task.val → Writes s (.bind g d a) d 1)) ∧
     (issues s (.recv g d a) g { src := [a], dst := [d] } = true →
       (x.bound ≠ some s.task.val → Traps s (.recv g d a) ⟨.portUnbound, s.getS a, .read, 0⟩) ∧
       ∀ w r, x.bound = some s.task.val → x.fifo = w :: r →
         ∃ t, exec (.recv g d a) s = .next t ∧ t.getS d = (if d = 0 then 0 else w) ∧ (t.cur.chan c).fifo = r ∧
           ∀ n, n ≠ d → t.getS n = s.getS n)) ∧
  ((∀ (s : State) (g : Guard) (d a b : BitVec 5), issues s (.send g d a b) g { src := [a, b], dst := [d] } = true →
     let w := s.getS a
     (escapes (s.getS b) = true → Traps s (.send g d a b) ⟨.parcelEscape, w, .read, 0⟩) ∧
     (escapes (s.getS b) = false → (w.toNat / 2 ^ 20 ≠ 0 ∨ s.reaches (w.toNat % 2 ^ 16) = false) → Writes s (.send g d a b) d 2) ∧
     (escapes (s.getS b) = false → w.toNat / 2 ^ 20 = 0 → s.reaches (w.toNat % 2 ^ 16) = true →
       ∃ t, exec (.send g d a b) s = .next t ∧ t.me.sPending d = (d != 0) ∧
         t.pkts = s.pkts ++ [.send s.tile s.task d (w.toNat % 2 ^ 16) (w.toNat / 2 ^ 16 % 16) (s.getS b)] ∧
         (∀ n, t.getS n = s.getS n) ∧ ∀ x, t.byte x = s.byte x)) ∧
   ∀ (s : State) (k t j u c : Nat) (d : BitVec 5) (w : Word), s.pkts[k]? = some (.send t j d u c w) →
     s.inOrder k t u = true →
     ∃ s', exec (.sendArrival k) s = .next s' ∧ s'.pkts = s.pkts.eraseIdx k ∧
       (let x := (s.tileAt u).chan c
        (s'.tileAt u).chan c = (if x.bound ≠ none ∧ x.fifo.length < 8 then { x with fifo := x.fifo ++ [w] } else x) ∧
        (d ≠ 0 → ((s'.tileAt t).taskAt j).sget d = if x.bound = none then 3 else if 8 ≤ x.fifo.length then 1 else 0))) ∧
  ((∀ (s : State) (g : Guard) (d a : BitVec 5), let v := s.getS a; let q := s.cur.deque
     (issues s (.dqpush g d a) g { src := [a], dst := [d] } = true →
       (v = BitVec.allOnes 64 → Writes s (.dqpush g d a) d 2) ∧
       (v ≠ BitVec.allOnes 64 → 64 ≤ q.length → Writes s (.dqpush g d a) d 1) ∧
       (v ≠ BitVec.allOnes 64 → q.length < 64 → ∃ t, exec (.dqpush g d a) s = .next t ∧ t.cur.deque = q ++ [v] ∧ t.getS d = 0)) ∧
     (issues s (.dqpop g d) g { dst := [d] } = true →
       (q = [] → Writes s (.dqpop g d) d (BitVec.allOnes 64)) ∧
       ∀ x r, q = r ++ [x] → ∃ t, exec (.dqpop g d) s = .next t ∧ t.cur.deque = r ∧ t.getS d = if d = 0 then 0 else x) ∧
     (issues s (.dqlen g d) g { dst := [d] } = true → Writes s (.dqlen g d) d (BitVec.ofNat 64 q.length)) ∧
     (issues s (.dqsteal g d a) g { src := [a], dst := [d] } = true → s.reaches (v.toNat % 2 ^ 16) = true →
       (v.toNat % 2 ^ 16 = s.tile → q = [] → Writes s (.dqsteal g d a) d (BitVec.allOnes 64)) ∧
       (∀ x r, v.toNat % 2 ^ 16 = s.tile → q = x :: r →
         ∃ t, exec (.dqsteal g d a) s = .next t ∧ t.cur.deque = r ∧ t.getS d = if d = 0 then 0 else x) ∧
       (v.toNat % 2 ^ 16 ≠ s.tile → ∃ t, exec (.dqsteal g d a) s = .next t ∧ t.me.sPending d = (d != 0) ∧
         t.pkts = s.pkts ++ [.steal s.tile s.task d (v.toNat % 2 ^ 16)])) ∧
     (issues s (.dqsteal g d a) g { src := [a], dst := [d] } = true → s.reaches (v.toNat % 2 ^ 16) = false →
       Writes s (.dqsteal g d a) d (BitVec.allOnes 64))) ∧
   ∀ (s : State) (k t j u : Nat) (d : BitVec 5), s.pkts[k]? = some (.steal t j d u) → s.inOrder k t u = true →
     ∃ s', exec (.dqstealArrival k) s = .next s' ∧ s'.pkts = s.pkts.eraseIdx k ∧
       ((s.tileAt u).deque = [] → (s'.tileAt u).deque = [] ∧
         (d ≠ 0 → ((s'.tileAt t).taskAt j).sget d = BitVec.allOnes 64)) ∧
       ∀ x r, (s.tileAt u).deque = x :: r → (s'.tileAt u).deque = r ∧ (d ≠ 0 → ((s'.tileAt t).taskAt j).sget d = x))

/-- R148, R149: a parcel access whose handle, bounds, alignment and translation hold joins the scalar stream; PLDR loads a
reference and has it when it goes on, PSTR stores one, and at either a reference outside the parcel traps PARCEL_ESCAPE, at
PSTR whether or not its page translates. R151, R152, R155: PLEN and PSTAT read a parcel's entry; a handle that the directory
does not hold gives 0, and PFREE of it traps PARCEL_ABSENT; PNEW of a length that is no multiple of 64 from 64 to 2^28 gives
1. R151, R153, R155, R373: what the parcel words do to the directory: PFREE of an OPEN parcel without windows deletes its
slot; PMAP of one opens the lowest closed window of the tile over it, counts it, and gives the window's address; PUNMAP
closes a window and counts it off; PRECV takes the oldest arrival, whose parcel becomes OPEN; PNEW gives the next handle to a
fresh parcel, whose bytes are zeroed after the issue and before the handle lands (ResultLands). -/
def Obligations.Parcels : Prop :=
  (∀ (s : State) (g : Guard) (d a b : BitVec 5) (z : Size) (loc : Nat) (p : Par),
     (issues s (.pld g d a b z) g { src := [a, b], dst := [d] } = true →
       s.parcelEntry (s.getS a) (s.getS b) (sizeBytes z) .read false = .ok p →
       s.parcelLoc p (s.getS b) (sizeBytes z) .read = .ok loc →
       Joins s (.pld g d a b z) (.load (sizeBytes z) true) loc d) ∧
     (issues s (.pst g d a b z) g { src := [a, b, d] } = true →
       s.parcelEntry (s.getS a) (s.getS b) (sizeBytes z) .write (z == .d64 && escapes (s.getS d)) = .ok p →
       s.parcelLoc p (s.getS b) (sizeBytes z) .write = .ok loc →
       Joins s (.pst g d a b z) (.store (bytesOf (sizeBytes z) (s.getS d).toNat)) loc 0) ∧
     (issues s (.pldr g d a b) g { src := [a, b], dst := [d] } = true →
       s.parcelEntry (s.getS a) (s.getS b) 4 .read false = .ok p →
       s.parcelLoc p (s.getS b) 4 .read = .ok loc → s.me.stream = [] → s.cur.barred s.me.bars = false →
       (s.admitAt s.tile loc 4).isOk = true → s.poisoned loc 4 = false →
       (s.readNat loc 4 = 0xFFFFFFFF ∨ s.readNat loc 4 < p.len → ∃ t, exec (.pldr g d a b) s = .next t ∧ Read s t d ∧
         t.getS d = if d = 0 then 0 else BitVec.ofNat 64 (s.readNat loc 4)) ∧
       (s.readNat loc 4 ≠ 0xFFFFFFFF → p.len ≤ s.readNat loc 4 →
         Traps s (.pldr g d a b) ⟨.parcelEscape, BitVec.ofNat 64 (s.readNat loc 4), .read, 0⟩)) ∧
     (issues s (.pstr g d a b) g { src := [a, b, d] } = true →
       s.parcelEntry (s.getS a) (s.getS b) 4 .write false = .ok p →
       ((s.getS d).toNat = 0xFFFFFFFF ∨ (s.getS d).toNat < p.len ∧ p.len ≤ 2 ^ 32 →
         s.parcelLoc p (s.getS b) 4 .write = .ok loc → Joins s (.pstr g d a b) (.store (bytesOf 4 (s.getS d).toNat)) loc 0) ∧
       ((s.getS d).toNat ≠ 0xFFFFFFFF → p.len ≤ (s.getS d).toNat →
         Traps s (.pstr g d a b) ⟨.parcelEscape, s.getS d, .write, 0⟩))) ∧
  (∀ (s : State) (g : Guard) (d a : BitVec 5) (p : Par), let e := s.par (s.cur.ctx.getD 0) (s.getS a)
     (issues s (.plen g d a) g { src := [a], dst := [d] } = true →
       (e = none → Writes s (.plen g d a) d 0) ∧
       (e = some p → Writes s (.plen g d a) d (if 1 ≤ p.state ∧ p.state ≤ 4 then BitVec.ofNat 64 p.len else 0))) ∧
     (issues s (.pstat g d a) g { src := [a], dst := [d] } = true →
       (e = none → Writes s (.pstat g d a) d 0) ∧
       (e = some p → Writes s (.pstat g d a) d (BitVec.ofNat 64 (p.state + p.maps * 2 ^ 8 + p.last * 2 ^ 16)))) ∧
     (issues s (.pfree g a) g { src := [a] } = true →
       (e = none → Traps s (.pfree g a) ⟨.parcelAbsent, s.getS a, .read, 0⟩) ∧
       (e = some p → p.state = 1 → p.maps ≠ 0 → Traps s (.pfree g a) ⟨.parcelPinned, s.getS a, .read, 0⟩)) ∧
     (issues s (.pnew g d a) g { src := [a], dst := [d] } = true → let n := (s.getS a).toNat
       (n % 64 ≠ 0 ∨ n < 64 ∨ 2 ^ 28 < n) → ∃ t, exec (.pnew g d a) s = .next t ∧
         TaskStep s t (fun k => if d = 0 then k else { k.smark d with landings := k.landings ++ [⟨d, 1, []⟩] }) 1)) ∧
  (∀ (s : State) (g : Guard) (d a : BitVec 5) (p : Par) (j w : Nat) (h : Word) (r : List Word), let c := s.cur.ctx.getD 0
     (issues s (.pfree g a) g { src := [a] } = true → s.par c (s.getS a) = some p → (p.state = 1 ∧ p.maps = 0) ∨ p.state = 5 →
       Performs s (.pfree g a) (s.dirDelete c p.slot)) ∧
     (issues s (.pmap g d a) g { src := [a], dst := [d] } = true → s.par c (s.getS a) = some p → p.state = 1 → p.maps ≠ 255 →
       s.cur.freeWindow = some w →
       Performs s (.pmap g d a) (((s.putPar c { p with maps := p.maps + 1 }).updTile s.tile fun t =>
         { t with windows := t.windows.put w ⟨p.handle, p.base, p.len⟩ }).setS d (BitVec.ofNat 64 (0x804 * 2 ^ 52 + w * 2 ^ 28)))) ∧
     (issues s (.punmap g a) g { src := [a] } = true →
       Performs s (.punmap g a) (if (s.getS a).toNat / 2 ^ 52 = 0x804 ∧ (s.getS a).toNat % 2 ^ 52 < 2 ^ 32 then
         s.closeWindow c s.tile ((s.getS a).toNat % 2 ^ 52 / 2 ^ 28) else s)) ∧
     (issues s (.precv g d) g { dst := [d] } = true →
       ((s.ctxAt c).arrivals = [] → Writes s (.precv g d) d 0) ∧
       ((s.ctxAt c).arrivals = h :: r → ∃ t, exec (.precv g d) s = .next t ∧ t.getS d = (if d = 0 then 0 else h) ∧
         (t.ctxAt c).arrivals = r ∧ (∀ x, s.parIn c h (· == 4) = none → t.byte x = s.byte x) ∧
         (s.parIn c h (· == 4) = some p → t.readNat ((s.ctxAt c).record.pdir.toNat + 32 * p.slot + 20) 1 = 1))) ∧
     (issues s (.pnew g d a) g { src := [a], dst := [d] } = true → let n := (s.getS a).toNat
       n % 64 = 0 → 64 ≤ n → n ≤ 2 ^ 28 → s.serial < 2 ^ 40 → s.dirFree c s.newHandle = some j →
       ∀ b, s.heapRoom c n s.newHandle = some b → ∀ ps, s.physical c .write s.me.level (dieOf s.tile) (piecesOf b n) = .ok ps →
       Performs s (.pnew g d a) ((({ s with serial := s.serial + 1 } : State).putPar c
         { slot := j, handle := s.newHandle, base := b, len := n, state := 1 }).later d s.newHandle ps)))

/-! ### Engine words: their push, and what they do at the head of their queue -/

/-- A word joins the queue of its engine: its entry captures S(a), S(b), S(c), the rounding mode, the window and the level;
the task takes the engine's next token, which waits; a register that the word will write is pending; the task goes on. -/
def Sys2Proof.Claims.Pushes (s : State) (w : Instr) (e : Eng) : Prop :=
  ∃ t, exec w s = .next t ∧ t.cur.queue e = s.cur.queue e ++ [s.entryOf w e [] always] ∧
    (∀ e', e' ≠ e → t.cur.queue e' = s.cur.queue e') ∧ t.me.pushes e = s.me.pushes e + 1 ∧
    t.me.waiting = s.me.waiting ++ [⟨e, s.me.pushes e⟩] ∧ t.me.pc = (s.me.advance 1).pc ∧ t.me.slot = (s.me.advance 1).slot ∧
    (∀ n, t.getS n = s.getS n ∧ t.me.sPending n = (s.me.sPending n || (n != 0 && (pendingDst w).1 == some n))) ∧
    (∀ q, t.getP q = s.getP q ∧ t.me.pPending q = (s.me.pPending q || (q != 0 && (pendingDst w).2 == some q))) ∧
    (∀ a, t.byte a = s.byte a) ∧ (∀ k, k ≠ s.tile → t.tileAt k = s.tileAt k) ∧ { t with tiles := s.tiles } = s

/-- A queue has room for the issuing task: an entry is free, and no other task that waits for one comes first (R341). -/
def Sys2Proof.Claims.HasRoom (s : State) (e : Eng) : Prop :=
  (s.cur.queue e).length < Config.queueEntries ∧ ∀ k, s.cur.nextPusher e = some k → k = s.task

/-- What a push needs besides its issue: no register that it captures or will write is pending, and its queue has room. -/
def Sys2Proof.Claims.MayPush (s : State) (w : Instr) (e : Eng) : Prop :=
  issues s w always {} = true ∧ s.me.pushBlocked w = false ∧ HasRoom s e

/-- R67, R74, R78, R159, R168-R188: the vector words: of a task that has a window they join V, of one that has none they trap
VWIN_NONE. -/
def Obligations.VectorPushes : Prop :=
  ∀ (s : State) (d a b : BitVec 5) (q q' m : BitVec 3) (t u : Ty) (c : VCond) (sat : BitVec 1) (r : Rnd) (sc : Scope) (z : Wd)
    (sb : BitVec 4),
  ∀ w ∈ [Instr.vadd d a b m t, .vsub d a b m t, .vmul d a b m t, .vmad d a b m t, .vmsb d a b m t, .vabs d a m t,
      .vneg d a m t, .vmin d a b m t, .vmax d a b m t, .vadds d a b m t, .vsubs d a b m t, .vmulhi d a b m t, .vand d a b m t,
      .vor d a b m t, .vxor d a b m t, .vnot d a m t, .vshl d a b m t, .vshr d a b m t, .vsar d a b m t, .vclz d a m t,
      .vpopc d a m t, .vcmp q a b m c t, .vcvt d a u m sat r t, .vrcp d a m t, .vrsq d a m t, .vsqrt d a m t, .vexp2 d a m t,
      .vlog2 d a m t, .vtanh d a m t, .vsin d a m t, .vcos d a m t, .vredadd d a m t, .vredmax d a m t, .vredmin d a m t,
      .vredor d a m t, .vredand d a m t, .vscan d a m t, .vperm d a b m t, .vbcast d a m t, .viota d m t, .vslide d a b m t,
      .vsel d a b m t, .vmovs d a b t, .vext d a b t, .vcmul d a b m t, .vconj d a m t, .mand q q' m t, .mor q q' m t,
      .mxor q q' m t, .mnot q q' t, .mpop d q m t, .vany q q' m t, .vall q q' m t, .vld d a m t, .vlds d a b m t,
      .vgath d a b m t, .vst d a m t, .vsts d a b m t, .vscat d a b m t, .vamoAdd d a b m sc z, .vamoOr d a b m sc z,
      .vamoAnd d a b m sc z, .vamoXor d a b m sc z, .vamoMin d a b m sc z, .vamoMax d a b m sc z, .vpop d sb, .vpush d sb,
      .vpeek d sb],
    (s.cur.winOf s.task ≠ 0 → MayPush s w .v → Pushes s w .v) ∧
    (s.cur.winOf s.task = 0 → issues s w always {} = true → Traps s w ⟨.vwinNone, 0, .read, 0⟩)

/-- R67, R78: the matrix, copy and link words. R154: a POST of an OPEN parcel without windows, to a package that is not dead,
makes the parcel SEALING and joins L. R75, R226: a COPYM and the 0x31 word behind it, which names the same buffer, are one
unit: a C entry, and an M entry that waits to be filled; the PC goes behind both. R74, R67: a DEP and the engine word behind
it are one unit: the word is pushed under the tokens that the fields name and under the guard; a field further back than the
task has pushed traps TOKEN_RANGE; a word that is no engine word traps. -/
def Obligations.EnginePushes : Prop :=
  (∀ (s : State) (a b c : BitVec 5) (e4 x y : BitVec 4) (e3 f3 : BitVec 3) (p o : BitVec 1) (r2 : BitVec 2) (t : Ty) (k : AKind)
     (r : Rnd) (sc : Scope) (src dst : BitVec 5),
     (∀ w ∈ [Instr.mldw a t y p, .mswp, .mtag a, .mmul e4 b x t r2 p, .mmulz e4 b x t r2 p, .mrel x, .mzero x k, .mstat a x p,
         .mlda e4 b x k, .mrd o e4 b x t r, .mrds o e4 b x t r], MayPush s w .m → Pushes s w .m) ∧
     (∀ w ∈ [Instr.sbdef e4 a b, .stdef e3 a b, .stdim e3 a b, .stpos e3 a, .strst e3, .copy src dst a b, .cqnt src dst a b,
         .cexp src dst a b, .ccvt src dst a b, .cfill dst a b], MayPush s w .c → Pushes s w .c) ∧
     ∀ w ∈ [Instr.rld a b c sc, .rst a b c sc, .ramo a b c sc f3, .rfence sc, .lcnt a, .leaseAsk a b c, .leaseGive a b,
         .leaseStat a b, .fctl a b, .fstat a b], MayPush s w .l → Pushes s w .l) ∧
  (∀ (s : State) (d a b : BitVec 5) (p : Par), MayPush s (.post d a b) .l → let c := s.cur.ctx.getD 0
     s.par c (s.getS a) = some p → p.state = 1 → p.maps = 0 → s.deadBit c ((s.getS b).toNat % 256) = false →
     Performs s (.post d a b) ((s.putPar c { p with state := 2 }).enqueue (.post d a b) .l [] always false)) ∧
  (∀ (s : State) (sr a b : BitVec 5) (d : BitVec 4) (n : Nat) (f : Instr), MayPush s (.copym sr d a b) .c →
     s.fetch (s.me.pc + 4) = .ok n → decode n = some f → followOn d f = true → s.me.slot = none → s.me.pushBlocked f = false →
     HasRoom s .m →
     exec (.copym sr d a b) s = .next (((s.enqueue (.copym sr d a b) .c [] always false).enqueue f .m [] always true).issued 2)) ∧
  (∀ (s : State) (g : Guard) (x y z : BitVec 7) (n : Nat) (w : Instr) (e : Eng), issues s (.dep g x y z) always {} = true →
     s.fetch (s.me.pc + 4) = .ok n → decode n = some w → copymBits n = false → s.me.slot = none →
     (w.engine? = some e → (∀ d a b, w ≠ .post d a b) → s.needWindow e = .ok () → s.me.pushBlocked w = false →
       HasRoom s e →
       (∀ ks, s.tokens [x, y, z] = .ok ks → exec (.dep g x y z) s = .next ((s.enqueue w e ks g false).issued 2)) ∧
       (s.tokens [x, y, z] = trapOf .tokenRange 0 → Traps s (.dep g x y z) ⟨.tokenRange, 0, .read, 0⟩)) ∧
     (w.engine? = none → (∀ d a b, w ≠ .post d a b) → Traps s (.dep g x y z) ⟨.illegalEncoding, 0, .read, 0⟩))

/-- The word `x` stands ready at the head of a queue of a tile whose context runs, and no barrier holds it (R134). -/
structure Sys2Proof.Claims.AtHead (s : State) (tile : Nat) (e : Eng) (x : Entry) (r : List Entry) : Prop where
  runs : s.running tile = true
  head : (s.tileAt tile).queue e = x :: r
  ready : x.faulted = false ∧ x.held = false ∧ x.deps = [] ∧ x.guard = always
  free : (s.tileAt tile).behindBar x = false

/-- From `s` to `u` the vector word `x` at the head of V of a tile has performed: element e of its destination is `f e`, no other
register of a window and no byte has changed, its flags have been added to those of its task, and its token has completed. -/
structure Sys2Proof.Claims.Lanes (s u : State) (tile : Nat) (x : Entry) (d : BitVec 5) (t : Ty) (f : Nat → Nat) (fl : Byte) :
    Prop where
  lanes : ∀ e, e < t.count → elem t.ew ((u.tileAt tile).vget x.win d.toNat).toNat e = f e
  kept : ∀ k, k ≠ 32 * x.win + d.toNat → (u.tileAt tile).vs.get 0 k = (s.tileAt tile).vs.get 0 k
  flags : ((u.tileAt tile).taskAt x.task).flags = ((s.tileAt tile).taskAt x.task).flags ||| fl
  token : ∀ k, x.tok = some k → k ∉ ((u.tileAt tile).taskAt x.task).waiting
  bytes : ∀ a, u.byte a = s.byte a

/-- R161, R164-R169: an integer vector word at the head of V writes every active element of its destination, wrapped to the
element's width, from the elements of its sources as they stood; an inactive element, every other register and memory keep
their values, and the token completes. R60, R61, R167: a vector word that accesses no memory performs whole: what its
function gives is written to its window or its task, its flags are added to FLAGS of the task that pushed it, and the
generator moves by its draws. R169-R178: the lane values of the bit operations (VSAR shifts copies of the top bit in, VCLZ of
0 is the width), of VCVT between integers, which saturates, of a special function of a NaN, of the integer reductions and
VSCAN, of the permutes (of which VMOVS writes one element, and VEXT one register) and of the complex products; a mask word
and VCMP of integers write the bits below the element count, 0 above, and nothing to m0; MPOP, VANY and VALL give a count and
a vote. R47, R60, R168: where an operand of a floating-point element operation is a NaN, the result is the canonical NaN of
its type. R180-R182, R271: one active element of a vector load reads its bytes, of a store writes them and nothing else,
where its own tile or no tile's SRAM holds them; an element of a store to the SRAM of another tile leaves as a request. -/
def Obligations.VectorWordsPerform : Prop :=
  (∀ (s : State) (tile n : Nat) (x : Entry) (r : List Entry) (d a b : BitVec 5) (m : BitVec 3) (t : Ty), AtHead s tile .v x r →
     t.isInt = true →
   ∀ p ∈ [(Instr.vadd d a b m t, fun (y z _ : Int) => y + z), (.vsub d a b m t, fun y z _ => y - z),
       (.vmul d a b m t, fun y z _ => y * z), (.vmad d a b m t, fun y z v => y * z + v), (.vmsb d a b m t, fun y z v => v - y * z),
       (.vabs d a m t, fun y _ _ => if y < 0 then -y else y), (.vneg d a m t, fun y _ _ => -y),
       (.vmin d a b m t, fun y z _ => if z < y then z else y), (.vmax d a b m t, fun y z _ => if z < y then y else z),
       (.vmulhi d a b m t, fun y z _ => y * z / 2 ^ t.ew)],
     x.word = p.1 → let u := s.tileAt tile
     ∃ t', exec (.engineQueueHeadIssue tile .v n) s = .next t' ∧ (t'.tileAt tile).vq = r ∧
       (∀ k, x.tok = some k → k ∉ ((t'.tileAt tile).taskAt x.task).waiting) ∧
       (∀ e, e < t.count → let el := fun (q : BitVec 5) => elem t.ew (u.vget x.win q.toNat).toNat e
         elem t.ew ((t'.tileAt tile).vget x.win d.toNat).toNat e =
           if (u.mget x.win m.toNat).getLsbD e then (p.2 (intOf t (el a)) (intOf t (el b)) (intOf t (el d)) % 2 ^ t.ew).toNat
           else el d) ∧
       (∀ k, k ≠ 32 * x.win + d.toNat → (t'.tileAt tile).vs.get 0 k = u.vs.get 0 k) ∧
       (∀ k, t'.byte k = s.byte k) ∧ ∀ k, k ≠ tile → t'.tileAt k = s.tileAt k) ∧
  (∀ (s : State) (tile n : Nat) (x : Entry) (r : List Entry) (v : VRes), AtHead s tile .v x r →
     let src : VSrc := ⟨s.tileAt tile, x.win, modeOf x.rmode⟩
     vMemOf src x.a x.b x.word = none → vCompute src x.a x.b x.word = some v →
     ∃ t, exec (.engineQueueHeadIssue tile .v n) s = .next t ∧ (t.tileAt tile).vq = r ∧ (t.tileAt tile).gv = v.gen ∧
       (∀ k, x.tok = some k → k ∉ ((t.tileAt tile).taskAt x.task).waiting) ∧
       ((t.tileAt tile).taskAt x.task).flags = ((s.tileAt tile).taskAt x.task).flags ||| v.flags ∧
       (match v.write with
         | .reg d y => (t.tileAt tile).vget x.win d.toNat = BitVec.ofNat 4096 y
         | .mask d y => d ≠ 0 → (t.tileAt tile).mget x.win d.toNat = BitVec.ofNat 1024 y
         | .scalar d y => d ≠ 0 → ((t.tileAt tile).taskAt x.task).sget d = y
         | .pred d y => d ≠ 0 → ((t.tileAt tile).taskAt x.task).pget d = y
         | .none => True) ∧ (∀ a, t.byte a = s.byte a) ∧ { t with tiles := s.tiles } = s) ∧
  (∀ (s : State) (tile n : Nat) (x : Entry) (r : List Entry) (d a b : BitVec 5) (m : BitVec 3) (t : Ty), AtHead s tile .v x r →
     let u := s.tileAt tile
     let run := fun (f : Nat → Nat) (fl : Byte) =>
       ∃ t', exec (.engineQueueHeadIssue tile .v n) s = .next t' ∧ (t'.tileAt tile).vq = r ∧ Lanes s t' tile x d t f fl
     let el := fun (q : BitVec 5) (e : Nat) => elem t.ew (u.vget x.win q.toNat).toNat e
     let on := fun (e : Nat) => (u.mget x.win m.toNat).getLsbD e
     let under := fun (f : Nat → Nat) => run (fun e => if on e then f e else el d e) 0
     let acts := (List.range t.count).filter on
     (t.isInt = true →
       (∀ p ∈ [(Instr.vand d a b m t, fun (y z : Nat) => y &&& z), (.vor d a b m t, fun y z => y ||| z),
           (.vxor d a b m t, fun y z => y ^^^ z), (.vnot d a m t, fun y _ => 2 ^ t.ew - 1 - y),
           (.vshl d a b m t, fun y z => y * 2 ^ (z % t.ew) % 2 ^ t.ew), (.vshr d a b m t, fun y z => y / 2 ^ (z % t.ew)),
           (.vsar d a b m t, fun y z => (sext y t.ew / 2 ^ (z % t.ew) % 2 ^ t.ew).toNat),
           (.vclz d a m t, fun y _ => if y = 0 then t.ew else t.ew - 1 - Nat.log2 y),
           (.vpopc d a m t, fun y _ => ((List.range t.ew).filter y.testBit).length)],
         x.word = p.1 → under fun e => p.2 (el a e) (el b e)) ∧
       (x.word = .vredadd d a m t → run (fun _ => (acts.foldl (fun (z : Int) e => z + intOf t (el a e)) 0 % 2 ^ t.ew).toNat) 0) ∧
       (x.word = .vredor d a m t → run (fun _ => acts.foldl (fun z e => z ||| el a e) 0) 0) ∧
       (x.word = .vredand d a m t → run (fun _ => acts.foldl (fun z e => z &&& el a e) (2 ^ t.ew - 1)) 0) ∧
       (acts = [] → (x.word = .vredmax d a m t → run (fun _ => (intLo t % 2 ^ t.ew).toNat) 0) ∧
         (x.word = .vredmin d a m t → run (fun _ => (intHi t % 2 ^ t.ew).toNat) 0)) ∧
       (x.word = .vredmax d a m t → acts ≠ [] → ∃ e ∈ acts, (∀ k ∈ acts, intOf t (el a k) ≤ intOf t (el a e)) ∧ run (fun _ => el a e) 0) ∧
       (x.word = .vredmin d a m t → acts ≠ [] → ∃ e ∈ acts, (∀ k ∈ acts, intOf t (el a e) ≤ intOf t (el a k)) ∧ run (fun _ => el a e) 0) ∧
       (x.word = .vscan d a m t → run (fun e =>
         (((List.range (e + 1)).filter on).foldl (fun (z : Int) k => z + intOf t (el a k)) 0 % 2 ^ t.ew).toNat) 0) ∧
       (x.word = .viota d m t → run (fun e => ((List.range e).filter on).length % 2 ^ t.ew) 0) ∧
       ∀ (q : BitVec 3) (c : VCond), x.word = .vcmp q a b m c t → ∃ t', exec (.engineQueueHeadIssue tile .v n) s = .next t' ∧
         ∀ e, e < 1024 → ((t'.tileAt tile).mget x.win q.toNat).getLsbD e = if q = 0 then true else
           let (y, z) := (intOf t (el a e), intOf t (el b e))
           decide (e < t.count) && on e && match c with
             | .eq => decide (y = z)
             | .ne => decide (y ≠ z)
             | .lt => decide (y < z)
             | .le => decide (y ≤ z)
             | .gt => decide (z < y)
             | .ge => decide (z ≤ y)) ∧
     (∀ (v : Ty) (sat : BitVec 1) (md : Rnd), t.isInt = true → v.isInt = true → x.word = .vcvt d a v m sat md t →
       ∃ fl, run (fun e => if e < min t.count v.count ∧ on e = true then
         (max (intLo t) (min (intHi t) (intOf v (elem v.ew (u.vget x.win a.toNat).toNat e))) % 2 ^ t.ew).toNat else el d e) fl) ∧
     (t.isFlt = true → x.word ∈ [Instr.vrcp d a m t, .vrsq d a m t, .vsqrt d a m t, .vexp2 d a m t, .vlog2 d a m t, .vtanh d a m t,
         .vsin d a m t, .vcos d a m t] → ∃ f fl, run f fl ∧ ∀ e, e < t.count →
       (on e = false → f e = el d e) ∧ (on e = true → (valOf t (el a e)).isNan = true → f e = nanOf t)) ∧
     (t ≠ .cb4 →
       (x.word = .vperm d a b m t → under fun e => el a (el b e % t.count)) ∧
       (x.word = .vbcast d a m t → under fun _ => x.a.toNat % 2 ^ t.ew) ∧
       (x.word = .vslide d a b m t → under fun e =>
         if 0 ≤ (e : Int) + x.b.toInt ∧ (e : Int) + x.b.toInt < t.count then el a ((e : Int) + x.b.toInt).toNat else 0) ∧
       (x.word = .vsel d a b m t → run (fun e => if on e then el a e else el b e) 0) ∧
       (x.word = .vmovs d a b t → run (fun e => if x.b.toNat = e then x.a.toNat % 2 ^ t.ew else el d e) 0) ∧
       (x.word = .vext d a b t → d ≠ 0 → ∃ t', exec (.engineQueueHeadIssue tile .v n) s = .next t' ∧
         (t'.tileAt tile).vs = u.vs ∧ ((t'.tileAt tile).taskAt x.task).sget d =
           if t.count ≤ x.b.toNat then 0
           else if t ∈ [Ty.i4, .i8, .i16, .i32] then BitVec.ofInt 64 (sext (el a x.b.toNat) t.ew)
           else BitVec.ofNat 64 (el a x.b.toNat)) ∧
       (∀ (q ma mb : BitVec 3), ∀ p ∈ [(Instr.mand q ma mb t, fun (y z : Bool) => y && z), (.mor q ma mb t, fun y z => y || z),
           (.mxor q ma mb t, fun y z => y != z), (.mnot q ma t, fun y _ => !y)],
         x.word = p.1 → ∃ t', exec (.engineQueueHeadIssue tile .v n) s = .next t' ∧ (t'.tileAt tile).vs = u.vs ∧
           ∀ e, e < 1024 → ((t'.tileAt tile).mget x.win q.toNat).getLsbD e = if q = 0 then true else
             decide (e < t.count) && p.2 ((u.mget x.win ma.toNat).getLsbD e) ((u.mget x.win mb.toNat).getLsbD e)) ∧
       ∀ (q ma : BitVec 3), let both := (List.range t.count).filter fun e => (u.mget x.win ma.toNat).getLsbD e && on e
         (x.word = .mpop d ma m t → d ≠ 0 → ∃ t', exec (.engineQueueHeadIssue tile .v n) s = .next t' ∧
           ((t'.tileAt tile).taskAt x.task).sget d = BitVec.ofNat 64 both.length) ∧
         (x.word = .vany q ma m t → q ≠ 0 → ∃ t', exec (.engineQueueHeadIssue tile .v n) s = .next t' ∧
           ((t'.tileAt tile).taskAt x.task).pget q = !both.isEmpty) ∧
         (x.word = .vall q ma m t → q ≠ 0 → ∃ t', exec (.engineQueueHeadIssue tile .v n) s = .next t' ∧
           ((t'.tileAt tile).taskAt x.task).pget q = decide (both.length = acts.length))) ∧
     (t.isCpx = true → let h := partBits t
       let sat := fun (z : Int) => max (-2 ^ (h - 1)) (min (2 ^ (h - 1) - 1) z)
       let put := fun (y z : Int) => (sat y % 2 ^ h).toNat + 2 ^ h * (sat z % 2 ^ h).toNat
       let re := fun q e => sext (el q e) h
       let im := fun q e => sext (el q e / 2 ^ h) h
       (x.word = .vcmul d a b m t → ∃ fl, run (fun e => if on e then
         put (re a e * re b e - im a e * im b e) (re a e * im b e + im a e * re b e) else el d e) fl) ∧
       (x.word = .vconj d a m t → ∃ fl, run (fun e => if on e then put (re a e) (-im a e) else el d e) fl))) ∧
  (∀ (t : Ty) (md : Rnd) (a b d : Nat) (g : BitVec 64), t.isFlt = true → (valOf t a).isNan = true ∨ (valOf t b).isNan = true →
     (vAddSub t md false a b g).x = nanOf t ∧ (vAddSub t md true a b g).x = nanOf t ∧ (vMul t md a b g).x = nanOf t ∧
     (vMulAdd t md false a b d g).x = nanOf t ∧ (vMulAdd t md true a b d g).x = nanOf t) ∧
  (∀ (s : State) (tile e loc : Nat) (x : Entry) (w : VMem), w.nibble = false → 1 ≤ w.bytes → 8 * w.bytes * (e + 1) ≤ 4096 →
     let reg := ((s.tileAt tile).vget x.win w.v.toNat).toNat
     let here := elsewhere tile loc = false ∧ (s.admitAt tile loc w.bytes).isOk = true
     (w.acc = .load → s.resolve (s.whoOf tile x) (w.addr e) w.bytes .read = .ok loc → here → s.poisoned loc w.bytes = false →
       ∃ t, s.vElement tile x w e = .ok (t, false) ∧
         (∀ k, 8 * w.bytes * (k + 1) ≤ 4096 → elem (8 * w.bytes) ((t.tileAt tile).vget x.win w.v.toNat).toNat k =
           if k = e then s.readNat loc w.bytes else elem (8 * w.bytes) reg k) ∧ ∀ a, t.byte a = s.byte a) ∧
     (w.acc = .store → s.resolve (s.whoOf tile x) (w.addr e) w.bytes .write = .ok loc →
       (here → ∃ t, s.vElement tile x w e = .ok (t, false) ∧ t.readNat loc w.bytes = elem (8 * w.bytes) reg e ∧
         (∀ a, a < loc ∨ loc + w.bytes ≤ a → t.byte a = s.byte a) ∧ t.tiles = s.tiles) ∧
       (elsewhere tile loc = true → ∃ t, s.vElement tile x w e = .ok (t, true) ∧
         t.pkts = s.pkts ++ [(s.reqPkt tile x.task (.store (bytesOf w.bytes (elem (8 * w.bytes) reg e))) loc (.word x.uid e)).2] ∧
         (t.tileAt tile).outbound = (s.tileAt tile).outbound + 1 ∧ ∀ a, t.byte a = s.byte a)))

/-- From `s` to `t` the word `x` at the head of a queue has faulted with `i`: the fault waits for delivery, and the word stays there. -/
structure Sys2Proof.Claims.HeadFaults (s t : State) (tile : Nat) (e : Eng) (x : Entry) (r : List Entry) (i : TrapInfo) : Prop where
  faults : (t.tileAt tile).faults = (s.tileAt tile).faults ++ [⟨e, x.task, x.uid, i, false⟩]
  head : ∃ y, (t.tileAt tile).queue e = y :: r ∧ y.faulted = true ∧ y.uid = x.uid ∧ y.word = x.word
  bytes : ∀ a, t.byte a = s.byte a

/-- R193, R194, R202, R203, R206, R207: what the matrix words without rows do at the head of M when the array is idle: MSWP
exchanges the planes, MTAG sets the row tag, MREL frees a name, MZERO of a VALID name makes it zero, and of another binds the
lowest free slot first, or traps ACC_EXHAUSTED where the task holds them all (with TADDR 0, log 37; of an MZERO, log 52).
R193, R207: MSTAT reads the status of an accumulator name, also of one that is not VALID (what MREL left of it), or of a
plane. R204, R196, R218: a row of an MMUL whose plane is LOADED enters the array when its buffer holds it, where a C word's
request has moved CP whole first (R275): the buffer gives the row's bytes, and the row tag goes on. R62, R197, R204: a row of
an integer pair leaves the array, whatever kind its accumulator has by then: to each of its 128 elements (0 for MMULZ) are
added the products of its activation elements and the weights of its column, those of k = 0 to 63 as one sum and those of k =
64 to 127 as another, each time saturated to 32 bits. R190, R200, R201, R246: a plane whose record is read becomes LOADED
with it, and the token of its MLDW completes; bytes read before the last are kept, and the plane stays LOADING. R198,
R208-R211, R274: an MLDA at the head of M, when nothing of its name is under way, has its name bound, of its kind, and takes
its rows: 512 bytes at CP of its buffer become the next row, and the name is DIRTY. An MRD or MRDS issues with the rows of
its name as they stand; each row that it converts, of an MRDS multiplied by the scale, rounded as the word says, goes to PP
of its buffer, which moves on. A type that the kind does not admit faults FORMAT_MISMATCH (with TADDR 0, log 37). -/
def Obligations.MatrixEngine : Prop :=
  (∀ (s : State) (tile n : Nat) (x : Entry) (r : List Entry), AtHead s tile .m x r → let u := s.tileAt tile
     u.array = none → u.conv = none → u.rows = [] → u.plane0.load = none → u.plane1.load = none →
     (x.word = .mswp → ∃ t, exec (.engineQueueHeadIssue tile .m n) s = .next t ∧ (t.tileAt tile).plane0 = u.plane1 ∧
       (t.tileAt tile).plane1 = u.plane0 ∧ (t.tileAt tile).mq = r) ∧
     (∀ a, x.word = .mtag a → ∃ t, exec (.engineQueueHeadIssue tile .m n) s = .next t ∧
       (t.tileAt tile).rtag = BitVec.ofNat 16 x.a.toNat ∧ (t.tileAt tile).mq = r) ∧
     (∀ a, x.word = .mrel a → ∃ t, exec (.engineQueueHeadIssue tile .m n) s = .next t ∧
       (t.tileAt tile).accs.find a.toNat = none ∧ (t.tileAt tile).mq = r) ∧
     (∀ a k c, x.word = .mzero a k → u.accs.find a.toNat = some c → ∃ t, exec (.engineQueueHeadIssue tile .m n) s = .next t ∧
       (t.tileAt tile).accs.find a.toNat = some { c with kind := k, dirty := true } ∧
       (∀ j, j < 128 → (t.tileAt tile).slotRow c.slot j = 0) ∧ (t.tileAt tile).mq = r) ∧
     (∀ a k j, x.word = .mzero a k → u.accs.find a.toNat = none → j < 12 → (∀ p ∈ u.accs, p.2.slot ≠ j) →
       (∀ i, i < j → ∃ p ∈ u.accs, p.2.slot = i) → ∃ t, exec (.engineQueueHeadIssue tile .m n) s = .next t ∧
       (∃ tag, (t.tileAt tile).accs.find a.toNat = some ⟨j, true, k, x.task, tag⟩) ∧
       (∀ i, i < 128 → (t.tileAt tile).slotRow j i = 0) ∧ (t.tileAt tile).mq = r) ∧
     ∀ a k, x.word = .mzero a k → u.accs.find a.toNat = none → (∀ i, i < 12 → ∃ p ∈ u.accs, p.2.slot = i) →
       (∀ p ∈ u.accs, p.2.owner = x.task) → ∃ t, exec (.engineQueueHeadIssue tile .m n) s = .next t ∧
       (t.tileAt tile).faults = u.faults ++ [⟨.m, x.task, x.uid, ⟨.accExhausted, 0, .read, 0⟩, false⟩] ∧
       (t.tileAt tile).accs = u.accs ∧ (t.tileAt tile).slots = u.slots) ∧
  (∀ (s : State) (tile n : Nat) (x : Entry) (r : List Entry) (d : BitVec 5) (a : BitVec 4) (p : BitVec 1),
     AtHead s tile .m x r → let u := s.tileAt tile
     u.plane0.load = none → u.plane1.load = none → x.word = .mstat d a p → d ≠ 0 →
     ∃ t, exec (.engineQueueHeadIssue tile .m n) s = .next t ∧ (t.tileAt tile).mq = r ∧
       ((t.tileAt tile).taskAt x.task).sget d = BitVec.ofNat 64 (
         let code := fun (k : AKind) => match k with
           | .f32 => 0
           | .i32 => 1
           | .cpx => 2
         let free := 12 - u.accs.length
         if p = 1 then
           let pl := if a = 0 then u.plane0 else u.plane1
           if pl.st = 0 then 0 else pl.st * 2 ^ 12 + pl.fmt.code * 2 ^ 8 + pl.depth
         else match u.accs.find a.toNat, u.accPast.find a.toNat with
           | some c, _ => c.lastTag.toNat * 2 ^ 32 + free * 2 ^ 28 + c.slot * 2 ^ 20 + c.owner * 2 ^ 18 + code c.kind * 2 ^ 16 +
               (if ∃ v ∈ u.rows, v.acc = a.toNat then 4 else 0) + (if c.dirty then 2 else 0) + 1
           | none, some c => c.lastTag.toNat * 2 ^ 32 + free * 2 ^ 28 + c.owner * 2 ^ 18 + code c.kind * 2 ^ 16
           | none, none => free * 2 ^ 28)) ∧
  (∀ (s : State) (tile : Nat) (x : Entry) (e a : BitVec 4) (q : BitVec 5) (y : Ty) (rs : BitVec 2) (p : BitVec 1) (b : SBuf),
     s.running tile = true → let u := (s.tileAt tile).passAhead e.toNat
     u.array = some x → x.word = .mmul e q a y rs p ∨ x.word = .mmulz e q a y rs p → u.sbs.find e.toNat = some b →
     (u.plane p.toNat).st = 2 → let n := rowBytesOf y (u.plane p.toNat).depth
     u.replayDue = false → b.canTake n = true → s.sbPoisoned tile b b.cp n = false →
     ∃ t v, exec (.streamBufferFire tile .m 0) s = .next t ∧ (t.tileAt tile).rows = u.rows ++ [v] ∧
       v.act = s.sbBytes tile b b.cp n ∧ v.acc = a.toNat ∧ v.row = rowFirst x.b + x.prog ∧ v.tag = u.rtag ∧
       (t.tileAt tile).rtag = u.rtag + 1 ∧ (t.tileAt tile).sbs.find e.toNat = some { b with cp := b.cp + BitVec.ofNat 32 n } ∧
       ∀ k, t.byte k = s.byte k) ∧
  (∀ (s : State) (tile : Nat) (v : Row) (r : List Row) (c : Acc), let u := s.tileAt tile
     u.rows = v :: r → u.accs.find v.acc = some c → let pl := u.plane v.plane
     pairKind pl.fmt v.ty = some .i32 → pl.depth ≤ 128 →
     ∃ t, exec (.arrayRowExit tile) s = .next t ∧ (t.tileAt tile).rows = r ∧
       (∀ j, j < 128 → elem 32 ((t.tileAt tile).slotRow c.slot v.row).toNat j =
         let old := if v.zero then 0 else sext (elem 32 (u.slotRow c.slot v.row).toNat j) 32
         let sum := fun (first k : Nat) => (List.range k).foldl (fun (z : Int) i =>
           z + intOf v.ty (elem v.ty.ew (leNat v.act) (first + i)) * intOf pl.fmt (elem pl.fmt.ew (pl.rows.getD (first + i) 0) j)) 0
         let sat := fun (z : Int) => max (-2 ^ 31) (min (2 ^ 31 - 1) z)
         (sat (sat (old + sum 0 (min pl.depth 64)) + sum 64 (pl.depth - 64)) % 2 ^ 32).toNat) ∧
       (t.tileAt tile).accs.find v.acc = some { c with dirty := true, lastTag := v.tag } ∧ ∀ k, t.byte k = s.byte k) ∧
  (∀ (s : State) (tile p : Nat) (x : Entry) (a : BitVec 5) (y : Ty) (d : BitVec 4) (q : BitVec 1) (bs : List Byte) (s' : State),
     s.running tile = true → p ≤ 1 → ((s.tileAt tile).plane p).load = some x → x.word = .mldw a y d q →
     (s.planeRead tile x y (8 * (d.toNat + 1)) whole = .ok (s', bs) →
       ∃ t, exec (.planeLoadComplete tile p) s = .next t ∧ ((t.tileAt tile).plane p).st = 2 ∧ ((t.tileAt tile).plane p).fmt = y ∧
         ((t.tileAt tile).plane p).depth = 8 * (d.toNat + 1) ∧ ((t.tileAt tile).plane p).bytes = bs ∧
         (∀ k, x.tok = some k → k ∉ ((t.tileAt tile).taskAt x.task).waiting) ∧ ∀ k, t.byte k = s.byte k) ∧
     ∀ m, s.planeRead tile x y (8 * (d.toNat + 1)) m = .ok (s', bs) → bs.length < recordBytes y (8 * (d.toNat + 1)) →
       ∃ t, s.planePart tile p m = .next t ∧ ((t.tileAt tile).plane p).st = ((s.tileAt tile).plane p).st ∧
         ((t.tileAt tile).plane p).load = some { x with inb := clean bs } ∧ ∀ k, t.byte k = s.byte k) ∧
  ((∀ (s : State) (tile n : Nat) (x : Entry) (r : List Entry) (o : BitVec 1) (e a : BitVec 4) (b : BitVec 5) (k : AKind) (c : Acc) (y : Ty)
     (md : Rnd), AtHead s tile .m x r → let u := s.tileAt tile
     u.replaying = false → u.settled a.toNat = true → rowCount x.b ≠ 0 → u.accs.find a.toNat = some c →
     (x.word = .mlda e b a k → x.stage = 0 → let want := if k = .f32 then Ty.f32 else .i32
       ((∀ q, u.sbs.find e.toNat = some q → q.ty = want) → ∃ t, exec (.engineQueueHeadIssue tile .m n) s = .next t ∧
         (t.tileAt tile).mq = { x with stage := 1 } :: r ∧ (t.tileAt tile).accs.find a.toNat = some { c with kind := k }) ∧
       ∀ q, u.sbs.find e.toNat = some q → q.ty ≠ want → ∃ t, exec (.engineQueueHeadIssue tile .m n) s = .next t ∧
         HeadFaults s t tile .m x r ⟨.formatMismatch, 0, .read, 0⟩) ∧
     (x.word = .mrd o e b a y md ∨ x.word = .mrds o e b a y md →
       let ok := if c.kind = .cpx then y = .i32 ∨ y.isCpx = true else y.isCpx = false ∧ y ≠ .cb4
       (ok → ∃ t, exec (.engineQueueHeadIssue tile .m n) s = .next t ∧ (t.tileAt tile).mq = r ∧ (t.tileAt tile).conv = some { x with
         acc := some ⟨some c.kind, (List.range (rowCount x.b)).map fun i => u.slotRow c.slot (rowFirst x.b + i)⟩ }) ∧
       (¬ ok → ∃ t, exec (.engineQueueHeadIssue tile .m n) s = .next t ∧
         HeadFaults s t tile .m x r ⟨.formatMismatch, 0, .read, 0⟩))) ∧
   (∀ (s : State) (tile : Nat) (x : Entry) (r : List Entry) (e a : BitVec 4) (b : BitVec 5) (k : AKind) (c : Acc) (q : SBuf),
     s.running tile = true → (s.tileAt tile).mq = x :: r → x.word = .mlda e b a k → x.stage ≠ 0 → (s.tileAt tile).replaying = false →
     let u := (s.tileAt tile).passAhead e.toNat
     u.sbs.find e.toNat = some q → u.accs.find a.toNat = some c → q.canTake 512 = true → s.sbPoisoned tile q q.cp 512 = false →
     ∃ t, exec (.streamBufferFire tile .m 2) s = .next t ∧
       (∀ i, i < 512 → elem 8 ((t.tileAt tile).slotRow c.slot (rowFirst x.b + x.prog)).toNat i = (s.byte (q.loc tile q.cp i)).toNat) ∧
       (t.tileAt tile).accs.find a.toNat = some { c with dirty := true } ∧
       (t.tileAt tile).sbs.find e.toNat = some { q with cp := q.cp + 512 } ∧
       (t.tileAt tile).mq = (if rowCount x.b ≤ x.prog + 1 then r else { x with prog := x.prog + 1 } :: r) ∧ ∀ l, t.byte l = s.byte l) ∧
   ∀ (s : State) (tile : Nat) (x : Entry) (o : BitVec 1) (e a : BitVec 4) (b : BitVec 5) (y : Ty) (md : Rnd) (k : AKind)
     (rows : List (BitVec 4096)) (q : SBuf) (scale : Option Nat), s.running tile = true → let u := s.tileAt tile
     u.conv = some x → (x.word = .mrd o e b a y md ∧ scale = none ∨ x.word = .mrds o e b a y md ∧ scale = some (x.b.toNat / 2 ^ 32)) →
     x.acc = some ⟨some k, rows⟩ → u.replayDue = false → u.sbs.find e.toNat = some q →
     let w := if y.isCpx then partBits y else y.ew
     q.canPut (16 * w) = true → ∃ t, exec (.streamBufferFire tile .m 1) s = .next t ∧
       (t.tileAt tile).sbs.find e.toNat = some { q with pp := q.pp + BitVec.ofNat 32 (16 * w) } ∧
       (t.tileAt tile).conv = (if rowCount x.b ≤ x.prog + 1 then none else some { x with prog := x.prog + 1 }) ∧
       (q.pp.toNat + 16 * w ≤ 2 ^ 32 ∨ 2 ^ 32 % q.size = 0 → ∃ bs : List Byte, bs.length = 16 * w ∧
         (∀ i, i < 16 * w → t.byte (q.loc tile q.pp i) = bs.getD i 0) ∧
         ∀ j, j < 128 → let z := elem 32 (rows.getD x.prog 0).toNat j
           let v := if k = .f32 then valOf .f32 z else FVal.ofInt (sext z 32)
           ∃ draw, elem w (leNat bs) j =
             (roundTo y md true (match scale with
               | none => v
               | some f => (v.mul (valOf .f32 f)).1) draw).bits % 2 ^ w))

/-- R74: a word whose guard is false is discarded at the head of its queue: its token completes, a register that it would
have written is no longer pending and keeps its value, and nothing else happens. R380, R376: the oldest engine fault is
delivered to the task that pushed its word, when no trap is held and the task awaits no answer of another tile: the entry of
R377 with SRC naming the engine and TPC the word where the task stands. -/
def Obligations.DiscardsAndFaults : Prop :=
  (∀ (s : State) (tile n : Nat) (e : Eng) (x : Entry) (r : List Entry), s.running tile = true →
     (s.tileAt tile).queue e = x :: r → x.faulted = false → x.held = false → x.deps = [] →
     ((s.tileAt tile).taskAt x.task).pPending x.guard.p = false → ((s.tileAt tile).taskAt x.task).guard x.guard = false →
     (∀ d a b, x.word ≠ .post d a b) → (∀ q d a b, x.word ≠ .copym q d a b) →
     ∃ t, exec (.engineQueueHeadIssue tile e n) s = .next t ∧ (t.tileAt tile).queue e = r ∧
       (∀ k, x.tok = some k → k ∉ ((t.tileAt tile).taskAt x.task).waiting) ∧
       (∀ q, ((t.tileAt tile).taskAt x.task).sget q = ((s.tileAt tile).taskAt x.task).sget q ∧
         ((pendingDst x.word).1 = some q → ((t.tileAt tile).taskAt x.task).sPending q = false)) ∧
       (t.tileAt tile).vs = (s.tileAt tile).vs ∧ (∀ a, t.byte a = s.byte a) ∧ { t with tiles := s.tiles } = s) ∧
  (∀ (s : State) (tile : Nat) (f : EFault) (r : List EFault), (s.tileAt tile).faults = f :: r → f.task < 4 →
     ((s.tileAt tile).taskAt f.task).asked ≠ .out → (s.tileAt tile).trap.busy = false → s.running tile = true →
     (s.tileAt tile).trap.tvec ≠ 0 → ∃ t, exec (.engineFaultDelivery tile) s = .next t ∧ (t.tileAt tile).faults = r ∧ (t.tileAt tile).trap.busy = true ∧
       (t.tileAt tile).trap.tcause = f.info.cause.code ∧ (t.tileAt tile).trap.taddr = f.info.addr ∧
       (t.tileAt tile).trap.src.toNat = f.eng.code + 1 ∧ (t.tileAt tile).trap.tpc = ((s.tileAt tile).taskAt f.task).pc ∧
       ((t.tileAt tile).taskAt f.task).pc = (s.tileAt tile).trap.tvec ∧ ((t.tileAt tile).taskAt f.task).level = .supervisor)

/-! ### Streams, copies, packets, parcels on their way -/

/-- R188, R218: VPUSH fires when its buffer has room for a register, VPOP and VPEEK when it holds one: the bytes of the
register land at PP and PP advances by 512; the register receives the bytes at CP, and VPOP alone advances CP. Where the word
at the head of C has taken a request from the buffer of which CP has not passed all, CP passes it first (R275). R223: STPOS
and STRST at the head of C move a defined stream to a position and to its start; a stream that is not defined traps
TENSOR_BOUNDS, and the fault waits for delivery at the word. -/
def Obligations.Streams : Prop :=
  (∀ (s : State) (tile k : Nat) (x : Entry) (r : List Entry) (d : BitVec 5) (n : BitVec 4) (b : SBuf), AtHead s tile .v x r →
     ((s.tileAt tile).sbs.find n.toNat = some b → x.word = .vpush d n → b.fill + 512 ≤ b.size → ∃ t, exec (.streamBufferFire tile .v k) s = .next t ∧
       (t.tileAt tile).sbs.find n.toNat = some { b with pp := b.pp + 512 } ∧ (t.tileAt tile).vq = r ∧
       (b.pp.toNat + 512 ≤ 2 ^ 32 ∨ 2 ^ 32 % b.size = 0 →
         ∀ i, i < 512 → t.byte (b.loc tile b.pp i) = BitVec.ofNat 8 (elem 8 ((s.tileAt tile).vget x.win d.toNat).toNat i))) ∧
     (((s.tileAt tile).passAhead n.toNat).sbs.find n.toNat = some b → x.word = .vpop d n ∨ x.word = .vpeek d n → max 512 b.fireBytes ≤ b.fill → s.sbPoisoned tile b b.cp 512 = false →
       ∃ t, exec (.streamBufferFire tile .v k) s = .next t ∧ (t.tileAt tile).vq = r ∧
       (∀ i, i < 512 → elem 8 ((t.tileAt tile).vget x.win d.toNat).toNat i = (s.byte (b.loc tile b.cp i)).toNat) ∧
       (t.tileAt tile).sbs.find n.toNat = some (if x.word = .vpop d n then { b with cp := b.cp + 512 } else b) ∧
       ∀ a, t.byte a = s.byte a)) ∧
  (∀ (s : State) (tile k : Nat) (x : Entry) (r : List Entry) (n : BitVec 3) (a : BitVec 5), AtHead s tile .c x r →
     (∀ d, (s.tileAt tile).sts.find n.toNat = some d →
       (x.word = .stpos n a → ∃ t, exec (.engineQueueHeadIssue tile .c k) s = .next t ∧ (t.tileAt tile).cq = r ∧
         (t.tileAt tile).sts.find n.toNat = some { d with k := x.a.toNat, o := 0, kept := [] }) ∧
       (x.word = .strst n → ∃ t, exec (.engineQueueHeadIssue tile .c k) s = .next t ∧ (t.tileAt tile).cq = r ∧
         (t.tileAt tile).sts.find n.toNat = some { d with k := 0, o := 0, kept := [] })) ∧
     ((s.tileAt tile).sts.find n.toNat = none → x.word = .strst n →
       ∃ t, exec (.engineQueueHeadIssue tile .c k) s = .next t ∧ HeadFaults s t tile .c x r ⟨.tensorBounds, 0, .read, 0⟩))

/-- R224, R218, R274, R275: a piece of a COPY from one buffer to another lands: at most 64 bytes, up to a 64-byte boundary of
the destination, move in order to PP of the destination, which advances, and CP of the source moves on by the piece, but for
bytes that it has passed before. The source gives its bytes by requests of its fire bytes, or of what the word still needs
when that is less; a piece that the bytes already taken cover takes none, and where the next request must wait, CP passes
what is left of the last (log 61, the model's choice). R224, R226, R271: when every byte of a COPY has landed its counter
receives the byte count and its token completes; a counter in another tile's SRAM receives it by a request, whose answer ends
the word. When every byte of a COPYM has landed its follow-on word is filled. R217, R219-R223: SBDEF and STDEF at the head of
C read their records and define the buffer or the stream, whose tensor id goes through the map of the cast-on; STDIM changes
one dimension of a LINEAR stream and moves it to its start. A field outside its limits traps ILLEGAL_ENCODING at the record,
a base that is no multiple of 64 MISALIGNED, an id that the map does not name TENSOR_BOUNDS. R228-R232, R274: CQNT, CEXP and
CCVT begin when their operands pass their checks, and CFILL too. From one buffer to another: CQNT makes one record of 64
elements, which goes out as one request; CEXP of CB4 gathers the 64 elements of a block of 48 bytes; CCVT of integers
saturates the elements of a piece; CFILL repeats the bytes of S(b). The destination moves on by what has landed. -/
def Obligations.Copies : Prop :=
  (∀ (s : State) (tile : Nat) (x : Entry) (r : List Entry) (i j : BitVec 4) (a b : BitVec 5) (p q : SBuf),
     s.running tile = true → (s.tileAt tile).cq = x :: r → x.faulted = false → x.stage = 1 → x.out = [] → x.put = 0 →
     x.word = .copy (16 + i.setWidth 5) (16 + j.setWidth 5) a b → i ≠ j → x.prog < x.a.toNat →
     (s.tileAt tile).sbs.find i.toNat = some p → (s.tileAt tile).sbs.find j.toNat = some q →
     let left := x.a.toNat - x.prog
     let m := min left (64 - q.pp.toNat % 64)
     let n := min p.fireBytes (left - x.inb.length)
     let ahead := x.inb.length - x.own
     let lands := fun (t : State) (piece : Nat → Byte) =>
       (∀ k, k < m → t.byte (q.loc tile q.pp k) = piece k) ∧
       (∀ l, (∀ k, k < m → l ≠ q.loc tile q.pp k) → t.byte l = s.byte l) ∧
       (t.tileAt tile).sbs.find i.toNat = some { p with cp := p.cp + BitVec.ofNat 32 (m - x.own) } ∧
       (t.tileAt tile).sbs.find j.toNat = some { q with pp := q.pp + BitVec.ofNat 32 m } ∧
       ∃ y, (t.tileAt tile).cq = y :: r ∧ y.prog = x.prog + m
     let got := fun k => if k < x.inb.length then (x.inb.getD k (0, false)).1 else s.byte (p.loc tile p.cp (ahead + (k - x.inb.length)))
     (q.fill + m ≤ q.size → m ≤ x.inb.length → ∃ t, exec (.copyPieceLand tile) s = .next t ∧ lands t got) ∧
     (x.inb.length < m → ahead + n ≤ p.fill →
       (q.fill + m ≤ q.size → m ≤ x.inb.length + n → ∃ t, exec (.copyPieceLand tile) s = .next t ∧ lands t got) ∧
       (x.inb.length + n < m → ∃ t, exec (.copyPieceLand tile) s = .next t ∧ (t.tileAt tile).sbs = (s.tileAt tile).sbs ∧
         (∀ l, t.byte l = s.byte l) ∧ ∃ y, (t.tileAt tile).cq = y :: r ∧ y.prog = x.prog ∧ y.inb.length = x.inb.length + n ∧
           ∀ k, k < y.inb.length → (y.inb.getD k (0, false)).1 = got k)) ∧
     (x.inb.length < m → p.fill < ahead + n → 0 < ahead → ∃ t, exec (.copyPieceLand tile) s = .next t ∧
       (t.tileAt tile).sbs.find i.toNat = some { p with cp := p.cp + BitVec.ofNat 32 ahead } ∧ (∀ l, t.byte l = s.byte l) ∧
       ∃ y, (t.tileAt tile).cq = y :: r ∧ y.prog = x.prog ∧ y.inb = x.inb ∧ y.own = x.inb.length)) ∧
  (∀ (s : State) (tile : Nat) (x : Entry) (r : List Entry), s.running tile = true → (s.tileAt tile).cq = x :: r →
     x.faulted = false →
     (∀ loc, x.stage = 2 → spaceOf x.b ≠ 0x803 → spaceOf x.b ≠ 0x804 → s.resolve (s.whoOf tile x) x.b 8 .amo = .ok loc →
       (elsewhere tile loc = false → (s.admitAt tile loc 8).isOk = true → s.poisoned loc 8 = false →
         ∃ t, exec (.copyCounterAdd tile) s = .next t ∧
           t.readNat loc 8 = (s.readNat loc 8 + x.a.toNat) % 2 ^ 64 ∧ (t.tileAt tile).cq = r ∧
           (∀ a, a < loc ∨ loc + 8 ≤ a → t.byte a = s.byte a) ∧
           ∀ k, x.tok = some k → k ∉ ((t.tileAt tile).taskAt x.task).waiting) ∧
       (elsewhere tile loc = true → s.bufferFree tile = true → ∃ t, exec (.copyCounterAdd tile) s = .next t ∧
         t.pkts = s.pkts ++ [.req tile x.task (.add x.a.toNat) loc (.word x.uid 0) (portOf loc) [] []] ∧
         (t.tileAt tile).cq = { x with stage := 4, out := [0] } :: r ∧ ∀ a, t.byte a = s.byte a)) ∧
     (x.stage = 3 → ∃ t, exec (.copymFollowOnFill tile) s = .next t ∧
       (∀ e ∈ (t.tileAt tile).mq, e.uid = x.uid + 1 → e.held = false) ∧ ∀ a, t.byte a = s.byte a)) ∧
  (∀ (s s' : State) (tile n : Nat) (x : Entry) (r : List Entry) (a b : BitVec 5) (bs : List Byte), AtHead s tile .c x r →
     let u := s.tileAt tile
     let faults := fun (c : Cause) (w : Word) =>
       ∃ t, exec (.engineQueueHeadIssue tile .c n) s = .next t ∧ HeadFaults s t tile .c x r ⟨c, w, .read, 0⟩
     (∀ e : BitVec 4, x.word = .sbdef e a b → s.record (s.whoOf tile x) x.a = .ok (s', bs) →
       let size := field bs 4 4
       let fire := field bs 8 4
       ∀ ty, Ty.ofCode (field bs 0 1) = some ty →
       let ok := field bs 1 1 = 0 ∧ field bs 12 52 = 0 ∧ size % 64 = 0 ∧ 64 ≤ size ∧ size ≤ Config.sramBytes ∧ fire ≠ 0 ∧
         fire ≤ size * 8 / ty.ew
       (ok → x.b.toNat % 64 = 0 → x.b.toNat + size ≤ Config.sramBytes →
         ∃ t, exec (.engineQueueHeadIssue tile .c n) s = .next t ∧ (t.tileAt tile).cq = r ∧ (∀ l, t.byte l = s.byte l) ∧
           (t.tileAt tile).sbs.find e.toNat =
             some { ty := ty, qthr := BitVec.ofNat 16 (field bs 2 2), size := size, fire := fire, base := x.b.toNat }) ∧
       (ok → x.b.toNat % 64 ≠ 0 → faults .misaligned x.b) ∧ (¬ ok → faults .illegalEncoding x.a)) ∧
     (∀ e : BitVec 3, x.word = .stdef e a b → s.record (s.whoOf tile x) x.a = .ok (s', bs) →
       let slot := (u.node.map Prod.fst).getD 0
       let map := (s.ctxAt (u.ctx.getD 0)).tmap.get [] slot
       let defines := fun (d : AStream) => ∃ t, exec (.engineQueueHeadIssue tile .c n) s = .next t ∧ (t.tileAt tile).cq = r ∧
         (∀ l, t.byte l = s.byte l) ∧ (t.tileAt tile).sts.find e.toNat = some { d with kept := [] }
       (streamOf bs x.b = none → faults .illegalEncoding x.a) ∧
       ∀ d, streamOf bs x.b = some d →
         (d.tensor = false → defines d) ∧
         (d.tensor = true → x.b = 0 → d.entry ∈ map → defines { d with base := 0, entry := 64 * slot + d.entry }) ∧
         (d.tensor = true → x.b = 0 → d.entry ∉ map → faults .tensorBounds (BitVec.ofNat 64 d.entry))) ∧
     ∀ e : BitVec 3, x.word = .stdim e a b → ∀ d, u.sts.find e.toNat = some d → d.tensor = false → let i := x.a.toNat % 8
       (i ≤ 4 → ∃ t, exec (.engineQueueHeadIssue tile .c n) s = .next t ∧ (t.tileAt tile).cq = r ∧ (∀ l, t.byte l = s.byte l) ∧
         (t.tileAt tile).sts.find e.toNat = some { d with ext := d.ext.set i (x.a.toNat / 2 ^ 32)
                                                          stride := d.stride.set i (sext x.b.toNat 32)
                                                          ndim := max d.ndim (i + 1), k := 0, o := 0, kept := [] }) ∧
       (4 < i → faults .illegalEncoding x.a)) ∧
  ((∀ (s : State) (tile n : Nat) (x : Entry) (r : List Entry) (i j a b : BitVec 5), AtHead s tile .c x r → x.stage = 0 →
     let begins := ∃ t, exec (.engineQueueHeadIssue tile .c n) s = .next t ∧ (∀ l, t.byte l = s.byte l) ∧
       (t.tileAt tile).cq = if x.a = 0 then r else { x with stage := 1 } :: r
     (x.word ∈ [Instr.cqnt i j a b, .cexp i j a b, .ccvt i j a b] →
       (∀ c, s.ctlChecked tile x i.toNat j.toNat = .ok c → begins) ∧
       (x.b.toNat / 2 ^ 52 ≠ 0 → ∃ t, exec (.engineQueueHeadIssue tile .c n) s = .next t ∧
         HeadFaults s t tile .c x r ⟨.illegalEncoding, x.b, .read, 0⟩)) ∧
     (x.word = .cfill i a b → (escapes x.b = false → begins) ∧
       (escapes x.b = true → ∃ t, exec (.engineQueueHeadIssue tile .c n) s = .next t ∧
         HeadFaults s t tile .c x r ⟨.parcelEscape, x.b, .read, 0⟩))) ∧
   ∀ (s : State) (tile : Nat) (x : Entry) (r : List Entry) (i j : BitVec 4) (a b : BitVec 5) (p q : SBuf) (c : Ctl),
     s.running tile = true → (s.tileAt tile).cq = x :: r → x.faulted = false → x.stage = 1 → x.out = [] → x.put = 0 → x.aux = [] →
     i ≠ j → x.prog < x.a.toNat → (s.tileAt tile).sbs.find i.toNat = some p → (s.tileAt tile).sbs.find j.toNat = some q →
     let src := 16 + i.setWidth 5
     let dst := 16 + j.setWidth 5
     let left := x.a.toNat - x.prog
     let lands := fun (bs : List Byte) (more : Nat) => q.fill + bs.length ≤ q.size →
       (q.pp.toNat + bs.length ≤ 2 ^ 32 ∨ 2 ^ 32 % q.size = 0) → ∃ t, exec (.copyPieceLand tile) s = .next t ∧
         (∀ k, k < bs.length → t.byte (q.loc tile q.pp k) = bs.getD k 0) ∧
         (t.tileAt tile).sbs.find j.toNat = some { q with pp := q.pp + BitVec.ofNat 32 bs.length } ∧
         ∃ y, (t.tileAt tile).cq = y :: r ∧ y.prog = x.prog + more
     (x.word = .cfill dst a b → let m := min left (64 - q.pp.toNat % 64)
       lands ((List.range m).map fun k => BitVec.ofNat 8 (elem 8 x.b.toNat ((x.prog + k) % 8))) m) ∧
     (s.ctlChecked tile x src.toNat dst.toNat = .ok c → let img := leNat (rawBytes x.inb)
       (x.word = .cqnt src dst a b → 64 * c.sty.ew / 8 ≤ x.inb.length →
         lands (quantBlock p.qthr c.sty c.dty ((List.range 64).map (elem c.sty.ew img))).1 64) ∧
       (x.word = .cexp src dst a b → c.sty = .cb4 → 48 ≤ x.inb.length → ∃ t, exec (.copyPieceLand tile) s = .next t ∧
         (∀ l, t.byte l = s.byte l) ∧ ∃ y, (t.tileAt tile).cq = y :: r ∧ y.prog = x.prog + 64 ∧
           y.aux.length = 64 * c.dty.ew / 8 ∧ ∀ k, k < 64 → ∃ draw, elem c.dty.ew (leNat (rawBytes y.aux)) k =
             (roundTo c.dty c.rnd c.sat ((cb4Val (elem 4 img k)).mul (blockScale (elem 8 img 32) c.s)).1 draw).bits % 2 ^ c.dty.ew) ∧
       (x.word = .ccvt src dst a b → c.sty.isInt = true → c.dty.isInt = true → 8 ≤ c.sty.ew → 8 ≤ c.dty.ew → q.pp.toNat % 64 = 0 →
         let m := min left (512 / c.dty.ew)
         m * c.sty.ew / 8 ≤ x.inb.length → ∃ bs : List Byte, bs.length = m * c.dty.ew / 8 ∧ lands bs m ∧
           ∀ k, k < m → elem c.dty.ew (leNat bs) k =
             (max (intLo c.dty) (min (intHi c.dty) (intOf c.sty (elem c.sty.ew img k))) % 2 ^ c.dty.ew).toNat)))

/-- R271, R311, R282: a request that has arrived where its location is, and that a slice port admits, performs there: a load
reads, a store writes, and its response or acknowledgement takes its place on the network. R311, R121, R84: a response to a
load lands in its register, extended, and its access leaves the scalar stream; so does the access of a store at its
acknowledgement. R235, R239: LCNT at the head of L sets the link counter of its task to an aligned address; an RFENCE with no
earlier L word of its task open completes. R154, R235, R236, R237, R320: the counter message of an RST is translated at its
target and adds the byte count of its RST there; the add of an RLD or of a POST goes to the location that its counter already
has, of an RLD once no add of an earlier RLD of its task is on its way, and in another tile's SRAM, where it keeps its place
on VC0, it is acknowledged. R234, R236-R238, R312: what RLD, RST and RAMO do at the head of L toward their own package. RLD
and RST pass the checks of their operands first. Then each request covers what is left, up to a 256-byte boundary of the
target and a run of its locations: an RLD takes a request slot of the target's port and asks for the bytes, an RST takes in
its source bytes and sends them, or the progress is kept until it holds them all; with its last request the word leaves the
queue. A RAMO reads its record and sends its request. R241-R243, R391-R395: LEASE.ASK takes the next sequence number, and one
that can get nothing resolves at once, 4 for no lanes or no peer, 5 for a dead peer, 2 for no quota; its outcome joins
LEASEQ, and the add of its counter is to follow; any other takes the free positions that it may and waits for its lanes.
LEASE.GIVE gives lanes back, the newest first. LEASE.STAT and FSTAT write their records at a LOCAL address. FCTL queues its
word on the sideband of a bound port, and traps PORT_UNBOUND at another. -/
def Obligations.PacketsPerform : Prop :=
  (∀ (s : State) (k t j loc home : Nat) (op : MemOp) (d : Dest) (way : List (Nat × Nat × Nat)) (flits : List Flit),
     s.pkts[k]? = some (.req t j op loc d home way flits) → s.arrived k t loc way flits = true →
     (s.admitAt t loc op.size).isOk = true →
     (∀ n sg, op = .load n sg → s.poisoned loc n = false → ∃ u, exec (.remoteRequestArrival k) s = .next u ∧
       u.pkts = s.pkts.eraseIdx k ++ [.resp t j (clean (s.bytesAt loc n)) d home sg] ∧ ∀ a, u.byte a = s.byte a) ∧
     ∀ bs, op = .store bs → ∃ u, exec (.remoteRequestArrival k) s = .next u ∧
       u.pkts = s.pkts.eraseIdx k ++ [.ack t j d] ∧ (∀ i (h : i < bs.length), u.byte (loc + i) = bs[i]) ∧
       ∀ a, a < loc ∨ loc + bs.length ≤ a → u.byte a = s.byte a) ∧
  (∀ (s : State) (k t j home : Nat) (bs : List PByte) (d : BitVec 5) (sg : Bool) (ans : PeerAns),
     (s.pkts[k]? = some (.resp t j bs (.reg d) home sg) → ∃ u, exec (.remoteResponseLanding k ans) s = .next u ∧
       u.pkts = s.pkts.eraseIdx k ∧ ((u.tileAt t).taskAt j).stream = ((s.tileAt t).taskAt j).stream.drop 1 ∧
       (d ≠ 0 → ((u.tileAt t).taskAt j).sget d = extend bs.length sg (leNat (rawBytes bs)) ∧
         ((u.tileAt t).taskAt j).sPending d = false) ∧ ∀ a, u.byte a = s.byte a) ∧
     (s.pkts[k]? = some (.ack t j (.reg d)) → ∃ u, exec (.writeAckLanding k ans) s = .next u ∧
       u.pkts = s.pkts.eraseIdx k ∧ ((u.tileAt t).taskAt j).stream = ((s.tileAt t).taskAt j).stream.drop 1 ∧
       ∀ a, u.byte a = s.byte a)) ∧
  (∀ (s : State) (tile n : Nat) (x : Entry) (r : List Entry) (a : BitVec 5) (sc : Scope), AtHead s tile .l x r →
     (∀ e ∈ r, e.uid ≠ x.uid) → (s.tileAt tile).air = [] →
     (x.word = .lcnt a → x.a.toNat % 8 = 0 → ∃ t, exec (.engineQueueHeadIssue tile .l n) s = .next t ∧
       ((t.tileAt tile).taskAt x.task).link = x.a ∧ (t.tileAt tile).lq = r) ∧
     (x.word = .lcnt a → x.a.toNat % 8 ≠ 0 → ∃ t, exec (.engineQueueHeadIssue tile .l n) s = .next t ∧
       (t.tileAt tile).faults = (s.tileAt tile).faults ++ [⟨.l, x.task, x.uid, ⟨.misaligned, x.a, .read, 0⟩, false⟩]) ∧
     (x.word = .rfence sc → ∃ t, exec (.engineQueueHeadIssue tile .l n) s = .next t ∧ (t.tileAt tile).lq = r ∧
       ∀ k, x.tok = some k → k ∉ ((t.tileAt tile).taskAt x.task).waiting)) ∧
  (∀ (s : State) (k t j uid n loc : Nat) (a : Word) (x : Entry), s.pkts[k]? = some (.counter t j uid a n) →
     (s.tileAt t).findL uid = some x → s.poisoned loc 8 = false → (s.admitAt t loc 8).isOk = true →
     (elsewhere t loc = true → s.inOrder k t ((sramTile loc).getD t) = true) →
     (isRst x.word = true → s.resolve (s.whoOf t x) a 8 .amo = .ok loc →
       ∃ u, exec (.rstCounterMessage k) s = .next u ∧ u.readNat loc 8 = (s.readNat loc 8 + n) % 2 ^ 64 ∧
         u.pkts = s.pkts.eraseIdx k ++ [.ack t j (.word uid n)] ∧ ∀ b, b < loc ∨ loc + 8 ≤ b → u.byte b = s.byte b) ∧
     (isRst x.word = false → loc = a.toNat → (isRld x.word = true →
         ∀ i v b m e, i < k → s.pkts[i]? = some (.counter t j v b m) → (s.tileAt t).findL v = some e → isRld e.word = false) →
       ∃ u, exec (.rstCounterMessage k) s = .next u ∧ u.readNat loc 8 = (s.readNat loc 8 + n) % 2 ^ 64 ∧
         (elsewhere t loc = true → u.pkts = s.pkts.eraseIdx k ++ [.ack t j (.word x.uid n)]) ∧
         ∀ b, b < loc ∨ loc + 8 ≤ b → u.byte b = s.byte b)) ∧
  (∀ (s : State) (tile n : Nat) (x : Entry) (r : List Entry) (a b c : BitVec 5) (sc : Scope) (f : BitVec 3), AtHead s tile .l x r →
     let u := s.tileAt tile
     (∀ e ∈ r ++ u.air, e.uid ≠ x.uid) → u.acquiring x.task = false →
     let count := x.c.toNat % 2 ^ 32
     let pkg := if 5 ≤ sc.code then x.c.toNat / 2 ^ 40 % 2 ^ 8 else s.pkg.toNat
     let addr := x.a + BitVec.ofNat 64 x.prog
     let k := min (count - x.prog) (256 - addr.toNat % 256)
     let sends := fun (t : State) (op : MemOp) (loc m : Nat) => (∃ way flits, t.pkts = s.pkts ++
         [.req tile x.task op loc (.word x.uid x.prog) (portOf loc) way flits]) ∧
       ∃ y : Entry, (if x.prog + m < count then (t.tileAt tile).lq = y :: r else (t.tileAt tile).lq = r ∧ y ∈ (t.tileAt tile).air) ∧
         y.uid = x.uid ∧ y.prog = x.prog + m ∧ y.out = x.out ++ [x.prog]
     let clean := x.c.toNat / 2 ^ 32 % 2 ^ 8 = 0 ∧ x.c.toNat / 2 ^ 48 = 0 ∧ (sc.code < 5 → x.c.toNat / 2 ^ 40 % 2 ^ 8 = 0)
     let faults := fun (i : TrapInfo) => ∃ t, exec (.engineQueueHeadIssue tile .l n) s = .next t ∧ HeadFaults s t tile .l x r i
     (x.word = .rld a b c sc → x.stage = 0 →
       (clean → count ≠ 0 → pkg = s.pkg.toNat → x.b.toNat / 2 ^ 52 = 0x800 → x.b.toNat % 2 ^ 52 + count ≤ Config.sramBytes → x.prog = 0 →
         ∀ ctr, s.linkCounter tile x = .ok ctr → ∃ t, exec (.engineQueueHeadIssue tile .l n) s = .next t ∧
           ∃ e, (t.tileAt tile).lq = { x with stage := 1, ctr := ctr, era := e } :: r) ∧
       (¬ clean → faults ⟨.illegalEncoding, x.c, .read, 0⟩) ∧
       (clean → x.b.toNat / 2 ^ 52 ≠ 0x800 → faults ⟨.apertureMiss, x.b, .write, 0⟩)) ∧
     (x.word = .rst a b c sc → x.stage = 0 →
       (clean → count ≠ 0 → pkg = s.pkg.toNat → x.prog = 0 → ∃ t, exec (.engineQueueHeadIssue tile .l n) s = .next t ∧
         (let l := (u.taskAt x.task).link
          (t.tileAt tile).lq = { x with stage := 1, ctr := if l = 0 then none else some l.toNat } :: r) ∧ ∀ l, t.byte l = s.byte l) ∧
       (¬ clean → faults ⟨.illegalEncoding, x.c, .read, 0⟩)) ∧
     (x.stage = 1 → x.fail = none → x.prog < count → pkg = s.pkg.toNat →
       (∀ ls, x.word = .rld a b c sc → s.targetLocs tile x addr k .read = .ok ls → u.slotsUsed.get 0 (portOf (ls.headD 0)) < 8 →
         ∃ t, exec (.engineQueueHeadIssue tile .l n) s = .next t ∧ sends t (.move (runLen ls)) (ls.headD 0) (runLen ls) ∧
           ∀ l, t.byte l = s.byte l) ∧
       ∀ s' y, x.word = .rst a b c sc → s.rstFill tile x k n = .ok (s', y) →
         (y.inb.length < k → ∃ t, exec (.engineQueueHeadIssue tile .l n) s = .next t ∧ (t.tileAt tile).lq = y :: r) ∧
         ∀ ls, k ≤ y.inb.length → s'.pkts = s.pkts → escapesIn addr (y.inb.take k) = false → s'.targetLocs tile x addr k .write = .ok ls →
           ∃ t, exec (.engineQueueHeadIssue tile .l n) s = .next t ∧ sends t (.put ((y.inb.take k).take (runLen ls))) (ls.headD 0) (runLen ls)) ∧
     (x.word = .ramo a b c sc f → ∀ loc, let w := if f.getLsbD 0 then Wd.d64 else .w32
       let at_ := sramLoc tile (x.c.toNat % 2 ^ 52)
       let op := s.readNat (at_ + 8) 1
       x.c.toNat % 16 = 0 → x.c.toNat / 2 ^ 52 = 0x800 → x.c.toNat % 2 ^ 52 + 16 ≤ Config.sramBytes → s.readNat (at_ + 10) 6 = 0 →
       (op ≤ 9 → (sc.code < 5 ∨ s.readNat (at_ + 9) 1 = s.pkg.toNat) → (w = .d64 → op = 8 ∨ op = 9 → escapes x.b = false) →
         (f.getLsbD 2 = true → x.took = 0) → s.resolve (s.whoOf tile x) x.a (wdBytes w) .amo = .ok loc →
         u.slotsUsed.get 0 (portOf loc) < 8 → ∃ t, exec (.engineQueueHeadIssue tile .l n) s = .next t ∧ (t.tileAt tile).lq = r ∧
           (t.tileAt tile).air = u.air ++ [{ x with stage := 2, out := [0] }] ∧ (∀ l, t.byte l = s.byte l) ∧ ∃ way flits, t.pkts = s.pkts ++
             [.req tile x.task (.amo op w x.b (BitVec.ofNat 64 (s.readNat at_ 8))) loc (.word x.uid 0) (portOf loc) way flits]) ∧
       (9 < op → faults ⟨.illegalEncoding, x.c, .read, 0⟩))) ∧
  (∀ (s : State) (tile n : Nat) (x : Entry) (r : List Entry) (a b d : BitVec 5), AtHead s tile .l x r →
     let u := s.tileAt tile
     (∀ e ∈ r, e.uid ≠ x.uid) → u.acquiring x.task = false →
     let c := u.ctx.getD 0
     let peer := x.a.toNat % 256
     let loc := sramLoc tile (x.b.toNat % 2 ^ 52)
     let local_ := fun (m : Nat) => x.b.toNat % m = 0 ∧ x.b.toNat / 2 ^ 52 = 0x800 ∧ x.b.toNat % 2 ^ 52 + m ≤ Config.sramBytes
     (∀ ctr, x.word = .leaseAsk a b d → s.linkCounter tile x = .ok ctr → let want := min x.b.toNat 255
       let seq := (s.ctxAt c).asks + 1
       let no := fun (status : Nat) => ∃ t, exec (.engineQueueHeadIssue tile .l n) s = .next t ∧ (t.tileAt tile).lq = r ∧
         (t.ctxAt c).asks = seq ∧ (∀ l, t.byte l = s.byte l) ∧ t.pod.lanes = s.pod.lanes ∧
         ((s.ctxAt c).leaseq.length < 16 → (t.ctxAt c).leaseq =
           (s.ctxAt c).leaseq ++ [BitVec.ofNat 64 (peer * 2 ^ 48 + want * 2 ^ 32 + status * 2 ^ 24 + seq.toNat)]) ∧
         (∀ l, ctr = some l → ∃ q, t.pod.adds = s.pod.adds ++ [q] ∧ q.ctr = some l ∧ q.ctx = c) ∧ (ctr = none → t.pod.adds = s.pod.adds)
       let real := peer ≠ s.pkg.toNat ∧ peer ∈ s.pod.members
       (want = 0 ∨ ¬ real → no 4) ∧ (want ≠ 0 → real → s.deadBit c peer = true → no 5) ∧
       (want ≠ 0 → real → s.deadBit c peer = false → s.quotaLeft c = 0 → no 2) ∧
       (want ≠ 0 → real → s.deadBit c peer = false → s.quotaLeft c ≠ 0 → ∃ t q, exec (.engineQueueHeadIssue tile .l n) s = .next t ∧
         (t.tileAt tile).lq = r ∧ (t.ctxAt c).asks = seq ∧ t.pod.asks = s.pod.asks ++ [q] ∧ q.ctx = c ∧ q.peer = peer ∧ q.want = want ∧
         q.seq = seq ∧ q.ctr = ctr ∧ q.term = max 200 (min x.c.toNat s.pod.termMax) ∧ q.moving.length ≤ min want (s.quotaLeft c) ∧
         (q.decided = true ↔ q.moving.length = want) ∧
         ∀ l ∈ q.moving, s.pod.lanes.find (laneKey peer l) = none ∧ fibreOf s.pkg.toNat peer l < s.fibres)) ∧
     (x.word = .leaseGive a b → ∃ t, exec (.engineQueueHeadIssue tile .l n) s = .next t ∧ (t.tileAt tile).lq = r ∧
       (x.b = 0 → t.pod.lanes = s.pod.lanes) ∧
       ((s.leasesTo c peer).length ≤ x.b.toNat → t.leasesTo c peer = []) ∧
       ∀ kv ∈ s.leasesTo c peer, x.b = 1 → (∀ kv' ∈ s.leasesTo c peer, kv' ≠ kv → kv'.2.since < kv.2.since) →
         t.pod.lanes = s.pod.lanes.del kv.1) ∧
     (x.word = .leaseStat a b → local_ 16 → ∃ t, exec (.engineQueueHeadIssue tile .l n) s = .next t ∧ (t.tileAt tile).lq = r ∧
       t.readNat loc 2 = ((s.pairLanes peer).filter fun kv => kv.2.active).length % 2 ^ 16 ∧
       t.readNat (loc + 2) 2 = (s.leasesTo c peer).length % 2 ^ 16 ∧
       t.readNat (loc + 4) 2 = ((s.pairLanes peer).filter fun kv => kv.2.retuning).length % 2 ^ 16 ∧
       t.readNat (loc + 6) 2 = s.quotaLeft c % 2 ^ 16 ∧ t.readNat (loc + 12) 4 = 1 ∧
       ∀ l, l < loc ∨ loc + 16 ≤ l → t.byte l = s.byte l) ∧
     let i := x.a.toNat % 4
     let g := s.regionAt (blockOf tile)
     let port := g.port (4 * quarterOf tile + i)
     (x.word = .fctl a b →
       (g.bound (4 * quarterOf tile + i) = true → port.side.length < 4 → ∃ t, exec (.engineQueueHeadIssue tile .l n) s = .next t ∧
         (t.tileAt tile).lq = r ∧ (t.regionAt (blockOf tile)).port (4 * quarterOf tile + i) =
           { port with side := port.side ++ [(if (4 * quarterOf tile + i) % 4 < 2 then port.entered else 0, x.b)] } ∧
         ∀ l, t.byte l = s.byte l) ∧
       (g.bound (4 * quarterOf tile + i) = false → ∃ t, exec (.engineQueueHeadIssue tile .l n) s = .next t ∧
         HeadFaults s t tile .l x r ⟨.portUnbound, 0, .read, 0⟩)) ∧
     (x.word = .fstat a b → local_ 32 → ∃ t, exec (.engineQueueHeadIssue tile .l n) s = .next t ∧ (t.tileAt tile).lq = r ∧
       t.readNat loc 8 = port.frames.toNat ∧ t.readNat (loc + 8) 4 = port.errs.toNat ∧
       t.readNat (loc + 12) 1 = port.fifo.length % 256 ∧
       t.readNat (loc + 13) 1 = (if g.bound (4 * quarterOf tile + i) then 1 else 0) + (if g.held then 2 else 0) ∧
       ∀ l, l < loc ∨ loc + 32 ≤ l → t.byte l = s.byte l))

/-- Something sent to a peer leaves at once: the pair has an active lane, nothing waits before it, and the replay buffer has
room (R397, R399). -/
def Sys2Proof.Claims.Flows (s : State) (peer : Nat) : Prop :=
  s.stripe peer ≠ [] ∧ (s.linkTo peer).waiting = [] ∧ 0 < s.replayRoom

/-- R147, R154: the answers of a peer that a POST of this package receives: accepted, its parcel is IN_TRANSIT; refused with
a status, the offer is gone and the parcel is OPEN again with that status; acknowledged, its offer is gone and its entry is
GONE, which is code 5. R147, R154, R155: an offer of a peer to a context with room in its arrival queue, its directory and
its heap is accepted and reserves all three; to a context that is not there it is refused (4). When its last byte has landed,
its handle joins the arrivals of the context, and the sender hears of it. -/
def Obligations.ParcelsTravel : Prop :=
  (∀ (s : State) (o : Offer) (p : Par) (status : Nat) (x : Transit), o.srcPkg = s.pkg.toNat → o.dstPkg ≠ s.pkg.toNat →
     1 ≤ (s.linkTo o.dstPkg).accepted →
     let entry := (s.ctxAt o.srcCtx).record.pdir.toNat + 32 * p.slot
     (s.transit o 0 = some x → s.parIn o.srcCtx o.handle (· == 2) = some p →
       ∃ t, exec (.parcelOfferAnswer o 0) s = .next t ∧ t.readNat (entry + 20) 1 = 3 ∧
         t.transits = s.transits.map fun y => if y = x then { x with stage := 1 } else y) ∧
     (s.parIn o.srcCtx o.handle (fun n => n == 2 || n == 3) = some p →
       (s.transit o 0 = some x → 1 ≤ status → status ≤ 4 → ∃ t, exec (.parcelOfferAnswer o status) s = .next t ∧
         t.readNat (entry + 20) 1 = 1 ∧ t.readNat (entry + 22) 1 = status ∧ t.transits = s.transits.erase x) ∧
       (s.transit o 1 = some x → s.transit o 3 = none → ∃ t, exec (.parcelAcknowledgement o) s = .next t ∧ t.readNat (entry + 20) 1 = 5 ∧
         t.transits = s.transits.erase x))) ∧
  ((∀ (s : State) (o : Offer) (j : Nat) (b : Word), o.dstPkg = s.pkg.toNat → o.srcPkg ≠ s.pkg.toNat →
     (∀ y ∈ s.transits, y.offer ≠ o) → o.len % 64 = 0 → 64 ≤ o.len → o.len ≤ 2 ^ 28 →
     1 ≤ (s.linkTo o.srcPkg).accepted → Flows s o.srcPkg →
     ((s.ctxAt o.dstCtx).exists_ = true → s.arrivalsHeld o.dstCtx < 64 → s.dirFree o.dstCtx o.handle = some j →
       s.heapRoom o.dstCtx o.len o.handle = some b → ∃ t, exec (.parcelOffer o) s = .next t ∧
         t.transits = s.transits ++ [⟨o, 1, s.ns, none⟩] ∧ t.sent = s.sent ++ [.verdict o 0] ∧
         t.readNat ((s.ctxAt o.dstCtx).record.pdir.toNat + 32 * j + 20) 1 = 3) ∧
     ((s.ctxAt o.dstCtx).exists_ = false → ∃ t, exec (.parcelOffer o) s = .next t ∧ t.transits = s.transits ∧
       t.sent = s.sent ++ [.verdict o 4] ∧ ∀ a, t.byte a = s.byte a)) ∧
   ∀ (s : State) (o : Offer) (bs : List Byte) (p : Par) (x : Transit) (ps : List (Nat × Nat)), o.dstPkg = s.pkg.toNat →
     o.srcPkg ≠ s.pkg.toNat → s.transit o 1 = some x → s.parIn o.dstCtx o.handle (· == 3) = some p → s.poison = [] →
     s.physical o.dstCtx .write .supervisor 0 (piecesOf p.base p.len) = .ok ps → bs.length = o.len →
     ceilDiv o.len 256 ≤ (s.linkTo o.srcPkg).accepted → Flows s o.srcPkg →
     ∃ t, exec (.parcelLastByteLands o (clean bs)) s = .next t ∧ t.sent = s.sent ++ [.delivered o] ∧
       (t.ctxAt o.dstCtx).arrivals = (s.ctxAt o.dstCtx).arrivals ++ [o.handle] ∧ t.transits = s.transits.erase x)

/-- R234, R282, R314, R349, R397: a request of a peer whose flit has been accepted, from the context that its own is paired
with, performs in the context that it names, once the slice port admits it, and is answered; any other is answered with
APERTURE_MISS and changes no byte. That a read brings the poison marks of its bytes is the model's reading (log 38). R315,
R400: when something of a context has waited for a peer beyond the PEERTMO of its sending, the peer is marked dead for it.
R303, R309, R310: a flit of a circuit that may move leaves its router for the next one of its route, takes its output for the
cycle and is the last of the next FIFO; where its slot is not there the router adds 1 to SLOT_MISS, which stops at its
largest value, and nothing else changes. One that stands behind another in its FIFO, or whose output has passed a flit in
this cycle, or would pass one that stands on its slot, stays. R304, R381: a flit that leaves its rectangle ends its context
under code 8: no tile holds it any more, and the tiles that it held keep the code in STICKY until another context takes them.
-/
def Obligations.PeersAndFlits : Prop :=
  (∀ (s : State) (q : PeerReq) (n loc : Nat), q.op = .read n → 1 ≤ n → q.addr.toNat % 256 + n ≤ 256 →
     1 ≤ (s.linkTo q.srcPkg).accepted → Flows s q.srcPkg →
     (s.peerLoc q n .read = .ok loc → (s.admitCtx q.dstCtx loc n).isOk = true → ∃ t, exec (.crossPackageRequest q) s = .next t ∧
       t.sent = s.sent ++ [.answer q.srcPkg q.srcCtx (.ok (s.marked loc n))] ∧ ∀ a, t.byte a = s.byte a) ∧
     ((s.ctxAt q.dstCtx).exists_ = false ∨ s.pairByte q.dstCtx q.srcPkg ≠ q.srcCtx →
       ∃ t, exec (.crossPackageRequest q) s = .next t ∧
         t.sent = s.sent ++ [.answer q.srcPkg q.srcCtx (.bad Cause.apertureMiss.code.toNat)] ∧ ∀ a, t.byte a = s.byte a)) ∧
  (∀ (s : State) (c p : Nat) (x : Transit), p ≠ s.pkg.toNat → p < 256 → s.deadBit c p = false → x ∈ s.transits →
     x.offer.srcPkg = s.pkg.toNat → x.offer.srcCtx = c → x.offer.dstPkg = p → x.due < s.ns →
     ∃ t, exec (.peerTimeout c p) s = .next t ∧ t.deadBit c p = true) ∧
  (∀ (s : State) (r : List Turn) (k j t i loc home : Nat) (op : MemOp) (d : Dest) (way : List (Nat × Nat × Nat))
     (flits : List Flit) (f : Flit) (h : Nat × Nat × Nat), s.agenda = .flit k j :: r →
     s.pkts[k]? = some (.req t i op loc d home way flits) → flits[j]? = some f → way[f.pos]? = some h →
     (s.mayMove k f h way[f.pos + 1]? = true → ∃ u, step s = .next u ∧
       u.pkts = s.pkts.set k (.req t i op loc d home way (flits.set j ⟨f.pos + 1, s.hops⟩)) ∧
       u.outs.get 0 (outKey h.1 h.2.2) = s.clock + 1 ∧
       (u.tileAt h.1).miss.toNat =
         (if s.onSlot h.1 h.2.1 h.2.2 then (s.tileAt h.1).miss.toNat else min (2 ^ 32 - 1) ((s.tileAt h.1).miss.toNat + 1)) ∧
       (∀ v, v ≠ h.1 → u.tileAt v = s.tileAt v) ∧
       { u with agenda := s.agenda, tiles := s.tiles, pkts := s.pkts, hops := s.hops, outs := s.outs } = s) ∧
     ((∃ q ∈ s.meshFifo h.1 h.2.1, q < f.seq) ∨ s.outs.get 0 (outKey h.1 h.2.2) = s.clock + 1 ∨
         (s.onSlot h.1 h.2.1 h.2.2 = false ∧ s.slotted h.1 h.2.2 = true) →
       step s = .next { s with agenda := r })) ∧
  (∀ (s : State) (tile c : Nat), (s.ctxAt c).exists_ = true →
     ∃ t, exec (.flitOutOfRectangle tile c) s = .next t ∧ (∀ k, (t.tileAt k).ctx ≠ some c) ∧
       ∀ k, (s.tileAt k).ctx = some c → (t.tileAt k).ctx = none → (t.tileAt k).trap.sticky = 8)

/-! ### The pod: lanes, leases, the link layer -/

/-- R388: the fibre of a line is the exclusive or of the package ids less 8 times the line, modulo 256, the same seen from
either end. R390, R389: at bring-up a member takes its id and its members; every lane of a package to a peer whose ELS is lit
is then active, a floor or a base lane; each member pair has its floor on line 0, where the package has the fibre; a package
that is not among the members changes nothing. R393, R396: a lane whose retuning is done joins the stripe set of its pair,
and the pair enters the next epoch, whose beat g travels on the active lane with number g modulo their count in increasing
order of line. R398, R404, R399: a loss of light, here or reported by the far end, takes the lane out of its pair; the
failure of an ELS takes every lane on its 8 lines and darkens it; once it is lit again its bit is back. -/
def Obligations.Lanes : Prop :=
  (∀ a d l : Nat, a < 256 → d < 256 → l < 32 →
     fibreOf a d l < 256 ∧ (fibreOf a d l + 8 * l) % 256 = a ^^^ d ∧ fibreOf a d l = fibreOf d a l) ∧
  (∀ (s : State) (id : BitVec 8) (ms : List Nat),
     (id.toNat ∈ ms → ∃ t, exec (.podBringUp id ms) s = .next t ∧ t.pkg = id ∧
       (∀ p, p ∈ t.pod.members ↔ p < 256 ∧ p ∈ ms) ∧ (∀ kv ∈ t.pod.lanes, kv.2.active = true ∧ kv.2.lit = true ∧
         s.pod.els.getLsbD (kv.1 % 32 / 8) = true ∧ (kv.2.own = .floor ∨ kv.2.own = .base)) ∧ t.pod.els = s.pod.els ∧
       (∀ p ∈ ms, p < 256 → p ≠ id.toNat → fibreOf id.toNat p 0 < s.fibres →
         (s.pod.els.getLsbD 0 = true → ∃ y, t.pod.lanes.find (laneKey p 0) = some y ∧ y.own = .floor ∧ y.active = true) ∧
         (s.pod.els.getLsbD 0 = false → ∃ y, t.pod.lost.find (laneKey p 0) = some y ∧ y.own = .floor ∧ y.active = false)) ∧
       ∀ a, t.byte a = s.byte a) ∧
     (id.toNat ∉ ms → exec (.podBringUp id ms) s = .next s)) ∧
  ((∀ (s : State) (p l : Nat) (x : Lane), l < 32 → s.pod.lanes.find (laneKey p l) = some x → x.retuning = true →
     x.active = false → ∃ t y, exec (.laneRetuneDone p ⟨l, true⟩) s = .next t ∧ t.pod.lanes.find (laneKey p l) = some y ∧
       y.active = true ∧ y.retuning = false ∧ (t.linkTo p).epoch = (s.linkTo p).epoch + 1) ∧
   ∀ (s : State) (p g l : Nat), s.beatLine p g = some l → l < 32 ∧ (s.pod.lanes.find (laneKey p l)).any (·.active) = true ∧
     ((List.range l).filter fun k => (s.pod.lanes.find (laneKey p k)).any (·.active)).length = g % (s.stripe p).length) ∧
  (∀ (s : State) (p l m far : Nat) (again fars : List Nat) (gone : List (Nat × Nat)), l < 32 → m < 4 →
     (∃ t, exec (.lossOfLight p ⟨[l], far, again⟩) s = .next t ∧ t.pod.lanes.find (laneKey p l) = none) ∧
     (∃ t, exec (.farEndLossReport p ⟨[l], far, again⟩) s = .next t ∧ t.pod.lanes.find (laneKey p l) = none) ∧
     (s.pod.els.getLsbD m = true → ∃ t, exec (.elsFailure ⟨m, fars, gone⟩) s = .next t ∧ t.pod.els.getLsbD m = false ∧
       ∀ kv ∈ t.pod.lanes, kv.1 % 32 / 8 ≠ m) ∧
     (s.pod.els.getLsbD m = false → ∃ t, exec (.elsRelit ⟨m, true, fars⟩) s = .next t ∧ t.pod.els.getLsbD m = true))

/-- R397: a flit in sequence with a good CRC is accepted and the next one is expected; 32 accepted flits are acknowledged;
one out of sequence is discarded; a bad CRC is reported with the number expected and accepts nothing; the timer acknowledges
what was accepted; a cumulative acknowledgement frees the flits through its number; a timeout replays from the first flit
that is not acknowledged. -/
def Obligations.LinkLayer : Prop :=
  ∀ (s : State) (p lane far : Nat) (again : List Nat) (q : BitVec 24) (r : List (BitVec 24)), let x := s.linkTo p
    s.isPeer p = true → s.stripe p ≠ [] → x.waiting = [] →
    (q = x.expect → ∃ t, exec (.flitReceive p q true ⟨lane, far, again⟩) s = .next t ∧ (t.linkTo p).expect = q + 1 ∧
      (t.linkTo p).accepted = x.accepted + 1 ∧
      (x.toAck < 31 → (t.linkTo p).toAck = x.toAck + 1 ∧ t.sent = s.sent) ∧
      (31 ≤ x.toAck → (t.linkTo p).toAck = 0 ∧ t.sent = s.sent ++ [.ack p q])) ∧
    (q ≠ x.expect → ∃ t, exec (.flitReceive p q true ⟨lane, far, again⟩) s = .next t ∧ (t.linkTo p).expect = x.expect ∧
      (t.linkTo p).accepted = x.accepted ∧ (t.linkTo p).toAck = x.toAck ∧ t.sent = s.sent) ∧
    (x.crc.get [] lane = [] → ∃ t, exec (.flitReceive p q false ⟨lane, far, again⟩) s = .next t ∧
      (t.linkTo p).expect = x.expect ∧ (t.linkTo p).accepted = x.accepted ∧ t.sent = s.sent ++ [.badCrc p x.expect]) ∧
    (x.toAck ≠ 0 → ∃ t, exec (.linkAckTimer p) s = .next t ∧ (t.linkTo p).toAck = 0 ∧
      t.sent = s.sent ++ [.ack p (x.expect - 1)]) ∧
    (∀ first : List (BitVec 24), x.unacked = first ++ q :: r → q ∉ first →
      ∃ t, exec (.linkAckReceive p ⟨q, false⟩) s = .next t ∧ (t.linkTo p).unacked = r) ∧
    (q ∉ x.unacked → ∃ t, exec (.linkAckReceive p ⟨q, false⟩) s = .next t ∧ (t.linkTo p).unacked = x.unacked) ∧
    (x.unacked = q :: r → ∃ t, exec (.replayTimeout p) s = .next t ∧ t.sent = s.sent ++ [.replay p q])

/-- R391: a boundary of the agent's cycle with no ASK queued and no light lost, in a pod of which every pair has a lane,
changes no lane but that each counts from 0 what it carries in the next cycle. R391, R393: a boundary gives a sole ASK that
wants one lane the lowest line that the far end offers, that is neither in the pair nor lost, whose light is on and whose
position on a fibre of the package is free: the lane is leased to its context and retunes. R391: of two base lanes of other
pairs the one that has carried less in the cycle gives its position first, and a lease past its term gives it after them. -/
def Obligations.RevokeCycles : Prop :=
  (∀ (s : State) (fs : List FarOffer), s.pod.asks = [] → (∀ o ∈ fs, o.takes = [] ∧ o.drops = []) →
     (∀ p ∈ s.pod.members, s.isPeer p = true → s.pairLanes p ≠ []) →
     ∃ t, exec (.revokeCycle fs []) s = .next t ∧
       t.pod.lanes = (s.pod.lanes.map fun kv => (kv.1, ({ kv.2 with beats := 0 } : Lane))) ∧ t.sent = s.sent ∧
       ∀ a, t.byte a = s.byte a) ∧
  (∀ (s : State) (a : Ask) (l : Nat), s.pod.asks = [a] → a.decided = false → a.want = 1 → a.got = [] →
     a.moving = [] → (∀ p ∈ s.pod.members, s.isPeer p = true → s.pairLanes p ≠ []) → 1 ≤ s.quotaLeft a.ctx → l < 32 →
     s.pod.lanes.find (laneKey a.peer l) = none → s.pod.lost.find (laneKey a.peer l) = none →
     s.pod.els.getLsbD (l / 8) = true → let f := fibreOf s.pkg.toNat a.peer l
     f < s.fibres → s.tunedOn f < 8 →
     ∃ t, exec (.revokeCycle [⟨a.peer, [l], [], []⟩] []) s = .next t ∧
       t.pod.lanes.find (laneKey a.peer l) = some ⟨.lease a.ctx a.term s.ns, false, true, true, true, 0⟩) ∧
  (∀ (s : State) (peer a b c : Nat) (x y z : Lane), s.pod.lanes = [(a, x), (b, y), (c, z)] → a < b → b < c → c < 8192 →
     a / 32 ≠ peer → b / 32 ≠ peer → c / 32 ≠ peer → x.own = .base → y.own = .base → x.active = true → y.active = true →
     z.active = true → (∃ k term since, z.own = .lease k term since ∧ since + 1000 * term ≤ s.ns) →
     (x.beats < y.beats → s.donors peer = [a, b, c]) ∧ (y.beats < x.beats → s.donors peer = [b, a, c]))

/-! ### Power, clocks, droop, gating, the thermal ladder -/

/-- R420, R421: a power window: with the ramp limit enabled, a rise beyond it holds dispatch and wakes. R422, R423, R424: a
droop is counted and stretches its block for 64 cycles; an idle block holds for 20 µs and is then gated; a wake cause ends a
hold at once, also in the cycle of its expiry, and a gated block waits for the in-rush arbiter, in the order of the requests
and, in one cycle, in row-major order; it wakes at most 4 at a time, each in 5 µs, and none while wakes are held. -/
def Obligations.PowerWindowsAndGating : Prop :=
  (∀ (s : State) (w : Nat), ∃ t, exec (.powerWindow w) s = .next t ∧ t.power.watts = w ∧
     (t.power.held = true ↔ s.power.ramp.getLsbD 16 = true ∧
       s.power.watts * 100 + max 1 (s.power.ramp.toNat % 2 ^ 16) < 100 * w) ∧
     (s.power.floor.getLsbD 16 = true → w < min (s.power.floor.toNat % 2 ^ 16) s.tdp → t.power.filler = true)) ∧
  (∀ (s : State) (b : Nat) (r : List Nat), let x := s.blockAt b
     (∃ t, exec (.droopDetect b) s = .next t ∧ (t.blockAt b).stretched = true ∧ (t.blockAt b).stretchTo = s.clock + 64 ∧
       (t.blockAt b).droop = if x.droop = BitVec.allOnes 32 then x.droop else x.droop + 1) ∧
     (x.stretchTo ≤ s.clock → ∃ t, exec (.droopStretchEnd b) s = .next t ∧ (t.blockAt b).stretched = false) ∧
     (x.gate = .active → s.blockIdle b = true → ∃ t, exec (.blockIdle b) s = .next t ∧ (t.blockAt b).gate = .hold ∧
       (t.blockAt b).due = s.ns + 20000) ∧
     (x.gate = .hold → x.due ≤ s.ns → ∃ t, exec (.blockHoldExpiry b) s = .next t ∧ (t.blockAt b).gate = .gated) ∧
     (x.gate = .hold → ∃ t, exec (.blockWakeRequest b) s = .next t ∧ (t.blockAt b).gate = .active) ∧
     (x.gate = .gated → x.since = s.clock → ∃ t, exec (.blockWakeRequest b) s = .next t ∧ (t.blockAt b).gate = .active) ∧
     (x.gate = .gated → x.since ≠ s.clock → ∃ t, exec (.blockWakeRequest b) s = .next t ∧ (t.blockAt b).gate = .waking ∧
       ((∀ y ∈ s.power.inrush, (s.blockAt y).since ≠ s.clock) → t.power.inrush = s.power.inrush ++ [b]) ∧
       ∀ y, s.power.inrush = [y] → y ≠ b → (s.blockAt y).since = s.clock →
         t.power.inrush = if b % 16 * 16 + b / 16 < y % 16 * 16 + y / 16 then [b, y] else [y, b]) ∧
     (s.power.inrush = b :: r → s.power.waking.length < 4 → s.power.held = false →
       ∃ t, exec .blockWakeGrant s = .next t ∧ t.power.inrush = r ∧ t.power.waking = s.power.waking ++ [b] ∧
         (t.blockAt b).due = s.ns + 5000) ∧
     (4 ≤ s.power.waking.length ∨ s.power.held = true → exec .blockWakeGrant s = .next s) ∧
     (b ∈ s.power.waking → x.due ≤ s.ns → ∃ t, exec (.blockWakeComplete b) s = .next t ∧ (t.blockAt b).gate = .active ∧
       b ∉ t.power.waking))

/-- R427, R428, R440: at 125 °C, and at a fault of the supply, the package loses power: every tile, partition and context is
as at reset, and the always-on TRIP_REASON has the cause; a thermal cut adds one to its count, a fault of the supply none.
Power-up runs the firmware only if its signature verifies over its digest with the root key. What the loss keeps is the
model's reading (log 42), and that a fault of the supply keeps the fields of the last trip is its choice (log 19). -/
def Obligations.PowerLoss : Prop :=
  ∀ (s : State) (temp n : Nat) (fw : Firmware),
    (125 ≤ temp → ∃ t, exec (.thermalCut temp n) s = .next t ∧ t.power.on = false ∧ t.tiles = [] ∧ t.parts = [] ∧ t.ctxs = [] ∧
      (t.power.trip.toNat % 2 = 1) ∧ t.power.trip.toNat / 2 ^ 48 = min 65535 (s.power.trip.toNat / 2 ^ 48 + 1) ∧
      t.power.trip.toNat / 2 ^ 40 % 2 ^ 8 = temp % 256 ∧ t.power.trip.toNat / 2 ^ 24 % 2 ^ 16 = n % 2 ^ 16) ∧
    (∃ t, exec .supplyFault s = .next t ∧ t.power.on = false ∧ t.tiles = [] ∧ t.parts = [] ∧ t.ctxs = [] ∧
      t.power.trip.toNat / 4 % 2 = 1 ∧ t.power.trip.toNat / 2 ^ 48 = s.power.trip.toNat / 2 ^ 48) ∧
    (s.power.on = false → ∃ t, exec (.powerUp fw) s = .next t ∧ t.power.on = true ∧
      t.mgmt.firmware = mldsaVerify Config.rootKey (sha3_512 fw.image) fw.sig ∧
      t.mgmt.boot = (if mldsaVerify Config.rootKey (sha3_512 fw.image) fw.sig then some (sha3_512 fw.image) else none) ∧
      ∀ a, t.byte a = s.byte a)

/-- R418, R425, R426: CLKPLAN takes a frequency of 1,250 to 1,600 MHz for which a clock is left, more than 1,250 only with at
most one resident context; the goal is then a whole MHz within 5 % below it that hits no spur, and FACT glides toward the
goal by at most 25 MHz a step, not while throttled. The supply voltage leads a rise and trails a fall, and where FACT stands
at the goal it is 400 mV and ⌈(FACT − 1,250) × 80 / 350 / 5⌉ times 5 mV. R425: the spur-avoid list has 32 entries; one whose
bounds are in order, with which the tile clock still has a frequency and no fixed clock is hit, is taken; an entry beyond the
list changes nothing. R333, R282: PHASE reaches the edge of a refresh window; a refill raises the bucket of each context at a
slice port by RATE, at most to DEPTH, and what of the RATE its bucket has no room for goes to the pool of its partition,
which keeps at most the sum of its contexts' DEPTH values (a bucket above a lowered DEPTH: log 66); a request of n bytes
takes n from the bucket of its context at the home slice, else from the pool of its partition, else it waits. -/
def Obligations.Clocks : Prop :=
  ((∀ (s : State) (v : Word), s.power.on = true → s.mgmt.firmware = true → let f := v.toNat % 2 ^ 11
     (1250 ≤ f → f ≤ 1600 → (f = 1250 ∨ s.residents ≤ 1) → tileClock s.power.spur f ≠ none →
       ∃ t, exec (.clkplanWrite v) s = .next t ∧ t.power.freq = f ∧ t.power.goal ≤ f ∧ 95 * f ≤ 100 * t.power.goal ∧
         hitsAny s.power.spur (1000 * t.power.goal) = false ∧ t.power.fact = s.power.fact) ∧
     (f < 1250 ∨ 1600 < f ∨ (1250 < f ∧ 2 ≤ s.residents) → exec (.clkplanWrite v) s = .next s)) ∧
   ∀ s : State, (s.power.throttled = false → s.power.on = true → ∃ t, exec .clockGlideStep s = .next t ∧
       t.power.fact = (if s.power.fact < s.power.goal then min s.power.goal (s.power.fact + 25)
         else max s.power.goal (s.power.fact - 25)) ∧
       millivolts s.power.fact ≤ t.power.mv ∧ millivolts t.power.fact ≤ t.power.mv ∧
       (1250 ≤ s.power.goal → s.power.fact = s.power.goal →
         t.power.mv = 400 + 5 * (((s.power.goal - 1250) * 80 + 1749) / 1750))) ∧
     (s.power.throttled = true → ∃ t, exec .clockGlideStep s = .next t ∧ t.power.fact = s.power.fact)) ∧
  (∀ (s : State) (n : Nat) (v : Word), s.power.on = true → s.mgmt.firmware = true →
     (32 ≤ n → exec (.spurListWrite n v) s = .next s) ∧
     (n < 32 → v.toNat % 2 ^ 31 ≤ v.toNat / 2 ^ 32 % 2 ^ 31 →
       let e : Word := v &&& ~~~(0x80000000 : Word)
       tileClock (Tab.set 0 s.power.spur n e) s.power.freq ≠ none →
       Config.fixedClocks.any (hitsAny (Tab.set 0 s.power.spur n e)) = false →
       ∃ t, exec (.spurListWrite n v) s = .next t ∧ t.power.spur.get 0 n = e)) ∧
  ((∀ (s : State) (b : Nat), b < 32 → s.phase < s.period → b * s.period / 32 < s.period →
     ∃ t, exec (.weightRefreshWindow (b * s.period / 32)) s = .next t ∧ t.phase = b * s.period / 32 ∧ ∀ a, t.byte a = s.byte a) ∧
   (∀ (s : State) (c p loc n : Nat), loc < 2 ^ 40 → let port := homeSlice loc
     let fill := ((s.ctxAt c).qos.get {} port).fill; let pool := (s.partAt p).pools.get 0 port
     (n ≤ fill → ∃ t, s.admitted c p loc n = .ok t ∧ ((t.ctxAt c).qos.get {} port).fill = fill - n ∧ t.parts = s.parts) ∧
     (fill < n → n ≤ pool → ∃ t, s.admitted c p loc n = .ok t ∧ (t.partAt p).pools.get 0 port = pool - n ∧ t.ctxs = s.ctxs) ∧
     (fill < n → pool < n → s.admitted c p loc n = .error .wait)) ∧
   ∀ (s : State) (port : Nat), (s.ctxs.map Prod.fst).Pairwise (· < ·) → ∃ t, exec (.qosRefill port) s = .next t ∧
     (∀ c x, (c, x) ∈ s.ctxs → x.exists_ = true → ((t.ctxAt c).qos.get {} port).fill =
       min (x.qos.get {} port).depth ((x.qos.get {} port).fill + (x.qos.get {} port).rate)) ∧
     ∀ p, p < 64 → let mine := (s.ctxs.map Prod.snd).filter fun x => x.record.part.toNat == p
       let live := mine.filter fun x => x.exists_
       let more := (live.map fun x =>
         (x.qos.get {} port).rate - ((x.qos.get {} port).depth - (x.qos.get {} port).fill)).sum
       (t.partAt p).pools.get 0 port = if live = [] then (s.partAt p).pools.get 0 port
         else min (mine.map fun x => (x.qos.get {} port).depth).sum ((s.partAt p).pools.get 0 port + more))

/-! ### Regions: requests, images, binding, beats -/

/-- R114, R115, R118: RGN.LOAD of a region of its partition answers with the reason that refuses the request (1 no such
region, 2 one under way, 11 address, 9 an image that cannot be swapped), or with 0 and the region VERIFYING the image. Where
two reasons hold the one named first answers, which is the model's choice (log 20). R116, R117: RGN.STAT reads the state, the
reason and the live version of a region; RGN.BIND of ports that the live image uses leaves the change to the frame boundaries
of the ports, and its destination pending; a mask that is in force already answers 0, other ports 7. Where a request is under
way 2 answers before 7, which is the model's choice (log 20). -/
def Obligations.RegionWords : Prop :=
  (∀ (s : State) (g : Guard) (d a b : BitVec 5) (r : Nat), let w := Instr.rgnLoad g d a b; let x := s.regionAt r
     issues s w g { src := [a, b], dst := [d] } = true →
     (s.regionSel (s.getS a) = none → Lands s w d 1) ∧
     (s.regionSel (s.getS a) = some r →
       (x.busy = true → Lands s w d 2) ∧
       (x.busy = false → (s.getS b).toNat % 64 ≠ 0 → Lands s w d 11) ∧
       (x.busy = false → (s.getS b).toNat % 64 = 0 → x.fixed = true → Lands s w d 9) ∧
       (x.busy = false → (s.getS b).toNat % 64 = 0 → x.fixed = false →
         ∃ t, exec w s = .next t ∧ (t.regionAt r).state = 1 ∧ (t.regionAt r).live = x.live ∧
           (t.regionAt r).req = some ⟨s.cur.ctx.getD 0, .supervisor, s.getS b, none, 0, s.activeKeys, none, false⟩ ∧ t.me.sPending d = (d != 0) ∧
           (∀ k, k ≠ r → t.regionAt k = s.regionAt k) ∧ ∀ y, t.byte y = s.byte y))) ∧
  (∀ (s : State) (g : Guard) (d a b : BitVec 5) (r : Nat), let x := s.regionAt r
     (issues s (.rgnStat g d a) g { src := [a], dst := [d] } = true →
       (s.regionSel (s.getS a) = none → Lands s (.rgnStat g d a) d 1) ∧
       (s.regionSel (s.getS a) = some r → Lands s (.rgnStat g d a) d
         (BitVec.ofNat 64 (x.state + x.reason * 2 ^ 8 + (x.live.elim 0 fun i => i.version.toNat) * 2 ^ 16)))) ∧
     (issues s (.rgnBind g d a b) g { src := [a, b], dst := [d] } = true →
       (s.regionSel (s.getS a) = none → Lands s (.rgnBind g d a b) d 1) ∧
       (s.regionSel (s.getS a) = some r → let m := (s.getS b).toNat; let used := x.live.elim 0 fun i => i.ports.toNat
         (x.busy = true → Lands s (.rgnBind g d a b) d 2) ∧
         (x.busy = false → m &&& used ≠ m → Lands s (.rgnBind g d a b) d 7) ∧
         (x.busy = false → m &&& used = m → m = x.mask.toNat → Lands s (.rgnBind g d a b) d 0) ∧
         (x.busy = false → m &&& used = m → m ≠ x.mask.toNat →
           ∃ t, exec (.rgnBind g d a b) s = .next t ∧ t.me.sPending d = (d != 0) ∧ (t.regionAt r).mask = x.mask ∧
             (t.regionAt r).pend.toNat = m ^^^ x.mask.toNat ∧ (t.regionAt r).want.toNat = m))))

/-- R298, R410, R411, R412, R414: a verification ends; one that fails leaves the region REJECTED with its reason and the old
image; one that succeeds begins the hold; the region is programmed once its input ports stand at frame boundaries and FIN is
FOUT, and the image is then LIVE, with RBC of its key slot raised to its RBK. Where the request is one of a resume that was
given up, a verified image stays with its context, and the region keeps the old one. That the clock is the one found at
verification is the model's choice (log 84). -/
def Obligations.ImageSwap : Prop :=
  ∀ (s : State) (r : Nat) (q : RgnReq) (i : Image), let x := s.regionAt r
    (∀ early, x.state = 1 → x.req = some q → ∃ t, exec (.regionVerifyDone ⟨r, early⟩) s = .next t ∧
      match s.verify q early with
      | .ok (.error code) =>
        (t.regionAt r).live = x.live ∧ (t.regionAt r).state = 5 ∧ (t.regionAt r).reason = code ∧ (t.regionAt r).req = none
      | .ok (.ok (j, clock)) =>
        ((x.live.all fun l => l.digest != j.digest && l.qclass != 2) = true → q.stopped = false →
          (t.regionAt r).live = x.live ∧ (t.regionAt r).state = 2 ∧ (t.regionAt r).held = true ∧
            (t.regionAt r).drain = (x.live.any fun l => l.qclass == 1) ∧
            (t.regionAt r).req = some { q with image := some j, clock := clock }) ∧
        ((x.live.all fun l => l.digest != j.digest) = true → q.stopped = true →
          (t.regionAt r).live = x.live ∧ (t.regionAt r).req = none ∧ (t.regionAt r).held = false ∧
            (t.ctxAt q.ctx).verified.find r = some { q with image := some j, clock := clock, stopped := false })
      | .error (.fatal k) => t = s.fatalCtx q.ctx k
      | .error _ => t = s) ∧
    (x.state = 2 → x.stopped = true → x.balanced = true → x.save = false → ∃ t, exec (.regionQuiesced r) s = .next t ∧
      (t.regionAt r).state = 3 ∧ (t.regionAt r).live = x.live) ∧
    (x.state = 3 → x.req = some q → q.image = some i → ∃ t, exec (.regionProgramDone r) s = .next t ∧
      (t.regionAt r).state = 4 ∧ (t.regionAt r).reason = 0 ∧ (t.regionAt r).live = some i ∧ (t.regionAt r).held = x.save ∧
      (t.keySlot i.keyslot).rbc.toNat = max (s.keySlot i.keyslot).rbc.toNat i.rbk.toNat)

/-- R117: a port takes its new binding at a frame boundary, and after the last port of the change its answer, 0, is on its
way to the task that asked. R289, R290, R295: the region takes the oldest beat of an input port, FRAMES counts the last beat
of a frame and ERRS a beat with an error; a beat that it places on an output port joins the FIFO; a control word is received
at a frame boundary once every beat before it has been taken. A beat with a mark on the wrong place of its frame gets ERR. A
port at the boundary at which RGN.BIND changes it starts no frame (R294). -/
def Obligations.CollarPorts : Prop :=
  (∀ (s : State) (r p t j : Nat) (d : BitVec 5), p < 16 → let x := s.regionAt r
     x.pend.getLsbD p = true → (x.port p).beat = 0 → x.again = none → x.answer = some (t, j, d) → d ≠ 0 → j < 4 →
     ∃ u, exec (.portBindingApply r p) s = .next u ∧ (u.regionAt r).mask.getLsbD p = x.want.getLsbD p ∧
       (∀ q, q < 16 → q ≠ p → (u.regionAt r).mask.getLsbD q = x.mask.getLsbD q) ∧
       (∀ q, q < 16 → (u.regionAt r).pend.getLsbD q = (x.pend.getLsbD q && q != p)) ∧
       ((∀ q, q < 16 → q ≠ p → x.pend.getLsbD q = false) →
         ((u.tileAt t).taskAt j).landings = ((s.tileAt t).taskAt j).landings ++ [⟨d, 0, []⟩] ∧ (u.regionAt r).answer = none)) ∧
  (∀ (s : State) (r p : Nat) (b e : Beat) (f : List Beat) (w : Word) (l : List (Nat × Word)) (n : Nat),
     let x := s.regionAt r; let o := x.port p
     (p % 4 < 2 → o.fifo = e :: f → o.side = [] → x.bound p = true → x.state ≠ 3 → x.held = false →
       x.changing p = false →
       ∃ t, exec (.frameCrossing r p b) s = .next t ∧ ((t.regionAt r).port p).fifo = f ∧
         ((t.regionAt r).port p).taken = o.taken + 1 ∧ ((t.regionAt r).port p).beat = (o.beat + 1) % 16 ∧
         ((t.regionAt r).port p).frames = (if o.beat = 15 then o.frames + 1 else o.frames) ∧
         ((t.regionAt r).port p).errs = if e.err then o.errs + 1 else o.errs) ∧
     (2 ≤ p % 4 → o.fifo.length < 64 → o.spill = [] → x.bound p = true → x.state ≠ 3 → x.changing p = false →
       b.fof = (o.beat == 0) → b.lof = (o.beat == 15) →
       ∃ t, exec (.frameCrossing r p b) s = .next t ∧ ((t.regionAt r).port p).fifo = o.fifo ++ [b]) ∧
     (2 ≤ p % 4 → o.fifo.length < 64 → o.spill = [] → x.bound p = true → x.state ≠ 3 → x.changing p = false →
       b.fof = true ∧ o.beat ≠ 0 ∨ b.lof = true ∧ o.beat ≠ 15 →
       ∃ t, exec (.frameCrossing r p b) s = .next t ∧ ((t.regionAt r).port p).fifo = o.fifo ++ [{ b with err := true }] ∧
         ((t.regionAt r).port p).errs = o.errs + 1) ∧
     (x.pend.getLsbD p = true → o.beat = 0 → exec (.frameCrossing r p b) s = .next s) ∧
     (o.side = (n, w) :: l → o.beat = 0 → n ≤ o.taken → x.held = false → x.state ≠ 3 →
       ∃ t, exec (.sidebandDelivery r p) s = .next t ∧ ((t.regionAt r).port p).side = l))

/-! ### Launches, graphs, nodes, stitches -/

/-- R144, R282, R324, R325: LAUNCH of a readable record, for which its bucket or pool pays, puts an entry with the next
launch number of its context at the end of its partition's device queue and gives the number in bits 63 to 32; a record that
is refused gives its reason, a full queue 1. That a record which is refused is answered so while the queue is full is the
model's choice (log 21). R324, R325, R432: the device takes the next submission of a VF once its entry carries the next
sequence number: it joins the device queue with the next launch number, and waits while that is full; one that is refused is
answered with a completion, BAD or NOFIT, which waits while the completion queue is full. Where an entry of a ring lies is
the model's choice (log 15), and so is that a submission is refused before room is looked for (log 21). -/
def Obligations.Launches : Prop :=
  (∀ (s : State) (g : Guard) (d a : BitVec 5) (pa : Nat), let w := Instr.launch g d a
     let c := s.cur.ctx.getD 0; let p := s.cur.part.getD 0
     issues s w g { src := [a], dst := [d] } = true → canonical (s.getS a) = true →
     s.resolve s.who (s.getS a) 64 .read = .ok pa → s.me.stream = [] → s.cur.barred s.me.bars = false →
     ∀ x, s.admitAt s.tile pa 64 = .ok x →
     let answers := fun n : Nat => ∃ t, exec w s = .next t ∧ Read s t d ∧ t.getS d = (if d = 0 then 0 else BitVec.ofNat 64 n) ∧
       (t.partAt p).queue = (s.partAt p).queue ∧ (t.ctxAt c).launches = (s.ctxAt c).launches
     (∀ n, x.accept c p s.me.level (s.bytesAt pa 64) = .error (.status n) → answers n) ∧
     ∀ e, x.accept c p s.me.level (s.bytesAt pa 64) = .ok e →
       (s.queueRoom p s.me.level = false → answers 1) ∧
       (s.queueRoom p s.me.level = true → ∃ t, exec w s = .next t ∧ Read s t d ∧
         (t.partAt p).queue = (s.partAt p).queue ++ [{ e with num := (s.ctxAt c).launches + 1, host := none }] ∧
         (t.ctxAt c).launches = (s.ctxAt c).launches + 1 ∧
         t.getS d = (if d = 0 then 0 else BitVec.ofNat 64 (((s.ctxAt c).launches + 1).toNat * 2 ^ 32)))) ∧
  (∀ (s : State) (c p q : Nat), s.power.on = true → s.partOf c = some p → (s.ctxAt c).vf.nextQueue = some q →
     (s.ctxAt c).vf.flr = false →
     let r := (s.ctxAt c).vf.sq.get {} q; let a := hostLoc (r.slotAddr 128 (r.cons + 1))
     s.readNat a 4 = (r.cons + 1).toNat →
     (∀ n, s.accept c p .supervisor (s.bytesAt (a + 64) 64) = .error (.status n) → ∃ t, exec (.hostSubmissionIntake c q) s = .next t ∧
       ((t.ctxAt c).vf.sq.get {} q).cons = r.cons + 1 ∧ (t.partAt p).queue = (s.partAt p).queue ∧
       let v := (s.ctxAt c).vf
       let body := [(if n = 2 then 2 else 1 : Byte), BitVec.ofNat 8 q, 0, 0] ++ le 4 (r.cons + 1).toNat ++ List.replicate 20 0
       (v.cq.full = true → (t.ctxAt c).vf.heldC = v.heldC ++ [body]) ∧
       (v.cq.full = false → v.heldC = [] → (t.ctxAt c).vf.heldC = [] ∧ (t.ctxAt c).vf.cq = { v.cq with prod := v.cq.prod + 1 } ∧
         t.bytesAt (hostLoc (v.cq.slotAddr 32 (v.cq.prod + 1))) 32 = le 4 (v.cq.prod + 1).toNat ++ body)) ∧
     ∀ e, s.accept c p .supervisor (s.bytesAt (a + 64) 64) = .ok e →
       (s.queueRoom p .supervisor = false → exec (.hostSubmissionIntake c q) s = .next s) ∧
       (s.queueRoom p .supervisor = true → ∃ t, exec (.hostSubmissionIntake c q) s = .next t ∧
         (t.partAt p).queue = (s.partAt p).queue ++ [{ e with num := (s.ctxAt c).launches + 1, host := some (q, r.cons + 1) }] ∧
         ((t.ctxAt c).vf.sq.get {} q).cons = r.cons + 1))

/-- R329, R331, R306: in the slice of a context its next graph takes the lowest free active slot and the widest usable width,
and one whose slot tables lead out of the rectangle is rejected (as CAST_FAILED: the model's choice, log 68); a graph whose
regions are all LIVE and whose list of weights is empty becomes active. R335, R336: the walker sends the next stitch of the
first node that can place one to its tile, and only there; R21: on the tile, task 0 starts at the entry of its width with the
loop indices in s1 to s6, the address of the arguments in s7, the number of the stitch in s8, every other register 0, at USER
level. -/
def Obligations.CastOnAndStitches : Prop :=
  (∀ (s : State) (p c : Nat) (e : DqEntry), (s.partAt p).now = some c → (s.partAt p).ending = false → (s.partAt p).regrid = false →
     s.power.halted = false →
     (∀ w, (s.ctxAt c).resumed = true → ((s.entries p c).find? fun e => e.stage == 1) = none → s.castNext p c = some e →
       s.widest p e = some w → (s.setsLegal p e.graph = false → exec (.castOn p) s = .next (s.completeGraph p e 3)) ∧
       (s.setsLegal p e.graph = true → ∃ t, exec (.castOn p) s = .next t ∧
         (t.partAt p).queue = (s.partAt p).queue.map fun y => if y.same e then
           { y with slot := some (s.freeSlot p c), stage := 1, width := w, held := false, todo := s.regionWants p e, asked := false,
                    masks := [] } else y)) ∧
     (((s.entries p c).find? fun e => e.stage == 1) = some e → e.held = false → e.todo = [] → gWeights e.graph = [] →
       ∃ t, exec (.castOn p) s = .next t ∧ ((t.partAt p).queue = (s.partAt p).queue.map fun y =>
         if y.same e then { y with stage := 2, again := false, anew := false } else y) ∧
       ∀ a, t.byte a = s.byte a)) ∧
  ((∀ (s : State) (p c i l u : Nat) (e : DqEntry), (s.partAt p).now = some c → s.power.held = false → s.power.halted = false →
     s.power.on = true → (s.ctxAt c).resumed = true → (s.ctxAt c).forced = false → s.dispatchable p c = some (e, i, [(l, u)]) →
     ∃ t, exec (.stitchDispatch p) s = .next t ∧ (t.tileAt u).incoming = some (e.stitch p i (e.nodeWidth i) l) ∧
       (∀ k, k ≠ u → t.tileAt k = s.tileAt k) ∧ (∀ a, t.byte a = s.byte a) ∧
       (t.partAt p).queue = (s.partAt p).queue.map fun y => if y.same e then
         { y.setPos i { (e.pos i).sent [l] with started := true, width := e.nodeWidth i, last := s.clock } with held := false }
         else y) ∧
   ∀ (s : State) (u : Nat) (x : Stitch), (s.tileAt u).incoming = some x → (s.tileAt u).halted = false →
     (s.blockAt (blockOf u)).gate = .active → s.power.halted = false → s.power.on = true →
     ∃ t, exec (.stitchStart u) s = .next t ∧ (t.tileAt u).incoming = none ∧ (t.tileAt u).node = some (x.slot, x.node) ∧
       (let k := (t.tileAt u).taskAt 0
        k.live = true ∧ k.pc = x.entry ∧ k.level = .user ∧ (∀ i : Fin 6, k.sget (BitVec.ofNat 5 (i.val + 1)) =
          BitVec.ofNat 64 (x.idx.getD i.val 0)) ∧ k.sget 7 = x.args ∧ k.sget 8 = BitVec.ofNat 64 x.num ∧
        (∀ n : BitVec 5, n = 0 ∨ 9 ≤ n.toNat → k.sget n = 0) ∧ (∀ n : BitVec 3, n ≠ 0 → k.pget n = false) ∧ k.slot = none ∧
        k.flags = 0 ∧ k.rmode = 0) ∧
       ∀ k, 0 < k → k < 4 → (t.tileAt u).taskAt k = (s.tileAt u).taskAt k)

/-- R22, R23, R334, R337: a node whose stitches are all dispatched and whose tiles have finished completes, and its tiles
give up what they shared; a graph whose nodes are all complete leaves the device queue, and adds 1 at DONE. R330: between
nodes a graph takes the widest usable width; R338: a node on which nothing was dispatched or issued for NODEWD cycles of its
blocks' clocks (R422) gives WATCHDOG to its live tasks, or leaves it waiting where a trap is under way (here: one task on one
tile). -/
def Obligations.NodesAndGraphs : Prop :=
  ((∀ (s : State) (p a i : Nat) (e : DqEntry), s.activeGraph p a = some e → i < gNodes e.graph → (e.pos i).done = false →
     e.ready i = true → (e.pos i).spent (e.count i) = true → s.nodeComing p e.ctx a i = false →
     (∀ u ∈ s.nodeTiles p e.ctx a i, (s.tileAt u).finished = true) →
     ∃ t, exec (.nodeComplete p a i) s = .next t ∧
       ((t.partAt p).queue = (s.partAt p).queue.map fun y => if y.same e then
         y.setPos i { y.pos i with started := true, done := true } else y) ∧
       ∀ u ∈ s.nodeTiles p e.ctx a i, let x := t.tileAt u
         x.node = none ∧ x.win0 = none ∧ x.win1 = none ∧ x.accs = [] ∧ x.sbs = [] ∧ x.sts = [] ∧ x.deque = [] ∧ x.chans = []) ∧
   ∀ (s : State) (p a : Nat) (e : DqEntry), s.activeGraph p a = some e → (∀ i, i < gNodes e.graph → (e.pos i).done = true) →
     s.poison = [] → (∀ c ∈ s.bound p, (s.ctxAt c).parked = []) → ∃ t, exec (.graphComplete p a) s = .next t ∧ ((t.partAt p).queue = (s.partAt p).queue.filter fun y => !y.same e) ∧
       ∀ pa, e.launch.stat = 0 → e.host = none → canonical e.launch.doneA = true →
         s.translate e.ctx e.launch.doneA .amo .supervisor = .ok pa → (∀ k, (s.tileAt k).windows = []) → t.readNat pa 8 = (s.readNat pa 8 + 1) % 2 ^ 64) ∧
  ((∀ (s : State) (p a w : Nat) (e : DqEntry), s.activeGraph p a = some e → (s.partAt p).ending = false →
     (∀ i, i < gNodes e.graph → (e.pos i).started = true → (e.pos i).done = true) → s.widest p e = some w →
     ∃ t, exec (.widthChange p a) s = .next t ∧
       ((t.partAt p).queue = (s.partAt p).queue.map fun y => if y.same e then { y with width := w, held := false } else y) ∧
       (∀ x, t.byte x = s.byte x) ∧ (w = e.width → t.tiles = s.tiles)) ∧
   ∀ (s : State) (p a i u : Nat) (k : Fin 4) (e : DqEntry), s.activeGraph p a = some e →
     (s.nodeTiles p e.ctx a i).filter (fun t => (s.tileAt t).tasks.any fun k => k.live) = [u] →
     (e.pos i).last + periodOf (s.ctxAt e.ctx).record.nodewd 26 ≤ s.clock →
     (s.tileAt u).lastIssue + periodOf (s.ctxAt e.ctx).record.nodewd 26 ≤ s.cyclesAt u → (s.tileAt u).trap.tvec ≠ 0 →
     (s.tileAt u).tasks[k].live = true → (∀ j : Fin 4, j ≠ k → (s.tileAt u).tasks[j].live = false) →
     ∃ t, exec (.nodeWatchdogExpiry p a i) s = .next t ∧
       ((s.tileAt u).trap.busy = false → (t.tileAt u).trap.busy = true ∧ (t.tileAt u).trap.tcause = 0x15 ∧
         (t.tileAt u).trap.tpc = (s.tileAt u).tasks[k].pc ∧ (t.tileAt u).tasks[k].pc = (s.tileAt u).trap.tvec ∧
         (t.tileAt u).tasks[k].level = .supervisor) ∧
       ((s.tileAt u).trap.busy = true → (t.tileAt u).watchdog.getLsbD k = true))

/-! ### Partitions, contexts, slices, saves and resumes -/

/-- R344, R345: a descriptor with VALID creates a partition unless its rectangle leaves the mesh, holds a fused block or one
of another partition, or names no width; clearing VALID deletes one to which no context is bound; the width cap is a field of
its own. R346: a resize to a bad rectangle is rejected, and one under a forced save in the kennel of a bound context with the
answer SAVED_MIDNODE; one in the middle of a switch of slices waits for it; with no context on the partition it takes effect
at once. -/
def Obligations.Partitions : Prop :=
  (∀ (s : State) (n cap : Nat) (v : Word), Managed s → n < 64 →
     (descValid (s.partAt n).desc = false → v.getLsbD 19 = true →
       (s.descBad n (v &&& 0xFFFFFFFF000FFFFF) = false → ∃ t, exec (.partitionCreate n v) s = .next t ∧
         (t.partAt n).desc = v &&& 0xFFFFFFFF000FFFFF ∧ ∀ k, k ≠ n → t.partAt k = s.partAt k) ∧
       (s.descBad n (v &&& 0xFFFFFFFF000FFFFF) = true → exec (.partitionCreate n v) s = .next s)) ∧
     (descValid (s.partAt n).desc = true → (s.bound n = [] → ∃ t, exec (.partitionDelete n) s = .next t ∧
         descValid (t.partAt n).desc = false ∧ (t.partAt n).queue = []) ∧
       (s.bound n ≠ [] → exec (.partitionDelete n) s = .next s)) ∧
     (cap ≤ 2 → ∃ t, exec (.widthCapWrite n cap) s = .next t ∧ descWcap (t.partAt n).desc = cap ∧
       ∀ i, i ≠ 16 → i ≠ 17 → (t.partAt n).desc.getLsbD i = (s.partAt n).desc.getLsbD i)) ∧
  (∀ (s : State) (n : Nat) (v : Word), Managed s → n < 64 → descValid (s.partAt n).desc = true → v.getLsbD 19 = true →
     let d : BitVec 64 := v &&& 0xFFFFFFFF000FFFFF
     descWcap d ≠ 3 → d.toNat % 2 ^ 16 ≠ (s.partAt n).desc.toNat % 2 ^ 16 →
     (s.descBad n d = true → exec (.partitionResize n v) s = .next s) ∧
     (s.descBad n d = false → (∃ c ∈ s.bound n, s.kstate c = 2) → ∃ t, exec (.partitionResize n v) s = .next t ∧
       t.mgmt.answers = s.mgmt.answers ++ [.savedMidnode n] ∧ { t with mgmt := s.mgmt } = s) ∧
     (s.descBad n d = false → (∀ c ∈ s.bound n, s.kstate c ≠ 2) →
       ((s.partAt n).ending = true ∨ (∃ c, (s.partAt n).now = some c ∧ (s.ctxAt c).resumed = false) → ∃ t, exec (.partitionResize n v) s = .next t ∧ (t.partAt n).resize = some d ∧
         (t.partAt n).desc = (s.partAt n).desc) ∧
       ((s.partAt n).ending = false → (s.partAt n).now = none → ∃ t, exec (.partitionResize n v) s = .next t ∧
         (t.partAt n).desc = d ∧ (t.partAt n).resize = none)))

/-- R348, R351, R359: system software enables and disables the 192 contexts; a binding takes a context record within its
limits where no task or stitch of the context stands on a tile, and otherwise nothing, and answers INCOMPLETE for a kennel
whose save was given up; an entry of a schedule takes a context bound to its partition, a length of 10 µs or more and a
weight of 1 or more. -/
def Obligations.ContextBinding : Prop :=
  ∀ (s : State) (n idx : Nat) (r : CtxRec) (v : BitVec 32), Managed s →
    (n < 192 → (s.ctxAt n).exists_ = false → ∃ t, exec (.vfEnable n) s = .next t ∧ (t.ctxAt n).exists_ = true ∧
      (t.ctxAt n).record.part = 0xFF) ∧
    ((s.ctxAt n).exists_ = true → ∃ t, exec (.vfDisable n) s = .next t ∧ (t.ctxAt n).exists_ = false ∧
      ∀ k, (t.tileAt k).ctx ≠ some n) ∧
    ((s.ctxAt n).exists_ = true → s.mayRebind n = true →
      (s.recordOk r = true → s.readNat r.kennel.toNat 4 ≤ 1 → ∃ t, exec (.contextBind n r) s = .next t ∧
        (t.ctxAt n).record = r ∧ (t.ctxAt n).tlb = [] ∧ (t.ctxAt n).walks = [] ∧ (∀ k, (t.tileAt k).ctx ≠ some n) ∧
        (s.ctxTiles n = [] → (s.partAt (s.ctxAt n).record.part.toNat).resize = none → ∀ a, t.byte a = s.byte a)) ∧
      (s.recordOk r = true → s.readNat r.kennel.toNat 4 = 3 → ∃ t, exec (.contextBind n r) s = .next t ∧
        t.mgmt.answers = s.mgmt.answers ++ [.incomplete n] ∧ { t with mgmt := s.mgmt } = s) ∧
      (∃ t, exec (.contextUnbind n) s = .next t ∧ (t.ctxAt n).record = { (s.ctxAt n).record with part := 0xFF })) ∧
    (s.mayRebind n = false ∨ s.recordOk r = false → exec (.contextBind n r) s = .next s) ∧
    (n < 64 → idx < 16 →
      (schedOn v = true → 10 ≤ v.toNat / 2 ^ 13 → v.toNat / 2 ^ 9 % 2 ^ 4 ≠ 0 → s.partOf (v.toNat % 2 ^ 8) = some n →
        ∃ t, exec (.scheduleEntryWrite n idx v) s = .next t ∧ (t.partAt n).sched.get 0 idx = v ∧
          ∀ j, j ≠ idx → (t.partAt n).sched.get 0 j = (s.partAt n).sched.get 0 j) ∧
      (schedOn v = true → (v.toNat / 2 ^ 13 < 10 ∨ v.toNat / 2 ^ 9 % 2 ^ 4 = 0 ∨ s.partOf (v.toNat % 2 ^ 8) ≠ some n) →
        exec (.scheduleEntryWrite n idx v) s = .next s))

/-- R351, R352, R353: a slice that is over goes to the next entry of the schedule: the same context goes on, another one gets
the partition by the bind-off token, which passes every tile once, row by row and alternately left to right and back. That
the token passes on whatever its tile has outstanding follows R353, where R316 says otherwise (log 24). R353, R355, R357: a
tile that the token has passed and that holds nothing of its context any more switches; when the last tile of the context
switches and every region is ready, the context leaves the partition and its kennel is COOPERATIVE (1). A tile that has
halted stays halted (R113); that it counts as switched is the model's choice (log 55). -/
def Obligations.SlicesEnd : Prop :=
  (∀ (s : State) (p c k n u : Nat) (r : List Nat),
     ((s.partAt p).now = some c → s.nextSlice p = some (k, n) → (s.partAt p).ending = false →
       (s.ctxAt c).resumed = true → (s.ctxAt c).forced = false →
       (s.partAt p).startedAt + 1000 * schedLen ((s.partAt p).sched.get 0 (s.partAt p).entry) ≤ s.ns ∨ s.hasWork p c = false →
       ∃ t, exec (.sliceEnd p) s = .next t ∧
         (schedCtx ((s.partAt p).sched.get 0 k) = c → (t.partAt p).ending = false ∧ (t.partAt p).entry = k ∧
           (t.partAt p).slices = n ∧ (t.partAt p).startedAt = s.ns) ∧
         (schedCtx ((s.partAt p).sched.get 0 k) ≠ c → (t.partAt p).ending = true ∧ (t.partAt p).endedAt = s.ns ∧
           (t.partAt p).token = serpentine (s.partAt p).desc)) ∧
     ((s.partAt p).token = u :: r → ∃ t, exec (.bindOffTokenHop p) s = .next t ∧ (t.tileAt u).passed = true ∧
       (t.partAt p).token = r ∧ ∀ a, t.byte a = s.byte a)) ∧
  (∀ (s : State) (p c u : Nat), (s.tileAt u).ctx = some c → (s.tileAt u).part = some p → (s.partAt p).now = some c →
     s.inPart p u = true → (s.partAt p).ending = true → (s.ctxAt c).forced = false → (s.tileAt u).passed = true →
     (s.tileAt u).switched = false → (s.tileAt u).halted = false → (s.tileAt u).vacant = true → s.awaited p c u = false →
     (s.lastOfBlock p u = false ∨ (s.regionAt (blockOf u)).savable false = true) →
     ((∃ k, k ≠ u ∧ (s.tileAt k).switched = false ∧ (s.tileAt k).halted = false ∧ (s.tileAt k).ctx = some c) →
       ∃ t, exec (.tileSwitch u) s = .next t ∧ (t.tileAt u).switched = true ∧ (t.tileAt u).node = none ∧
         (t.partAt p).now = some c) ∧
     ((∀ k, k ≠ u → (s.tileAt k).ctx = some c → (s.tileAt k).switched = true ∨ (s.tileAt k).halted = true) →
       (∀ b ∈ s.ctxBlocks p c, (s.regionAt b).savable false = true) →
       (s.partAt p).resize = none → (s.tileAt u).windows = [] → s.kennelBad p c [] = none → s.kennelAt c < 2 ^ 39 → (s.partTiles p).length ≤ 576 →
       ∃ t, exec (.tileSwitch u) s = .next t ∧ (t.partAt p).now = none ∧
         (∀ k, (s.tileAt k).halted = false → (t.tileAt k).ctx ≠ some c) ∧
         (∀ k, (s.tileAt k).ctx = some c → (s.tileAt k).halted = true → (t.tileAt k).halted = true) ∧ t.readNat (s.kennelAt c) 4 = 1))

/-- R354, R358, R361, R362: when GRACE has passed, or system software asks, a context is taken off its partition by force:
its tiles stop where they are; once what was on its way has landed, the images of the tiles go to the kennel, which is FORCED
(2). A save that takes longer than HANGWD, in cycles of the tile's block (R422), is given up: the kennel is INCOMPLETE (3)
and the context is removed. -/
def Obligations.ForcedSaves : Prop :=
  ∀ (s : State) (p c t0 : Nat),
    ((s.partAt p).now = some c → (s.partAt p).ending = true → (s.partAt p).endedAt + 1000 * descGrace (s.partAt p).desc ≤ s.ns →
      (s.ctxAt c).resumed = true → (s.ctxAt c).forced = false → ∃ t, exec (.graceExpiry p) s = .next t ∧
        (t.ctxAt c).forced = true ∧ (t.partAt p).token = [] ∧ (∀ k, t.running k = true → (s.tileAt k).ctx ≠ some c) ∧
        ∀ a, t.byte a = s.byte a) ∧
    (Managed s → s.partOf c = some p → (s.partAt p).now = some c → (s.ctxAt c).resumed = true → (s.ctxAt c).forced = false →
      ∃ t, exec (.forcedPreemptRequest c) s = .next t ∧ (t.ctxAt c).forced = true ∧
        ∀ k, t.running k = true → (s.tileAt k).ctx ≠ some c) ∧
    (s.partOf c = some p → (s.ctxAt c).forced = true → (s.partAt p).resize = none → s.kennelBad p c (s.imaged p c) = none →
      s.kennelAt c < 2 ^ 39 → (s.partTiles p).length ≤ 576 → (∀ k ∈ s.ctxTiles c, (s.tileAt k).settledForSave = true) →
      (∀ b ∈ s.ctxBlocks p c, (s.regionAt b).savable false = true ∧ s.awake b = true) →
      ∃ t, exec (.forcedSaveDone c) s = .next t ∧ (t.partAt p).now = none ∧ t.readNat (s.kennelAt c) 4 = 2 ∧
        ∀ x ∈ s.imaged p c, ∃ k, (t.ctxAt c).images.find x.2 = some (k, (s.tileAt x.2).image)) ∧
    ((∃ u ∈ s.ctxTiles c, (s.tileAt u).saveAt = some t0 ∧ t0 + periodOf (s.ctxAt c).record.hangwd 24 ≤ s.cyclesAt u) →
      s.transits = [] → (∀ a ∈ s.pod.adds ++ s.pod.asks, a.ctx ≠ c) → s.kennelAt c + 8 ≤ 2 ^ 40 →
      ((s.ctxAt c).record.pdir.toNat + 2 ^ 21 ≤ s.kennelAt c ∨ s.kennelAt c + 8 ≤ (s.ctxAt c).record.pdir.toNat) →
      ∃ t, exec (.hangWatchdogExpiry c) s = .next t ∧ t.readNat (s.kennelAt c) 4 = 3 ∧ ∀ k, (t.tileAt k).ctx ≠ some c)

/-- R353, R359, R414: the slice of the next context of the schedule begins once the tiles are free and no request is under
way on a region: every free tile is the context's, its kennel is EMPTY (0) and it runs; here of a context that has no active
graph to be cast on again. R360, R361, R372, R436: a flag raised on a tile that has switched, or has stopped for a forced
save, goes to FLAGS of its task, and to STICKY of the context where the task is gone; a removal, and a reset of a function,
stop the context's tiles and discard what it held, and the reset empties its queues; a shootdown drops exactly the kept
translations that meet its range, and is answered once no access that was translated before it is left, on a tile, in a saved
image, of an ASK or on its way. That it waits for every request on its way to another tile, also for a later one, is the
model's reading (log 74). -/
def Obligations.ContextsResume : Prop :=
  (∀ (s : State) (p c k n : Nat), s.partOf c = some p → s.power.on = true → s.power.halted = false → (s.partAt p).now = none →
     s.nextSlice p = some (k, n) → schedCtx ((s.partAt p).sched.get 0 k) = c → s.kstate c ≤ 1 → s.planReady = true →
     s.tilesFree p c = true → (s.partAt p).resize = none → (∀ b ∈ s.partBlocks p, (s.regionAt b).req = none) → (∀ e ∈ s.entries p c, e.slot = none ∧ e.stage = 0) →
     (∀ kv ∈ (s.ctxAt c).images, kv.2.2.trap.tvec ≠ 0) →
     ∃ t, exec (.contextResume c) s = .next t ∧ (t.partAt p).now = some c ∧ (t.ctxAt c).resumed = true ∧
       (t.ctxAt c).forced = false ∧ (t.partAt p).entry = k ∧ (t.partAt p).slices = n ∧ (t.partAt p).startedAt = s.ns ∧
       t.kstate c = 0 ∧ ∀ u ∈ s.partTiles p, (s.tileAt u).ctx = none → (t.tileAt u).ctx = some c) ∧
  (∀ (s : State) (c u k lo hi : Nat) (f : BitVec 8) (r : List Turn), let x := s.tileAt u
     (x.ctx = some c → k < 4 → x.switched = true ∨ (s.ctxAt c).forced = true →
       ((x.taskAt k).live = true → x.switched = false → ∃ t, exec (.lateFlagRaise c u k f) s = .next t ∧
         ((t.tileAt u).taskAt k).flags = (x.taskAt k).flags ||| f ∧ (t.ctxAt c).sticky = (s.ctxAt c).sticky) ∧
       ((x.taskAt k).live = false ∨ x.switched = true → ∃ t, exec (.lateFlagRaise c u k f) s = .next t ∧
         (t.ctxAt c).sticky = (s.ctxAt c).sticky ||| f ∧ t.tiles = s.tiles)) ∧
     (Managed s → (s.ctxAt c).exists_ = true → ∃ t, exec (.contextRemoveRequest c) s = .next t ∧ (∀ j, (t.tileAt j).ctx ≠ some c) ∧
       (t.ctxAt c).arrivals = [] ∧ (t.ctxAt c).images = [] ∧ (t.ctxAt c).resumed = false ∧ (t.ctxAt c).exists_ = true ∧
       ((s.ctxAt c).record.klen ≠ 0 → s.kstate c ≠ 3 → t.readNat (s.kennelAt c) 4 = 0)) ∧
     ((s.ctxAt c).exists_ = true → ∃ t, exec (.functionLevelReset c) s = .next t ∧ (∀ j, (t.tileAt j).ctx ≠ some c) ∧
       (t.ctxAt c).exists_ = true ∧ (∀ q, ((t.ctxAt c).vf.sq.get {} q).prod = 0 ∧ ((t.ctxAt c).vf.sq.get {} q).cons = 0) ∧
       (t.ctxAt c).vf.heldC = [] ∧ (t.ctxAt c).vf.heldE = []) ∧
     (Managed s → ∃ t, exec (.shootdownRequest c lo hi) s = .next t ∧
       (∀ e, e ∈ (t.ctxAt c).tlb ↔ e ∈ (s.ctxAt c).tlb ∧ (e.va + e.size ≤ lo ∨ hi < e.va)) ∧ (∀ a, t.byte a = s.byte a) ∧
       t.mgmt = s.mgmt) ∧
     (s.agenda = .shootDone c :: r → ∃ t, step s = .next t ∧ (∀ a, t.byte a = s.byte a) ∧ ∀ y ∈ (s.ctxAt c).shoots,
       (s.shootOver c y = true → .shootdown c y.va y.len ∈ t.mgmt.answers ∧ y ∉ (t.ctxAt c).shoots) ∧
       (s.shootOver c y = false → y ∈ (t.ctxAt c).shoots)))

/-! ### Host queues, keys, attestation, Ethernet, RAS, registers -/

/-- R432, R433, R434, R436: a doorbell of an enabled queue sets PROD, and one of a queue under reset is discarded; a
consumer's doorbell sets CONS and acknowledges the vector; an enabled queue takes no BASE, a BASE is a multiple of 4,096, and
K is 4 to 16, or 0 to disable, and no other value; system software tests vectors 2 to 7, whose message is pending while the
vector is masked. R432, R434: what the host writes to BAR0 of a VF reaches the register at its offset: the BASE and the CFG
of its six queues, PROD of a submission doorbell from bits 31 to 0, CONS of a completion or event doorbell from bits 63 to
32; other offsets ignore the write and read 0, and VFSTAT takes no write. A doorbell reads CONS above PROD. R409, R440, R441:
a key with a record that the fused key signs, and no other, makes its slot ACTIVE and keeps RBC; a revocation makes an ACTIVE
slot REVOKED; a supervisor image with a signature of an ACTIVE slot is installed with its digest; an attestation report holds
the nonce, the digests of the firmware, of each partition's supervisor image and of each live region image, the status words
of the key slots and the fused block map, and its signature. The layout of the installation record, the slot number in 8
bytes and then the key, and that of the report are the model's choice (logs 9, 14). -/
def Obligations.HostQueuesAndKeys : Prop :=
  (∀ (s : State) (n q v : Nat) (x : BitVec 32) (w : Word), s.power.on = true → (s.ctxAt n).exists_ = true →
     let r := (s.ctxAt n).vf.sq.get {} q
     (q < 4 → (s.ctxAt n).vf.flr = false → r.k ≠ 0 → ∃ t, exec (.submissionDoorbellWrite n q x) s = .next t ∧
       (t.ctxAt n).vf.sq.get {} q = { r with prod := x } ∧ ∀ a, t.byte a = s.byte a) ∧
     (q < 4 → (s.ctxAt n).vf.flr = true ∨ r.k = 0 → exec (.submissionDoorbellWrite n q x) s = .next s) ∧
     (n ≠ 192 → (s.ctxAt n).vf.heldC = [] → (s.ctxAt n).vf.heldE = [] → ∃ t,
       exec (.consumerDoorbellWrite n false x) s = .next t ∧ (t.ctxAt n).vf.cq.cons = x ∧
       ((t.ctxAt n).vf.msiC = true ↔ (s.ctxAt n).vf.cq.prod ≠ x ∧ (s.ctxAt n).vf.flr = false)) ∧
     (q < 4 → n ≠ 192 → r.k = 0 → w.toNat % 4096 = 0 → ∃ t, exec (.queueConfigWrite n q true w) s = .next t ∧
       ((t.ctxAt n).vf.sq.get {} q).base = w) ∧
     (q < 4 → n ≠ 192 → r.k ≠ 0 ∨ w.toNat % 4096 ≠ 0 → ∃ t, exec (.queueConfigWrite n q true w) s = .next t ∧
       (t.ctxAt n).vf.sq.get {} q = r) ∧
     (q < 4 → n ≠ 192 → r.k = 0 → 4 ≤ w.toNat % 32 → w.toNat % 32 ≤ 16 → ∃ t, exec (.queueConfigWrite n q false w) s = .next t ∧
       ((t.ctxAt n).vf.sq.get {} q).k = w.toNat % 32) ∧
     (q < 4 → n ≠ 192 → w.toNat % 32 ∈ [1, 2, 3] ∨ 16 < w.toNat % 32 → ∃ t, exec (.queueConfigWrite n q false w) s = .next t ∧
       (t.ctxAt n).vf.sq.get {} q = r) ∧
     (q < 4 → n ≠ 192 → w.toNat % 32 = 0 → ∃ t, exec (.queueConfigWrite n q false w) s = .next t ∧
       (t.ctxAt n).vf.sq.get {} q = { r with k := 0, prod := 0, cons := 0 }) ∧
     (s.mgmt.firmware = true → 2 ≤ v → v ≤ 7 → (s.ctxAt n).vf.flr = false → ∃ t, exec (.msixTestWrite n v) s = .next t ∧
       (((s.ctxAt n).vf.vector v).getLsbD 96 = false → (t.ctxAt n).vf.sent.get 0 v = (s.ctxAt n).vf.sent.get 0 v + 1) ∧
       (((s.ctxAt n).vf.vector v).getLsbD 96 = true → (t.ctxAt n).vf.sent = (s.ctxAt n).vf.sent ∧
         (t.ctxAt n).vf.pending.getLsbD v = true))) ∧
  (∀ (s : State) (n off q : Nat) (v : Word) (r : List Turn), n < 192 → s.agenda = .barWrite n 0 off v :: r →
     let u : State := { s with agenda := r }; let x := (s.ctxAt n).vf
     (q < 6 → off = 16 * q → step s = exec (.queueConfigWrite n q true v) u) ∧
     (q < 6 → off = 16 * q + 8 → step s = exec (.queueConfigWrite n q false v) u) ∧
     (q < 4 → off = 0x100 + 8 * q → step s = exec (.submissionDoorbellWrite n q (v.setWidth 32)) u ∧
       (s.barRead n 0 off).toNat = (x.sq.get {} q).cons.toNat * 2 ^ 32 + (x.sq.get {} q).prod.toNat) ∧
     (off = 0x120 → step s = exec (.consumerDoorbellWrite n false ((v >>> 32).setWidth 32)) u ∧
       (s.barRead n 0 off).toNat = x.cq.cons.toNat * 2 ^ 32 + x.cq.prod.toNat) ∧
     (off = 0x128 → step s = exec (.consumerDoorbellWrite n true ((v >>> 32).setWidth 32)) u ∧
       (s.barRead n 0 off).toNat = x.eq.cons.toNat * 2 ^ 32 + x.eq.prod.toNat) ∧
     (off = 0x200 ∨ 0x200 < off ∨ off % 8 ≠ 0 ∨ (0x60 ≤ off ∧ off < 0x100) ∨ (0x130 ≤ off ∧ off < 0x200) → step s = .next u) ∧
     (0x200 < off ∨ off % 8 ≠ 0 ∨ (0x60 ≤ off ∧ off < 0x100) ∨ (0x130 ≤ off ∧ off < 0x200) → s.barRead n 0 off = 0)) ∧
  (∀ (s : State) (n k : Nat) (key image sig : List Byte) (nonce : BitVec 512), Managed s →
     (k < 16 → key.length = 2592 → ∃ t, exec (.keySlotInstall k key sig) s = .next t ∧ t.keySlot k =
       if mldsaVerify Config.rootKey (sha3_512 (bytesOf 8 k ++ key)) sig then ⟨key, 1, (s.keySlot k).rbc⟩
       else s.keySlot k) ∧
     ((s.keySlot k).st = 1 → ∃ t, exec (.keySlotRevoke k) s = .next t ∧ t.keySlot k = { s.keySlot k with st := 2 }) ∧
     (n < 64 → (s.keySlot k).st = 1 → ∃ t, exec (.supervisorImageInstall n k image sig) s = .next t ∧ (t.partAt n).super =
       if mldsaVerify (s.keySlot k).key (sha3_512 image) sig then some (sha3_512 image)
       else (s.partAt n).super) ∧
     ((s.keySlot k).st ≠ 1 → exec (.supervisorImageInstall n k image sig) s = .next s) ∧
     ∃ t, exec (.attestationRequest nonce) s = .next t ∧ (∀ a, t.byte a = s.byte a) ∧
       let slots := (List.range 16).flatMap fun j => bytesOf 8 ((s.keySlot j).rbc.toNat * 2 ^ 32 + (s.keySlot j).st)
       let report := bytesOf 64 nonce.toNat ++ bytesOf 64 (s.mgmt.boot.getD Config.firmwareDigest).toNat ++
         (s.parts.flatMap fun x => (x.2.super.map fun d => bytesOf 8 x.1 ++ bytesOf 64 d.toNat).getD []) ++
         (s.regions.flatMap fun x => (x.2.live.map fun i => bytesOf 8 x.1 ++ bytesOf 64 i.digest.toNat).getD []) ++ slots ++
         s.fused.flatMap fun b => bytesOf 2 b
       t.mgmt.reports = s.mgmt.reports ++ [report ++ Config.attestationSign report])

/-- R437, R439: a frame with a bad FCS or length counts in RXBAD; a frame of a disabled flow is dropped; one that an attached
region classifies waits, and goes on at the region's answer or when it does not answer in time; one that finds no room is
counted; the rounded length of one that is taken is added to PROD and to the counter of its flow; the pause of a flow ends
when its fill is below LOWM. -/
def Obligations.Ethernet : Prop :=
  ∀ (s : State) (p f : Nat) (x : EthFrame) (r : List EthFrame), s.power.on = true → let e := s.ethAt p
    (s.dies ≤ p → exec (.ethFrameReceive p x) s = .next s) ∧
    (p < s.dies → x.fcsOk = false ∨ x.bytes.length < 64 ∨ 9216 < x.bytes.length → ∃ t, exec (.ethFrameReceive p x) s = .next t ∧
      (t.ethAt p).rxbad = (if e.rxbad = BitVec.allOnes 64 then e.rxbad else e.rxbad + 1) ∧ ∀ a, t.byte a = s.byte a) ∧
    (p < s.dies → x.fcsOk = true → 64 ≤ x.bytes.length → x.bytes.length ≤ 9216 →
      (e.glue.getLsbD 16 = true → ∃ t, exec (.ethFrameReceive p x) s = .next t ∧ (t.ethAt p).waiting = e.waiting ++ [x]) ∧
      (e.glue.getLsbD 16 = false → (e.flow (e.classify x)).ctx = 0xFF → exec (.ethFrameReceive p x) s = .next s) ∧
      (let w := e.flow (e.classify x); let c := w.ctx.toNat; let n := (16 + x.bytes.length + 63) / 64 * 64
       ∀ ca cn, e.glue.getLsbD 16 = false → w.ctx ≠ 0xFF → s.flowAddr c w.consA .read = .ok ca → let fill := (w.prod.toNat + 2 ^ 64 - s.readNat ca 8) % 2 ^ 64
        (w.size < fill + n → ∃ t, exec (.ethFrameReceive p x) s = .next t ∧ ((t.ethAt p).flow (e.classify x)).prod = w.prod ∧
          (w.drops ≠ BitVec.allOnes 64 → ((t.ethAt p).flow (e.classify x)).drops = w.drops + 1) ∧ ∀ a, t.byte a = s.byte a) ∧
        (∀ ps, fill + n ≤ w.size → s.ringPieces c w (n / 64) 0 = .ok ps → s.flowAddr c w.cntA .amo = .ok cn → s.poison = [] →
          (∀ a ∈ ps, cn + 8 ≤ a ∨ a + 64 ≤ cn) → ∃ t, exec (.ethFrameReceive p x) s = .next t ∧
            ((t.ethAt p).flow (e.classify x)).prod.toNat = (w.prod.toNat + n) % 2 ^ 64 ∧
            t.readNat cn 8 = (s.readNat cn 8 + n) % 2 ^ 64))) ∧
    (e.waiting = x :: r →
      (∃ t, exec (.glueClassifyAnswer p f) s = .next t ∧ (t.ethAt p).waiting = r ∧
        exec (.glueClassifyAnswer p f) s = exec (.glueClassifyAnswer p (if f < 64 then f else 63)) s) ∧
      exec (.glueClassifyTimeout p) s = exec (.glueClassifyAnswer p 63) s) ∧
    ∀ ca, (e.flow f).paused = true → (e.flow f).ctx ≠ 0xFF → s.flowAddr (e.flow f).ctx.toNat (e.flow f).consA .read = .ok ca →
      ((((e.flow f).prod.toNat + 2 ^ 64 - s.readNat ca 8) % 2 ^ 64 < (e.flow f).lowm → ∃ t, exec (.pauseRenewal p f) s = .next t ∧
        ((t.ethAt p).flow f).paused = false ∧ t.sent = s.sent) ∧
      ((e.flow f).lowm ≤ ((e.flow f).prod.toNat + 2 ^ 64 - s.readNat ca 8) % 2 ^ 64 → ∃ t, exec (.pauseRenewal p f) s = .next t ∧
        ((t.ethAt p).flow f).paused = true ∧ t.sent = s.sent ++ [.pause p (e.flow f).cls]))

/-- R427: the trip points keep their order below 125 °C; the first warning of a crossing is posted, and it clears below WARN
− 5; a throttle halves FACT until 10 ms have passed below THR − 5; system software clears a halt once the reading is below
WARN. That a reading at a trip point trips it, and that half of an odd FACT is rounded down, are the model's choice (log 19).
R427, R428: at T_HALT TRIP_REASON takes the cause 2 with TEMP and SENSOR, every context on a partition is taken off it by
force, and nothing issues until system software clears the halt. -/
def Obligations.ThermalLadder : Prop :=
  (∀ (s : State) (v : Word) (temp n : Nat), let warn := s.power.therm.toNat % 2 ^ 8
     (s.power.on = true → s.mgmt.firmware = true →
       let a := v.toNat % 2 ^ 8; let b := v.toNat / 2 ^ 8 % 2 ^ 8; let c := v.toNat / 2 ^ 16 % 2 ^ 8
       (a < b → b < c → c < 125 → ∃ t, exec (.thermcfgWrite v) s = .next t ∧ t.power.therm = v &&& 0xFFFFFF) ∧
       (¬(a < b ∧ b < c ∧ c < 125) → exec (.thermcfgWrite v) s = .next s) ∧
       (s.power.temp < warn → ∃ t, exec .thermalHaltClear s = .next t ∧ t.power.halted = false) ∧
       (warn ≤ s.power.temp → exec .thermalHaltClear s = .next s)) ∧
     (s.power.warned = false → warn ≤ temp → ∃ t, exec (.thermalWarn temp n) s = .next t ∧
       t.power.warned = true ∧ t.power.temp = temp ∧
       (s.mgmt.log.length < 65536 → t.mgmt.log.length = s.mgmt.log.length + 1)) ∧
     (s.power.temp + 5 < warn → ∃ t, exec .thermWarnClear s = .next t ∧ t.power.warned = false) ∧
     (warn ≤ s.power.temp + 5 → exec .thermWarnClear s = .next s) ∧
     (s.power.throttled = false → s.power.therm.toNat / 2 ^ 8 % 2 ^ 8 ≤ temp → ∃ t, exec (.thermalThrottle temp n) s = .next t ∧
       t.power.throttled = true ∧ t.power.fact = s.power.fact / 2 ∧ t.power.coolSince = none) ∧
     (∀ since, s.power.coolSince = some since →
       (since + 10000000 ≤ s.ns → ∃ t, exec .throttleClear s = .next t ∧ t.power.throttled = false ∧
         t.power.fact = s.power.fact) ∧
       (s.ns < since + 10000000 → exec .throttleClear s = .next s)) ∧
     (s.power.coolSince = none → exec .throttleClear s = .next s)) ∧
  (∀ (s : State) (temp n : Nat), s.power.halted = false → s.power.therm.toNat / 2 ^ 16 % 2 ^ 8 ≤ temp →
     ∃ t, exec (.thermalHalt temp n) s = .next t ∧ t.power.halted = true ∧ t.power.trip.toNat / 2 % 2 = 1 ∧
       t.power.trip.toNat / 2 ^ 40 % 2 ^ 8 = temp % 256 ∧ t.power.trip.toNat / 2 ^ 24 % 2 ^ 16 = n % 2 ^ 16 ∧ t.canIssue = false ∧
       ∀ kv ∈ s.parts, ∀ c, kv.2.now = some c → (s.ctxAt c).resumed = true → (t.ctxAt c).forced = true)

/-- R382, R442: a corrected error changes no byte and is posted, and the sixteenth of a row of HBM4 within an hour schedules
the row for repair; an uncorrectable error poisons data, here the aligned 8-byte word (the model's choice, log 23); a row
that is scheduled, and no other, is repaired and recorded; R281: a parity error of a tag ends the contexts of every partition
that owns the way, and where the way is of the common pool those of every partition that shares the pool. R392, R420, R421,
R422, R428, R438, R439: a register of the management interface takes the writable bits of what is written, in its range;
TRIP_REASON and the counters clear where a 1 is written; HIWM lies between LOWM and SIZE; GLUE takes a region of its own die.
That a share beyond the 1 GiB of its die, or on a die that is absent, and a watermark out of its order are rejected is the
model's choice (log 70). -/
def Obligations.ErrorsAndRegisters : Prop :=
  (∀ (s : State) (loc row slice way : Nat), let common := (s.pool.get 0 slice).getLsbD way
     (∃ t, exec (.eccCorrection loc false) s = .next t ∧ (∀ a, a < 2 ^ 64 → t.byte a = s.byte a) ∧
       (∀ a, a < 2 ^ 64 → (a ∈ t.poison ↔ a ∈ s.poison)) ∧
       (s.mgmt.log.length < 65536 → t.mgmt.log.length = s.mgmt.log.length + 1) ∧
       (loc < 2 ^ 40 → 15 ≤ ((s.mgmt.corrected.get [] (Config.hbmRow loc)).filter fun x => decide (s.ns < x + 3600000000000)).length →
         Config.hbmRow loc ∈ t.mgmt.scheduled)) ∧
     (∃ t, exec (.eccCorrection loc true) s = .next t ∧ (∀ a, a < 2 ^ 64 → t.byte a = s.byte a) ∧
       ∀ a, a < 2 ^ 64 → (a ∈ t.poison ↔ a ∈ s.poison ∨ a / 8 = loc / 8)) ∧
     (row ∈ s.mgmt.scheduled → ∃ t, exec (.hbmRowRepair row) s = .next t ∧ row ∈ t.mgmt.repairs ∧ row ∉ t.mgmt.scheduled ∧
       (∀ r ∈ s.mgmt.repairs, r ∈ t.mgmt.repairs) ∧ ∀ a, a < 2 ^ 64 → t.byte a = s.byte a) ∧
     (row ∉ s.mgmt.scheduled → exec (.hbmRowRepair row) s = .next s) ∧
     ∃ t, exec (.l2TagParityError slice way) s = .next t ∧ ∀ x ∈ s.parts, descValid x.2.desc = true →
       (common = true ∧ descShare x.2.desc = true) ∨ (common = false ∧ (x.2.mask slice).getLsbD way = true) →
       ∀ c ∈ s.bound x.1, ∀ k, (t.tileAt k).ctx ≠ some c) ∧
  (∀ (s : State) (v : Word) (p k b : Nat), Managed s →
     (∃ t, exec (.registerWrite .pwrRamp v) s = .next t ∧ t.power.ramp = v &&& 0x1FFFF) ∧
     (∃ t, exec (.registerWrite .pwrFloor v) s = .next t ∧ t.power.floor = v &&& 0x1FFFF) ∧
     (∃ t, exec (.registerWrite .tripReason v) s = .next t ∧ t.power.trip = s.power.trip &&& ~~~(v &&& 0xFF)) ∧
     (200 ≤ v.toNat → v.toNat ≤ 65535 → ∃ t, exec (.registerWrite .termMax v) s = .next t ∧ t.pod.termMax = v.toNat) ∧
     (v.toNat < 200 ∨ 65535 < v.toNat → exec (.registerWrite .termMax v) s = .next s) ∧
     (∃ t, exec (.registerWrite (.droopCnt b) v) s = .next t ∧ (t.blockAt b).droop = (s.blockAt b).droop &&& ~~~(v.setWidth 32)) ∧
     (p < s.dies → k < 8 → ∃ t, exec (.registerWrite (.flowTab p k) v) s = .next t ∧ (t.ethAt p).flowTabAt k = v &&& 0x3F3F3F3F3F3F3F3F) ∧
     (p < s.dies → b < 64 → v.toNat % 64 = 0 → ∃ t, exec (.registerWrite (.flowBase p b) v) s = .next t ∧
       ((t.ethAt p).flow b).base = v) ∧
     (s.dies ≤ p ∨ 64 ≤ b ∨ v.toNat % 64 ≠ 0 → exec (.registerWrite (.flowBase p b) v) s = .next s) ∧
     (p < 64 → k < s.dies → v.toNat + ((s.partAt p).shares.get {} k).size ≤ 2 ^ 30 →
       ∃ t, exec (.registerWrite (.wshareBase p k) v) s = .next t ∧
         (t.partAt p).shares.get {} k = { (s.partAt p).shares.get {} k with
           base := v.toNat
           digest := if v.toNat = ((s.partAt p).shares.get {} k).base then ((s.partAt p).shares.get {} k).digest else none }) ∧
     (p < s.dies → b < 64 → ((s.ethAt p).flow b).lowm < v.toNat → v.toNat ≤ ((s.ethAt p).flow b).size →
       ∃ t, exec (.registerWrite (.flowHiwm p b) v) s = .next t ∧ ((t.ethAt p).flow b).hiwm = v.toNat) ∧
     (v.toNat ≤ ((s.ethAt p).flow b).lowm ∨ ((s.ethAt p).flow b).size < v.toNat →
       exec (.registerWrite (.flowHiwm p b) v) s = .next s) ∧
     (64 ≤ p ∨ s.dies ≤ k ∨ 2 ^ 30 < v.toNat + ((s.partAt p).shares.get {} k).size →
       exec (.registerWrite (.wshareBase p k) v) s = .next s) ∧
     (p < s.dies → v.getLsbD 16 = false → ∃ t, exec (.glueWrite p v) s = .next t ∧ (t.ethAt p).glue = v &&& 0x1FFFF) ∧
     (p < s.dies → v.getLsbD 16 = true → let x := v.toNat / 2 ^ 8 % 2 ^ 8; let y := v.toNat % 2 ^ 8
       x < s.blockSide → y < s.blockSide → x / 6 + 2 * (y / 6) = p → s.fused.contains (blockKey x y) = false →
       ∃ t, exec (.glueWrite p v) s = .next t ∧ (t.ethAt p).glue = v &&& 0x1FFFF) ∧
     (v.getLsbD 16 = true → v.toNat / 2 ^ 8 % 2 ^ 8 / 6 + 2 * (v.toNat % 2 ^ 8 / 6) ≠ p → exec (.glueWrite p v) s = .next s))

end
end

