-- ==== Sys2Proof/Laws/Decoding.lean ====
section
/-! SUPPORT. Decoding.lean: the fields of a word that is a sum of placed fields, and for each encoded instruction the decoding of
the word that its encoding table of the spec adds up to. -/

namespace Sys2Proof.Laws

theorem guard_enc (g : Guard) : g.enc = g.n.toNat * 33554432 + g.p.toNat * 4194304 := by
  cases g with
  | mk n p => cases n <;> simp only [Guard.enc, Bool.toNat_true, Bool.toNat_false, if_true, Bool.false_eq_true, if_false]

theorem bfld_of (w lo n : Nat) (x : BitVec n) (h : w / 2 ^ lo % 2 ^ n = x.toNat) : bfld w lo n = x := by
  apply BitVec.eq_of_toNat_eq
  simpa [bfld] using h

theorem gfld_of (w : Nat) (g : Guard) (h : w / 4194304 % 16 = g.n.toNat * 8 + g.p.toNat) : gfld w = g := by
  cases g with
  | mk n p =>
    have hp := p.isLt
    have hn : n.toNat ≤ 1 := Bool.toNat_le n
    simp only at h
    have h1 : fld w 25 1 = n.toNat := by unfold fld; omega
    have h2 : bfld w 22 3 = p := bfld_of w 22 3 p (by omega)
    unfold gfld
    rw [h1, h2]
    cases n <;> rfl

theorem decode_of_raw (w : Nat) (i : Instr) (h : decodeRaw w = some i) (hw : i.wf = true) : decode w = some i := by
  unfold decode
  rw [h]
  simp [Option.filter, hw]

theorem Ty_code_lt (x : Ty) : x.code < 16 := by cases x <;> decide

theorem Ty_ofCode_code (x : Ty) : Ty.ofCode x.code = some x := by cases x <;> rfl

theorem Rnd_code_lt (x : Rnd) : x.code < 6 := by cases x <;> decide

theorem Rnd_ofCode_code (x : Rnd) : Rnd.ofCode x.code = some x := by cases x <;> rfl

theorem SCond_code_lt (x : SCond) : x.code < 6 := by cases x <;> decide

theorem SCond_ofCode_code (x : SCond) : SCond.ofCode x.code = some x := by cases x <;> rfl

theorem VCond_code_lt (x : VCond) : x.code < 6 := by cases x <;> decide

theorem VCond_ofCode_code (x : VCond) : VCond.ofCode x.code = some x := by cases x <;> rfl

theorem Scope_code_lt (x : Scope) : x.code < 7 := by cases x <;> decide

theorem Scope_ofCode_code (x : Scope) : Scope.ofCode x.code = some x := by cases x <;> rfl

theorem Order_code_lt (x : Order) : x.code < 4 := by cases x <;> decide

theorem Order_ofCode_code (x : Order) : Order.ofCode x.code = some x := by cases x <;> rfl

theorem FKind_code_lt (x : FKind) : x.code < 4 := by cases x <;> decide

theorem FKind_ofCode_code (x : FKind) : FKind.ofCode x.code = some x := by cases x <;> rfl

theorem Size_code_lt (x : Size) : x.code < 4 := by cases x <;> decide

theorem Size_ofCode_code (x : Size) : Size.ofCode x.code = some x := by cases x <;> rfl

theorem Wd_code_lt (x : Wd) : x.code < 2 := by cases x <;> decide

theorem Wd_ofCode_code (x : Wd) : Wd.ofCode x.code = some x := by cases x <;> rfl

theorem AKind_code_lt (x : AKind) : x.code < 3 := by cases x <;> decide

theorem AKind_ofCode_code (x : AKind) : AKind.ofCode x.code = some x := by cases x <;> rfl

theorem Eng_code_lt (x : Eng) : x.code < 4 := by cases x <;> decide

theorem Eng_ofCode_code (x : Eng) : Eng.ofCode x.code = some x := by cases x <;> rfl

theorem Space_code_lt (x : Space) : x.code < 6 := by cases x <;> decide

theorem Space_ofCode_code (x : Space) : Space.ofCode x.code = some x := by cases x <;> rfl

theorem shape_0 (M : Nat) (F : Nat) (g : Guard) (x1 : BitVec 5) (x2 : BitVec 5) (x3 : BitVec 5) (hM : M < 64) (hF : F < 128) (W : Nat)
    (h : W = (M * 67108864 + F * 1) + (g.n.toNat * 33554432 + g.p.toNat * 4194304) + x1.toNat * 131072 + x2.toNat * 4096 + x3.toNat * 128) :
    fld W 26 6 = M ∧ fld W 0 7 = F ∧ gfld W = g ∧ bfld W 17 5 = x1 ∧ bfld W 12 5 = x2 ∧ bfld W 7 5 = x3 := by
  have := g.p.isLt; have := Bool.toNat_le g.n; have := x1.isLt; have := x2.isLt; have := x3.isLt
  exact ⟨by unfold fld; omega, by unfold fld; omega, gfld_of W g (by omega), bfld_of W 17 5 x1 (by omega), bfld_of W 12 5 x2 (by omega), bfld_of W 7 5 x3 (by omega)⟩

theorem shape_1 (M : Nat) (F : Nat) (g : Guard) (x1 : BitVec 5) (x2 : BitVec 5) (hM : M < 64) (hF : F < 128) (W : Nat)
    (h : W = (M * 67108864 + F * 1) + (g.n.toNat * 33554432 + g.p.toNat * 4194304) + x1.toNat * 131072 + x2.toNat * 4096) :
    fld W 26 6 = M ∧ fld W 0 7 = F ∧ fld W 7 5 = 0 ∧ gfld W = g ∧ bfld W 17 5 = x1 ∧ bfld W 12 5 = x2 := by
  have := g.p.isLt; have := Bool.toNat_le g.n; have := x1.isLt; have := x2.isLt
  exact ⟨by unfold fld; omega, by unfold fld; omega, by unfold fld; omega, gfld_of W g (by omega), bfld_of W 17 5 x1 (by omega), bfld_of W 12 5 x2 (by omega)⟩

theorem shape_2 (M : Nat) (g : Guard) (x1 : BitVec 5) (x2 : BitVec 5) (x3 : BitVec 12) (hM : M < 64) (W : Nat)
    (h : W = (M * 67108864) + (g.n.toNat * 33554432 + g.p.toNat * 4194304) + x1.toNat * 131072 + x2.toNat * 4096 + x3.toNat * 1) :
    fld W 26 6 = M ∧ gfld W = g ∧ bfld W 17 5 = x1 ∧ bfld W 12 5 = x2 ∧ bfld W 0 12 = x3 := by
  have := g.p.isLt; have := Bool.toNat_le g.n; have := x1.isLt; have := x2.isLt; have := x3.isLt
  exact ⟨by unfold fld; omega, gfld_of W g (by omega), bfld_of W 17 5 x1 (by omega), bfld_of W 12 5 x2 (by omega), bfld_of W 0 12 x3 (by omega)⟩

theorem shape_3 (M : Nat) (F : Nat) (g : Guard) (x1 : BitVec 5) (x2 : BitVec 5) (x3 : BitVec 6) (hM : M < 64) (hF : F < 4) (W : Nat)
    (h : W = (M * 67108864 + F * 1024) + (g.n.toNat * 33554432 + g.p.toNat * 4194304) + x1.toNat * 131072 + x2.toNat * 4096 + x3.toNat * 1) :
    fld W 26 6 = M ∧ fld W 10 2 = F ∧ fld W 6 4 = 0 ∧ gfld W = g ∧ bfld W 17 5 = x1 ∧ bfld W 12 5 = x2 ∧ bfld W 0 6 = x3 := by
  have := g.p.isLt; have := Bool.toNat_le g.n; have := x1.isLt; have := x2.isLt; have := x3.isLt
  exact ⟨by unfold fld; omega, by unfold fld; omega, by unfold fld; omega, gfld_of W g (by omega), bfld_of W 17 5 x1 (by omega), bfld_of W 12 5 x2 (by omega), bfld_of W 0 6 x3 (by omega)⟩

theorem shape_4 (M : Nat) (x0 : BitVec 5) (x1 : BitVec 21) (hM : M < 64) (W : Nat)
    (h : W = (M * 67108864) + x0.toNat * 2097152 + x1.toNat * 1) :
    fld W 26 6 = M ∧ bfld W 21 5 = x0 ∧ bfld W 0 21 = x1 := by
  have := x0.isLt; have := x1.isLt
  exact ⟨by unfold fld; omega, bfld_of W 21 5 x0 (by omega), bfld_of W 0 21 x1 (by omega)⟩

theorem shape_5 (M : Nat) (g : Guard) (x1 : BitVec 3) (x2 : BitVec 5) (x3 : BitVec 5) (x4 : Nat) (hM : M < 64) (h4 : x4 < 6) (W : Nat)
    (h : W = (M * 67108864) + (g.n.toNat * 33554432 + g.p.toNat * 4194304) + x1.toNat * 524288 + x2.toNat * 4096 + x3.toNat * 128 + x4 * 16) :
    fld W 26 6 = M ∧ fld W 0 4 = 0 ∧ fld W 17 2 = 0 ∧ gfld W = g ∧ bfld W 19 3 = x1 ∧ bfld W 12 5 = x2 ∧ bfld W 7 5 = x3 ∧ fld W 4 3 = x4 := by
  have := g.p.isLt; have := Bool.toNat_le g.n; have := x1.isLt; have := x2.isLt; have := x3.isLt
  exact ⟨by unfold fld; omega, by unfold fld; omega, by unfold fld; omega, gfld_of W g (by omega), bfld_of W 19 3 x1 (by omega), bfld_of W 12 5 x2 (by omega), bfld_of W 7 5 x3 (by omega), by unfold fld; omega⟩

theorem shape_6 (M : Nat) (g : Guard) (x1 : BitVec 3) (x2 : Nat) (x3 : BitVec 5) (x4 : BitVec 11) (hM : M < 64) (h2 : x2 < 6) (W : Nat)
    (h : W = (M * 67108864) + (g.n.toNat * 33554432 + g.p.toNat * 4194304) + x1.toNat * 524288 + x2 * 65536 + x3.toNat * 2048 + x4.toNat * 1) :
    fld W 26 6 = M ∧ gfld W = g ∧ bfld W 19 3 = x1 ∧ fld W 16 3 = x2 ∧ bfld W 11 5 = x3 ∧ bfld W 0 11 = x4 := by
  have := g.p.isLt; have := Bool.toNat_le g.n; have := x1.isLt; have := x3.isLt; have := x4.isLt
  exact ⟨by unfold fld; omega, gfld_of W g (by omega), bfld_of W 19 3 x1 (by omega), by unfold fld; omega, bfld_of W 11 5 x3 (by omega), bfld_of W 0 11 x4 (by omega)⟩

theorem shape_7 (M : Nat) (F : Nat) (g : Guard) (x1 : BitVec 3) (x2 : BitVec 3) (x3 : BitVec 3) (hM : M < 64) (hF : F < 8) (W : Nat)
    (h : W = (M * 67108864 + F * 1) + (g.n.toNat * 33554432 + g.p.toNat * 4194304) + x1.toNat * 524288 + x2.toNat * 65536 + x3.toNat * 8192) :
    fld W 26 6 = M ∧ fld W 0 3 = F ∧ fld W 3 10 = 0 ∧ gfld W = g ∧ bfld W 19 3 = x1 ∧ bfld W 16 3 = x2 ∧ bfld W 13 3 = x3 := by
  have := g.p.isLt; have := Bool.toNat_le g.n; have := x1.isLt; have := x2.isLt; have := x3.isLt
  exact ⟨by unfold fld; omega, by unfold fld; omega, by unfold fld; omega, gfld_of W g (by omega), bfld_of W 19 3 x1 (by omega), bfld_of W 16 3 x2 (by omega), bfld_of W 13 3 x3 (by omega)⟩

theorem shape_8 (M : Nat) (F : Nat) (g : Guard) (x1 : BitVec 3) (x2 : BitVec 3) (hM : M < 64) (hF : F < 8) (W : Nat)
    (h : W = (M * 67108864 + F * 1) + (g.n.toNat * 33554432 + g.p.toNat * 4194304) + x1.toNat * 524288 + x2.toNat * 65536) :
    fld W 26 6 = M ∧ fld W 0 3 = F ∧ fld W 3 13 = 0 ∧ gfld W = g ∧ bfld W 19 3 = x1 ∧ bfld W 16 3 = x2 := by
  have := g.p.isLt; have := Bool.toNat_le g.n; have := x1.isLt; have := x2.isLt
  exact ⟨by unfold fld; omega, by unfold fld; omega, by unfold fld; omega, gfld_of W g (by omega), bfld_of W 19 3 x1 (by omega), bfld_of W 16 3 x2 (by omega)⟩

theorem shape_9 (M : Nat) (F : Nat) (g : Guard) (x1 : BitVec 3) (hM : M < 64) (hF : F < 8) (W : Nat)
    (h : W = (M * 67108864 + F * 1) + (g.n.toNat * 33554432 + g.p.toNat * 4194304) + x1.toNat * 524288) :
    fld W 26 6 = M ∧ fld W 0 3 = F ∧ fld W 3 16 = 0 ∧ gfld W = g ∧ bfld W 19 3 = x1 := by
  have := g.p.isLt; have := Bool.toNat_le g.n; have := x1.isLt
  exact ⟨by unfold fld; omega, by unfold fld; omega, by unfold fld; omega, gfld_of W g (by omega), bfld_of W 19 3 x1 (by omega)⟩

theorem shape_10 (M : Nat) (x0 : BitVec 2) (x1 : BitVec 24) (hM : M < 64) (W : Nat)
    (h : W = (M * 67108864) + x0.toNat * 16777216 + x1.toNat * 1) :
    fld W 26 6 = M ∧ bfld W 24 2 = x0 ∧ bfld W 0 24 = x1 := by
  have := x0.isLt; have := x1.isLt
  exact ⟨by unfold fld; omega, bfld_of W 24 2 x0 (by omega), bfld_of W 0 24 x1 (by omega)⟩

theorem shape_11 (M : Nat) (F : Nat) (g : Guard) (x1 : BitVec 2) (hM : M < 64) (hF : F < 2) (W : Nat)
    (h : W = (M * 67108864 + F * 524288) + (g.n.toNat * 33554432 + g.p.toNat * 4194304) + x1.toNat * 1048576) :
    fld W 26 6 = M ∧ fld W 19 1 = F ∧ fld W 0 19 = 0 ∧ gfld W = g ∧ bfld W 20 2 = x1 := by
  have := g.p.isLt; have := Bool.toNat_le g.n; have := x1.isLt
  exact ⟨by unfold fld; omega, by unfold fld; omega, by unfold fld; omega, gfld_of W g (by omega), bfld_of W 20 2 x1 (by omega)⟩

theorem shape_12 (M : Nat) (g : Guard) (x1 : BitVec 2) (x2 : BitVec 5) (hM : M < 64) (W : Nat)
    (h : W = (M * 67108864) + (g.n.toNat * 33554432 + g.p.toNat * 4194304) + x1.toNat * 131072 + x2.toNat * 4096) :
    fld W 26 6 = M ∧ fld W 0 12 = 0 ∧ fld W 19 3 = 0 ∧ gfld W = g ∧ bfld W 17 2 = x1 ∧ bfld W 12 5 = x2 := by
  have := g.p.isLt; have := Bool.toNat_le g.n; have := x1.isLt; have := x2.isLt
  exact ⟨by unfold fld; omega, by unfold fld; omega, by unfold fld; omega, gfld_of W g (by omega), bfld_of W 17 2 x1 (by omega), bfld_of W 12 5 x2 (by omega)⟩

theorem shape_13 (M : Nat) (F : Nat) (g : Guard) (hM : M < 64) (hF : F < 128) (W : Nat)
    (h : W = (M * 67108864 + F * 1) + (g.n.toNat * 33554432 + g.p.toNat * 4194304)) :
    fld W 26 6 = M ∧ fld W 0 7 = F ∧ fld W 7 15 = 0 ∧ gfld W = g := by
  have := g.p.isLt; have := Bool.toNat_le g.n
  exact ⟨by unfold fld; omega, by unfold fld; omega, by unfold fld; omega, gfld_of W g (by omega)⟩

theorem shape_14 (M : Nat) (F : Nat) (g : Guard) (x1 : BitVec 5) (x2 : BitVec 10) (hM : M < 64) (hF : F < 128) (W : Nat)
    (h : W = (M * 67108864 + F * 1) + (g.n.toNat * 33554432 + g.p.toNat * 4194304) + x1.toNat * 131072 + x2.toNat * 128) :
    fld W 26 6 = M ∧ fld W 0 7 = F ∧ gfld W = g ∧ bfld W 17 5 = x1 ∧ bfld W 7 10 = x2 := by
  have := g.p.isLt; have := Bool.toNat_le g.n; have := x1.isLt; have := x2.isLt
  exact ⟨by unfold fld; omega, by unfold fld; omega, gfld_of W g (by omega), bfld_of W 17 5 x1 (by omega), bfld_of W 7 10 x2 (by omega)⟩

theorem shape_15 (M : Nat) (F : Nat) (g : Guard) (x1 : BitVec 5) (hM : M < 64) (hF : F < 128) (W : Nat)
    (h : W = (M * 67108864 + F * 1) + (g.n.toNat * 33554432 + g.p.toNat * 4194304) + x1.toNat * 4096) :
    fld W 26 6 = M ∧ fld W 0 7 = F ∧ fld W 7 5 = 0 ∧ fld W 17 5 = 0 ∧ gfld W = g ∧ bfld W 12 5 = x1 := by
  have := g.p.isLt; have := Bool.toNat_le g.n; have := x1.isLt
  exact ⟨by unfold fld; omega, by unfold fld; omega, by unfold fld; omega, by unfold fld; omega, gfld_of W g (by omega), bfld_of W 12 5 x1 (by omega)⟩

theorem shape_16 (M : Nat) (F : Nat) (g : Guard) (x1 : BitVec 5) (x2 : Nat) (hM : M < 64) (hF : F < 128) (h2 : x2 < 4) (W : Nat)
    (h : W = (M * 67108864 + F * 1) + (g.n.toNat * 33554432 + g.p.toNat * 4194304) + x1.toNat * 131072 + x2 * 4096) :
    fld W 26 6 = M ∧ fld W 0 7 = F ∧ fld W 7 5 = 0 ∧ fld W 14 3 = 0 ∧ gfld W = g ∧ bfld W 17 5 = x1 ∧ fld W 12 2 = x2 := by
  have := g.p.isLt; have := Bool.toNat_le g.n; have := x1.isLt
  exact ⟨by unfold fld; omega, by unfold fld; omega, by unfold fld; omega, by unfold fld; omega, gfld_of W g (by omega), bfld_of W 17 5 x1 (by omega), by unfold fld; omega⟩

theorem shape_17 (M : Nat) (F : Nat) (g : Guard) (x1 : BitVec 5) (x2 : BitVec 5) (x3 : Nat) (hM : M < 64) (hF : F < 128) (h3 : x3 < 6) (W : Nat)
    (h : W = (M * 67108864 + F * 1) + (g.n.toNat * 33554432 + g.p.toNat * 4194304) + x1.toNat * 131072 + x2.toNat * 4096 + x3 * 128) :
    fld W 26 6 = M ∧ fld W 0 7 = F ∧ gfld W = g ∧ bfld W 17 5 = x1 ∧ bfld W 12 5 = x2 ∧ fld W 7 5 = x3 := by
  have := g.p.isLt; have := Bool.toNat_le g.n; have := x1.isLt; have := x2.isLt
  exact ⟨by unfold fld; omega, by unfold fld; omega, gfld_of W g (by omega), bfld_of W 17 5 x1 (by omega), bfld_of W 12 5 x2 (by omega), by unfold fld; omega⟩

theorem shape_18 (M : Nat) (F : Nat) (g : Guard) (x1 : BitVec 5) (x2 : BitVec 5) (x3 : BitVec 9) (hM : M < 64) (hF : F < 8) (W : Nat)
    (h : W = (M * 67108864 + F * 512) + (g.n.toNat * 33554432 + g.p.toNat * 4194304) + x1.toNat * 131072 + x2.toNat * 4096 + x3.toNat * 1) :
    fld W 26 6 = M ∧ fld W 9 3 = F ∧ gfld W = g ∧ bfld W 17 5 = x1 ∧ bfld W 12 5 = x2 ∧ bfld W 0 9 = x3 := by
  have := g.p.isLt; have := Bool.toNat_le g.n; have := x1.isLt; have := x2.isLt; have := x3.isLt
  exact ⟨by unfold fld; omega, by unfold fld; omega, gfld_of W g (by omega), bfld_of W 17 5 x1 (by omega), bfld_of W 12 5 x2 (by omega), bfld_of W 0 9 x3 (by omega)⟩

theorem shape_19 (M : Nat) (F : Nat) (g : Guard) (x1 : BitVec 5) (x2 : BitVec 5) (x3 : Nat) (hM : M < 64) (hF : F < 8) (h3 : x3 < 7) (W : Nat)
    (h : W = (M * 67108864 + F * 512) + (g.n.toNat * 33554432 + g.p.toNat * 4194304) + x1.toNat * 131072 + x2.toNat * 4096 + x3 * 64) :
    fld W 26 6 = M ∧ fld W 9 3 = F ∧ fld W 0 6 = 0 ∧ gfld W = g ∧ bfld W 17 5 = x1 ∧ bfld W 12 5 = x2 ∧ fld W 6 3 = x3 := by
  have := g.p.isLt; have := Bool.toNat_le g.n; have := x1.isLt; have := x2.isLt
  exact ⟨by unfold fld; omega, by unfold fld; omega, by unfold fld; omega, gfld_of W g (by omega), bfld_of W 17 5 x1 (by omega), bfld_of W 12 5 x2 (by omega), by unfold fld; omega⟩

theorem shape_20 (M : Nat) (F : Nat) (x0 : Nat) (x1 : Nat) (x2 : BitVec 5) (x3 : BitVec 5) (x4 : BitVec 5) (x5 : Nat) (hM : M < 64) (hF : F < 16) (h0 : x0 < 7) (h1 : x1 < 4) (h5 : x5 < 2) (W : Nat)
    (h : W = (M * 67108864 + F * 4) + x0 * 8388608 + x1 * 2097152 + x2.toNat * 65536 + x3.toNat * 2048 + x4.toNat * 64 + x5 * 2) :
    fld W 26 6 = M ∧ fld W 2 4 = F ∧ fld W 0 1 = 0 ∧ fld W 23 3 = x0 ∧ fld W 21 2 = x1 ∧ bfld W 16 5 = x2 ∧ bfld W 11 5 = x3 ∧ bfld W 6 5 = x4 ∧ fld W 1 1 = x5 := by
  have := x2.isLt; have := x3.isLt; have := x4.isLt
  exact ⟨by unfold fld; omega, by unfold fld; omega, by unfold fld; omega, by unfold fld; omega, by unfold fld; omega, bfld_of W 16 5 x2 (by omega), bfld_of W 11 5 x3 (by omega), bfld_of W 6 5 x4 (by omega), by unfold fld; omega⟩

theorem shape_21 (M : Nat) (F : Nat) (g : Guard) (x1 : Nat) (x2 : Nat) (hM : M < 64) (hF : F < 4) (h1 : x1 < 7) (h2 : x2 < 4) (W : Nat)
    (h : W = (M * 67108864 + F * 32) + (g.n.toNat * 33554432 + g.p.toNat * 4194304) + x1 * 524288 + x2 * 131072) :
    fld W 26 6 = M ∧ fld W 5 2 = F ∧ fld W 0 5 = 0 ∧ fld W 7 10 = 0 ∧ gfld W = g ∧ fld W 19 3 = x1 ∧ fld W 17 2 = x2 := by
  have := g.p.isLt; have := Bool.toNat_le g.n
  exact ⟨by unfold fld; omega, by unfold fld; omega, by unfold fld; omega, by unfold fld; omega, gfld_of W g (by omega), by unfold fld; omega, by unfold fld; omega⟩

theorem shape_22 (M : Nat) (F : Nat) (g : Guard) (x1 : BitVec 5) (hM : M < 64) (hF : F < 4) (W : Nat)
    (h : W = (M * 67108864 + F * 32) + (g.n.toNat * 33554432 + g.p.toNat * 4194304) + x1.toNat * 4096) :
    fld W 26 6 = M ∧ fld W 5 2 = F ∧ fld W 0 5 = 0 ∧ fld W 7 5 = 0 ∧ fld W 17 5 = 0 ∧ gfld W = g ∧ bfld W 12 5 = x1 := by
  have := g.p.isLt; have := Bool.toNat_le g.n; have := x1.isLt
  exact ⟨by unfold fld; omega, by unfold fld; omega, by unfold fld; omega, by unfold fld; omega, by unfold fld; omega, gfld_of W g (by omega), bfld_of W 12 5 x1 (by omega)⟩

theorem shape_23 (M : Nat) (F : Nat) (g : Guard) (x1 : Nat) (x2 : BitVec 5) (x3 : BitVec 5) (hM : M < 64) (hF : F < 4) (h1 : x1 < 7) (W : Nat)
    (h : W = (M * 67108864 + F * 32) + (g.n.toNat * 33554432 + g.p.toNat * 4194304) + x1 * 524288 + x2.toNat * 4096 + x3.toNat * 128) :
    fld W 26 6 = M ∧ fld W 5 2 = F ∧ fld W 0 5 = 0 ∧ fld W 17 2 = 0 ∧ gfld W = g ∧ fld W 19 3 = x1 ∧ bfld W 12 5 = x2 ∧ bfld W 7 5 = x3 := by
  have := g.p.isLt; have := Bool.toNat_le g.n; have := x2.isLt; have := x3.isLt
  exact ⟨by unfold fld; omega, by unfold fld; omega, by unfold fld; omega, by unfold fld; omega, gfld_of W g (by omega), by unfold fld; omega, bfld_of W 12 5 x2 (by omega), bfld_of W 7 5 x3 (by omega)⟩

theorem shape_24 (M : Nat) (F : Nat) (g : Guard) (x1 : BitVec 5) (hM : M < 64) (hF : F < 128) (W : Nat)
    (h : W = (M * 67108864 + F * 1) + (g.n.toNat * 33554432 + g.p.toNat * 4194304) + x1.toNat * 131072) :
    fld W 26 6 = M ∧ fld W 0 7 = F ∧ fld W 7 10 = 0 ∧ gfld W = g ∧ bfld W 17 5 = x1 := by
  have := g.p.isLt; have := Bool.toNat_le g.n; have := x1.isLt
  exact ⟨by unfold fld; omega, by unfold fld; omega, by unfold fld; omega, gfld_of W g (by omega), bfld_of W 17 5 x1 (by omega)⟩

theorem shape_25 (M : Nat) (F : Nat) (g : Guard) (x1 : BitVec 5) (x2 : BitVec 5) (x3 : BitVec 5) (x4 : Nat) (hM : M < 64) (hF : F < 4) (h4 : x4 < 4) (W : Nat)
    (h : W = (M * 67108864 + F * 8) + (g.n.toNat * 33554432 + g.p.toNat * 4194304) + x1.toNat * 131072 + x2.toNat * 4096 + x3.toNat * 128 + x4 * 32) :
    fld W 26 6 = M ∧ fld W 3 2 = F ∧ fld W 0 3 = 0 ∧ gfld W = g ∧ bfld W 17 5 = x1 ∧ bfld W 12 5 = x2 ∧ bfld W 7 5 = x3 ∧ fld W 5 2 = x4 := by
  have := g.p.isLt; have := Bool.toNat_le g.n; have := x1.isLt; have := x2.isLt; have := x3.isLt
  exact ⟨by unfold fld; omega, by unfold fld; omega, by unfold fld; omega, gfld_of W g (by omega), bfld_of W 17 5 x1 (by omega), bfld_of W 12 5 x2 (by omega), bfld_of W 7 5 x3 (by omega), by unfold fld; omega⟩

theorem shape_26 (M : Nat) (F : Nat) (g : Guard) (x1 : BitVec 5) (x2 : BitVec 5) (x3 : BitVec 5) (hM : M < 64) (hF : F < 4) (W : Nat)
    (h : W = (M * 67108864 + F * 8 + 64) + (g.n.toNat * 33554432 + g.p.toNat * 4194304) + x1.toNat * 131072 + x2.toNat * 4096 + x3.toNat * 128) :
    fld W 26 6 = M ∧ fld W 3 2 = F ∧ fld W 0 3 = 0 ∧ fld W 5 2 = 2 ∧ gfld W = g ∧ bfld W 17 5 = x1 ∧ bfld W 12 5 = x2 ∧ bfld W 7 5 = x3 := by
  have := g.p.isLt; have := Bool.toNat_le g.n; have := x1.isLt; have := x2.isLt; have := x3.isLt
  exact ⟨by unfold fld; omega, by unfold fld; omega, by unfold fld; omega, by unfold fld; omega, gfld_of W g (by omega), bfld_of W 17 5 x1 (by omega), bfld_of W 12 5 x2 (by omega), bfld_of W 7 5 x3 (by omega)⟩

theorem shape_27 (M : Nat) (F : Nat) (x0 : BitVec 5) (x1 : BitVec 5) (x2 : BitVec 5) (hM : M < 64) (hF : F < 128) (W : Nat)
    (h : W = (M * 67108864 + F * 1) + x0.toNat * 131072 + x1.toNat * 4096 + x2.toNat * 128) :
    fld W 26 6 = M ∧ fld W 0 7 = F ∧ fld W 22 4 = 0 ∧ bfld W 17 5 = x0 ∧ bfld W 12 5 = x1 ∧ bfld W 7 5 = x2 := by
  have := x0.isLt; have := x1.isLt; have := x2.isLt
  exact ⟨by unfold fld; omega, by unfold fld; omega, by unfold fld; omega, bfld_of W 17 5 x0 (by omega), bfld_of W 12 5 x1 (by omega), bfld_of W 7 5 x2 (by omega)⟩

theorem shape_28 (M : Nat) (F : Nat) (x0 : BitVec 5) (x1 : BitVec 5) (x2 : BitVec 5) (x3 : BitVec 3) (x4 : Nat) (hM : M < 64) (hF : F < 16) (h4 : x4 < 16) (W : Nat)
    (h : W = (M * 67108864 + F * 16) + x0.toNat * 2097152 + x1.toNat * 65536 + x2.toNat * 2048 + x3.toNat * 256 + x4 * 1) :
    fld W 26 6 = M ∧ fld W 4 4 = F ∧ bfld W 21 5 = x0 ∧ bfld W 16 5 = x1 ∧ bfld W 11 5 = x2 ∧ bfld W 8 3 = x3 ∧ fld W 0 4 = x4 := by
  have := x0.isLt; have := x1.isLt; have := x2.isLt; have := x3.isLt
  exact ⟨by unfold fld; omega, by unfold fld; omega, bfld_of W 21 5 x0 (by omega), bfld_of W 16 5 x1 (by omega), bfld_of W 11 5 x2 (by omega), bfld_of W 8 3 x3 (by omega), by unfold fld; omega⟩

theorem shape_29 (M : Nat) (F : Nat) (x0 : BitVec 5) (x1 : BitVec 5) (x2 : BitVec 3) (x3 : Nat) (hM : M < 64) (hF : F < 16) (h3 : x3 < 16) (W : Nat)
    (h : W = (M * 67108864 + F * 16) + x0.toNat * 2097152 + x1.toNat * 65536 + x2.toNat * 256 + x3 * 1) :
    fld W 26 6 = M ∧ fld W 4 4 = F ∧ fld W 11 5 = 0 ∧ bfld W 21 5 = x0 ∧ bfld W 16 5 = x1 ∧ bfld W 8 3 = x2 ∧ fld W 0 4 = x3 := by
  have := x0.isLt; have := x1.isLt; have := x2.isLt
  exact ⟨by unfold fld; omega, by unfold fld; omega, by unfold fld; omega, bfld_of W 21 5 x0 (by omega), bfld_of W 16 5 x1 (by omega), bfld_of W 8 3 x2 (by omega), by unfold fld; omega⟩

theorem shape_30 (M : Nat) (x0 : BitVec 3) (x1 : BitVec 5) (x2 : BitVec 5) (x3 : BitVec 3) (x4 : Nat) (x5 : Nat) (hM : M < 64) (h4 : x4 < 6) (h5 : x5 < 16) (W : Nat)
    (h : W = (M * 67108864) + x0.toNat * 2097152 + x1.toNat * 65536 + x2.toNat * 2048 + x3.toNat * 256 + x4 * 16 + x5 * 1) :
    fld W 26 6 = M ∧ fld W 24 2 = 0 ∧ bfld W 21 3 = x0 ∧ bfld W 16 5 = x1 ∧ bfld W 11 5 = x2 ∧ bfld W 8 3 = x3 ∧ fld W 4 4 = x4 ∧ fld W 0 4 = x5 := by
  have := x0.isLt; have := x1.isLt; have := x2.isLt; have := x3.isLt
  exact ⟨by unfold fld; omega, by unfold fld; omega, bfld_of W 21 3 x0 (by omega), bfld_of W 16 5 x1 (by omega), bfld_of W 11 5 x2 (by omega), bfld_of W 8 3 x3 (by omega), by unfold fld; omega, by unfold fld; omega⟩

theorem shape_31 (M : Nat) (x0 : BitVec 5) (x1 : BitVec 5) (x2 : Nat) (x3 : BitVec 3) (x4 : BitVec 1) (x5 : Nat) (x6 : Nat) (hM : M < 64) (h2 : x2 < 16) (h5 : x5 < 6) (h6 : x6 < 16) (W : Nat)
    (h : W = (M * 67108864) + x0.toNat * 2097152 + x1.toNat * 65536 + x2 * 2048 + x3.toNat * 256 + x4.toNat * 128 + x5 * 16 + x6 * 1) :
    fld W 26 6 = M ∧ fld W 15 1 = 0 ∧ bfld W 21 5 = x0 ∧ bfld W 16 5 = x1 ∧ fld W 11 4 = x2 ∧ bfld W 8 3 = x3 ∧ bfld W 7 1 = x4 ∧ fld W 4 3 = x5 ∧ fld W 0 4 = x6 := by
  have := x0.isLt; have := x1.isLt; have := x3.isLt; have := x4.isLt
  exact ⟨by unfold fld; omega, by unfold fld; omega, bfld_of W 21 5 x0 (by omega), bfld_of W 16 5 x1 (by omega), by unfold fld; omega, bfld_of W 8 3 x3 (by omega), bfld_of W 7 1 x4 (by omega), by unfold fld; omega, by unfold fld; omega⟩

theorem shape_32 (M : Nat) (F : Nat) (x0 : BitVec 5) (x1 : BitVec 3) (x2 : Nat) (hM : M < 64) (hF : F < 16) (h2 : x2 < 16) (W : Nat)
    (h : W = (M * 67108864 + F * 16) + x0.toNat * 2097152 + x1.toNat * 256 + x2 * 1) :
    fld W 26 6 = M ∧ fld W 4 4 = F ∧ fld W 11 10 = 0 ∧ bfld W 21 5 = x0 ∧ bfld W 8 3 = x1 ∧ fld W 0 4 = x2 := by
  have := x0.isLt; have := x1.isLt
  exact ⟨by unfold fld; omega, by unfold fld; omega, by unfold fld; omega, bfld_of W 21 5 x0 (by omega), bfld_of W 8 3 x1 (by omega), by unfold fld; omega⟩

theorem shape_33 (M : Nat) (F : Nat) (x0 : BitVec 5) (x1 : BitVec 5) (x2 : BitVec 5) (x3 : Nat) (hM : M < 64) (hF : F < 16) (h3 : x3 < 16) (W : Nat)
    (h : W = (M * 67108864 + F * 16) + x0.toNat * 2097152 + x1.toNat * 65536 + x2.toNat * 2048 + x3 * 1) :
    fld W 26 6 = M ∧ fld W 4 4 = F ∧ fld W 8 3 = 0 ∧ bfld W 21 5 = x0 ∧ bfld W 16 5 = x1 ∧ bfld W 11 5 = x2 ∧ fld W 0 4 = x3 := by
  have := x0.isLt; have := x1.isLt; have := x2.isLt
  exact ⟨by unfold fld; omega, by unfold fld; omega, by unfold fld; omega, bfld_of W 21 5 x0 (by omega), bfld_of W 16 5 x1 (by omega), bfld_of W 11 5 x2 (by omega), by unfold fld; omega⟩

theorem shape_34 (M : Nat) (F : Nat) (x0 : BitVec 3) (x1 : BitVec 3) (x2 : BitVec 3) (x3 : Nat) (hM : M < 64) (hF : F < 16) (h3 : x3 < 16) (W : Nat)
    (h : W = (M * 67108864 + F * 16) + x0.toNat * 2097152 + x1.toNat * 65536 + x2.toNat * 2048 + x3 * 1) :
    fld W 26 6 = M ∧ fld W 4 4 = F ∧ fld W 8 3 = 0 ∧ fld W 14 2 = 0 ∧ fld W 19 2 = 0 ∧ fld W 24 2 = 0 ∧ bfld W 21 3 = x0 ∧ bfld W 16 3 = x1 ∧ bfld W 11 3 = x2 ∧ fld W 0 4 = x3 := by
  have := x0.isLt; have := x1.isLt; have := x2.isLt
  exact ⟨by unfold fld; omega, by unfold fld; omega, by unfold fld; omega, by unfold fld; omega, by unfold fld; omega, by unfold fld; omega, bfld_of W 21 3 x0 (by omega), bfld_of W 16 3 x1 (by omega), bfld_of W 11 3 x2 (by omega), by unfold fld; omega⟩

theorem shape_35 (M : Nat) (F : Nat) (x0 : BitVec 3) (x1 : BitVec 3) (x2 : Nat) (hM : M < 64) (hF : F < 16) (h2 : x2 < 16) (W : Nat)
    (h : W = (M * 67108864 + F * 16) + x0.toNat * 2097152 + x1.toNat * 65536 + x2 * 1) :
    fld W 26 6 = M ∧ fld W 4 4 = F ∧ fld W 8 8 = 0 ∧ fld W 19 2 = 0 ∧ fld W 24 2 = 0 ∧ bfld W 21 3 = x0 ∧ bfld W 16 3 = x1 ∧ fld W 0 4 = x2 := by
  have := x0.isLt; have := x1.isLt
  exact ⟨by unfold fld; omega, by unfold fld; omega, by unfold fld; omega, by unfold fld; omega, by unfold fld; omega, bfld_of W 21 3 x0 (by omega), bfld_of W 16 3 x1 (by omega), by unfold fld; omega⟩

theorem shape_36 (M : Nat) (F : Nat) (x0 : BitVec 5) (x1 : BitVec 3) (x2 : BitVec 3) (x3 : Nat) (hM : M < 64) (hF : F < 16) (h3 : x3 < 16) (W : Nat)
    (h : W = (M * 67108864 + F * 16) + x0.toNat * 2097152 + x1.toNat * 65536 + x2.toNat * 256 + x3 * 1) :
    fld W 26 6 = M ∧ fld W 4 4 = F ∧ fld W 11 5 = 0 ∧ fld W 19 2 = 0 ∧ bfld W 21 5 = x0 ∧ bfld W 16 3 = x1 ∧ bfld W 8 3 = x2 ∧ fld W 0 4 = x3 := by
  have := x0.isLt; have := x1.isLt; have := x2.isLt
  exact ⟨by unfold fld; omega, by unfold fld; omega, by unfold fld; omega, by unfold fld; omega, bfld_of W 21 5 x0 (by omega), bfld_of W 16 3 x1 (by omega), bfld_of W 8 3 x2 (by omega), by unfold fld; omega⟩

theorem shape_37 (M : Nat) (F : Nat) (x0 : BitVec 3) (x1 : BitVec 3) (x2 : BitVec 3) (x3 : Nat) (hM : M < 64) (hF : F < 16) (h3 : x3 < 16) (W : Nat)
    (h : W = (M * 67108864 + F * 16) + x0.toNat * 2097152 + x1.toNat * 65536 + x2.toNat * 256 + x3 * 1) :
    fld W 26 6 = M ∧ fld W 4 4 = F ∧ fld W 11 5 = 0 ∧ fld W 19 2 = 0 ∧ fld W 24 2 = 0 ∧ bfld W 21 3 = x0 ∧ bfld W 16 3 = x1 ∧ bfld W 8 3 = x2 ∧ fld W 0 4 = x3 := by
  have := x0.isLt; have := x1.isLt; have := x2.isLt
  exact ⟨by unfold fld; omega, by unfold fld; omega, by unfold fld; omega, by unfold fld; omega, by unfold fld; omega, bfld_of W 21 3 x0 (by omega), bfld_of W 16 3 x1 (by omega), bfld_of W 8 3 x2 (by omega), by unfold fld; omega⟩

theorem shape_38 (M : Nat) (F : Nat) (x0 : BitVec 5) (x1 : BitVec 5) (x2 : BitVec 5) (x3 : BitVec 3) (x4 : Nat) (x5 : Nat) (hM : M < 64) (hF : F < 8) (h4 : x4 < 7) (h5 : x5 < 2) (W : Nat)
    (h : W = (M * 67108864 + F * 32) + x0.toNat * 2097152 + x1.toNat * 65536 + x2.toNat * 2048 + x3.toNat * 256 + x4 * 4 + x5 * 1) :
    fld W 26 6 = M ∧ fld W 5 3 = F ∧ bfld W 21 5 = x0 ∧ bfld W 16 5 = x1 ∧ bfld W 11 5 = x2 ∧ bfld W 8 3 = x3 ∧ fld W 2 3 = x4 ∧ fld W 0 2 = x5 := by
  have := x0.isLt; have := x1.isLt; have := x2.isLt; have := x3.isLt
  exact ⟨by unfold fld; omega, by unfold fld; omega, bfld_of W 21 5 x0 (by omega), bfld_of W 16 5 x1 (by omega), bfld_of W 11 5 x2 (by omega), bfld_of W 8 3 x3 (by omega), by unfold fld; omega, by unfold fld; omega⟩

theorem shape_39 (M : Nat) (F : Nat) (x0 : BitVec 5) (x1 : BitVec 4) (hM : M < 64) (hF : F < 16) (W : Nat)
    (h : W = (M * 67108864 + F * 16) + x0.toNat * 2097152 + x1.toNat * 131072) :
    fld W 26 6 = M ∧ fld W 4 4 = F ∧ fld W 0 4 = 0 ∧ fld W 8 9 = 0 ∧ bfld W 21 5 = x0 ∧ bfld W 17 4 = x1 := by
  have := x0.isLt; have := x1.isLt
  exact ⟨by unfold fld; omega, by unfold fld; omega, by unfold fld; omega, by unfold fld; omega, bfld_of W 21 5 x0 (by omega), bfld_of W 17 4 x1 (by omega)⟩

theorem shape_40 (M : Nat) (F : Nat) (x0 : BitVec 5) (x1 : Nat) (x2 : BitVec 4) (x3 : BitVec 1) (hM : M < 64) (hF : F < 32) (h1 : x1 < 16) (W : Nat)
    (h : W = (M * 67108864 + F * 2097152) + x0.toNat * 65536 + x1 * 128 + x2.toNat * 8 + x3.toNat * 1) :
    fld W 26 6 = M ∧ fld W 21 5 = F ∧ fld W 1 2 = 0 ∧ fld W 11 5 = 0 ∧ bfld W 16 5 = x0 ∧ fld W 7 4 = x1 ∧ bfld W 3 4 = x2 ∧ bfld W 0 1 = x3 := by
  have := x0.isLt; have := x2.isLt; have := x3.isLt
  exact ⟨by unfold fld; omega, by unfold fld; omega, by unfold fld; omega, by unfold fld; omega, bfld_of W 16 5 x0 (by omega), by unfold fld; omega, bfld_of W 3 4 x2 (by omega), bfld_of W 0 1 x3 (by omega)⟩

theorem shape_41 (M : Nat) (F : Nat) (hM : M < 64) (hF : F < 32) (W : Nat)
    (h : W = (M * 67108864 + F * 2097152)) :
    fld W 26 6 = M ∧ fld W 21 5 = F ∧ fld W 0 21 = 0 := by
  exact ⟨by unfold fld; omega, by unfold fld; omega, by unfold fld; omega⟩

theorem shape_42 (M : Nat) (F : Nat) (x0 : BitVec 5) (hM : M < 64) (hF : F < 32) (W : Nat)
    (h : W = (M * 67108864 + F * 2097152) + x0.toNat * 65536) :
    fld W 26 6 = M ∧ fld W 21 5 = F ∧ fld W 0 16 = 0 ∧ bfld W 16 5 = x0 := by
  have := x0.isLt
  exact ⟨by unfold fld; omega, by unfold fld; omega, by unfold fld; omega, bfld_of W 16 5 x0 (by omega)⟩

theorem shape_43 (M : Nat) (F : Nat) (x0 : BitVec 4) (x1 : BitVec 5) (x2 : BitVec 4) (x3 : Nat) (x4 : BitVec 2) (x5 : BitVec 1) (hM : M < 64) (hF : F < 32) (h3 : x3 < 16) (W : Nat)
    (h : W = (M * 67108864 + F * 2097152) + x0.toNat * 65536 + x1.toNat * 2048 + x2.toNat * 128 + x3 * 8 + x4.toNat * 2 + x5.toNat * 1) :
    fld W 26 6 = M ∧ fld W 21 5 = F ∧ fld W 20 1 = 0 ∧ bfld W 16 4 = x0 ∧ bfld W 11 5 = x1 ∧ bfld W 7 4 = x2 ∧ fld W 3 4 = x3 ∧ bfld W 1 2 = x4 ∧ bfld W 0 1 = x5 := by
  have := x0.isLt; have := x1.isLt; have := x2.isLt; have := x4.isLt; have := x5.isLt
  exact ⟨by unfold fld; omega, by unfold fld; omega, by unfold fld; omega, bfld_of W 16 4 x0 (by omega), bfld_of W 11 5 x1 (by omega), bfld_of W 7 4 x2 (by omega), by unfold fld; omega, bfld_of W 1 2 x4 (by omega), bfld_of W 0 1 x5 (by omega)⟩

theorem shape_44 (M : Nat) (F : Nat) (x0 : BitVec 4) (hM : M < 64) (hF : F < 32) (W : Nat)
    (h : W = (M * 67108864 + F * 2097152) + x0.toNat * 128) :
    fld W 26 6 = M ∧ fld W 21 5 = F ∧ fld W 0 7 = 0 ∧ fld W 11 10 = 0 ∧ bfld W 7 4 = x0 := by
  have := x0.isLt
  exact ⟨by unfold fld; omega, by unfold fld; omega, by unfold fld; omega, by unfold fld; omega, bfld_of W 7 4 x0 (by omega)⟩

theorem shape_45 (M : Nat) (F : Nat) (x0 : BitVec 4) (x1 : Nat) (hM : M < 64) (hF : F < 32) (h1 : x1 < 3) (W : Nat)
    (h : W = (M * 67108864 + F * 2097152) + x0.toNat * 128 + x1 * 1) :
    fld W 26 6 = M ∧ fld W 21 5 = F ∧ fld W 3 4 = 0 ∧ fld W 11 10 = 0 ∧ bfld W 7 4 = x0 ∧ fld W 0 3 = x1 := by
  have := x0.isLt
  exact ⟨by unfold fld; omega, by unfold fld; omega, by unfold fld; omega, by unfold fld; omega, bfld_of W 7 4 x0 (by omega), by unfold fld; omega⟩

theorem shape_46 (M : Nat) (F : Nat) (x0 : BitVec 5) (x1 : BitVec 4) (x2 : BitVec 1) (hM : M < 64) (hF : F < 32) (W : Nat)
    (h : W = (M * 67108864 + F * 2097152) + x0.toNat * 65536 + x1.toNat * 128 + x2.toNat * 1) :
    fld W 26 6 = M ∧ fld W 21 5 = F ∧ fld W 1 6 = 0 ∧ fld W 11 5 = 0 ∧ bfld W 16 5 = x0 ∧ bfld W 7 4 = x1 ∧ bfld W 0 1 = x2 := by
  have := x0.isLt; have := x1.isLt; have := x2.isLt
  exact ⟨by unfold fld; omega, by unfold fld; omega, by unfold fld; omega, by unfold fld; omega, bfld_of W 16 5 x0 (by omega), bfld_of W 7 4 x1 (by omega), bfld_of W 0 1 x2 (by omega)⟩

theorem shape_47 (M : Nat) (F : Nat) (x0 : BitVec 4) (x1 : BitVec 5) (x2 : BitVec 4) (x3 : Nat) (hM : M < 64) (hF : F < 32) (h3 : x3 < 3) (W : Nat)
    (h : W = (M * 67108864 + F * 2097152) + x0.toNat * 65536 + x1.toNat * 2048 + x2.toNat * 128 + x3 * 1) :
    fld W 26 6 = M ∧ fld W 21 5 = F ∧ fld W 3 4 = 0 ∧ fld W 20 1 = 0 ∧ bfld W 16 4 = x0 ∧ bfld W 11 5 = x1 ∧ bfld W 7 4 = x2 ∧ fld W 0 3 = x3 := by
  have := x0.isLt; have := x1.isLt; have := x2.isLt
  exact ⟨by unfold fld; omega, by unfold fld; omega, by unfold fld; omega, by unfold fld; omega, bfld_of W 16 4 x0 (by omega), bfld_of W 11 5 x1 (by omega), bfld_of W 7 4 x2 (by omega), by unfold fld; omega⟩

theorem shape_48 (M : Nat) (F : Nat) (x0 : BitVec 1) (x1 : BitVec 4) (x2 : BitVec 5) (x3 : BitVec 4) (x4 : Nat) (x5 : Nat) (hM : M < 64) (hF : F < 32) (h4 : x4 < 16) (h5 : x5 < 6) (W : Nat)
    (h : W = (M * 67108864 + F * 2097152) + x0.toNat * 1048576 + x1.toNat * 65536 + x2.toNat * 2048 + x3.toNat * 128 + x4 * 8 + x5 * 1) :
    fld W 26 6 = M ∧ fld W 21 5 = F ∧ bfld W 20 1 = x0 ∧ bfld W 16 4 = x1 ∧ bfld W 11 5 = x2 ∧ bfld W 7 4 = x3 ∧ fld W 3 4 = x4 ∧ fld W 0 3 = x5 := by
  have := x0.isLt; have := x1.isLt; have := x2.isLt; have := x3.isLt
  exact ⟨by unfold fld; omega, by unfold fld; omega, bfld_of W 20 1 x0 (by omega), bfld_of W 16 4 x1 (by omega), bfld_of W 11 5 x2 (by omega), bfld_of W 7 4 x3 (by omega), by unfold fld; omega, by unfold fld; omega⟩

theorem shape_49 (M : Nat) (F : Nat) (x0 : BitVec 4) (x1 : BitVec 5) (x2 : BitVec 5) (hM : M < 64) (hF : F < 32) (W : Nat)
    (h : W = (M * 67108864 + F * 2097152 + 32768) + x0.toNat * 2048 + x1.toNat * 64 + x2.toNat * 2) :
    fld W 26 6 = M ∧ fld W 21 5 = F ∧ fld W 0 1 = 0 ∧ fld W 15 6 = 1 ∧ bfld W 11 4 = x0 ∧ bfld W 6 5 = x1 ∧ bfld W 1 5 = x2 := by
  have := x0.isLt; have := x1.isLt; have := x2.isLt
  exact ⟨by unfold fld; omega, by unfold fld; omega, by unfold fld; omega, by unfold fld; omega, bfld_of W 11 4 x0 (by omega), bfld_of W 6 5 x1 (by omega), bfld_of W 1 5 x2 (by omega)⟩

theorem shape_50 (M : Nat) (F : Nat) (x0 : BitVec 3) (x1 : BitVec 5) (x2 : BitVec 5) (hM : M < 64) (hF : F < 32) (W : Nat)
    (h : W = (M * 67108864 + F * 2097152) + x0.toNat * 2048 + x1.toNat * 64 + x2.toNat * 2) :
    fld W 26 6 = M ∧ fld W 21 5 = F ∧ fld W 0 1 = 0 ∧ fld W 14 7 = 0 ∧ bfld W 11 3 = x0 ∧ bfld W 6 5 = x1 ∧ bfld W 1 5 = x2 := by
  have := x0.isLt; have := x1.isLt; have := x2.isLt
  exact ⟨by unfold fld; omega, by unfold fld; omega, by unfold fld; omega, by unfold fld; omega, bfld_of W 11 3 x0 (by omega), bfld_of W 6 5 x1 (by omega), bfld_of W 1 5 x2 (by omega)⟩

theorem shape_51 (M : Nat) (F : Nat) (x0 : BitVec 3) (x1 : BitVec 5) (hM : M < 64) (hF : F < 32) (W : Nat)
    (h : W = (M * 67108864 + F * 2097152) + x0.toNat * 2048 + x1.toNat * 64) :
    fld W 26 6 = M ∧ fld W 21 5 = F ∧ fld W 0 6 = 0 ∧ fld W 14 7 = 0 ∧ bfld W 11 3 = x0 ∧ bfld W 6 5 = x1 := by
  have := x0.isLt; have := x1.isLt
  exact ⟨by unfold fld; omega, by unfold fld; omega, by unfold fld; omega, by unfold fld; omega, bfld_of W 11 3 x0 (by omega), bfld_of W 6 5 x1 (by omega)⟩

theorem shape_52 (M : Nat) (F : Nat) (x0 : BitVec 3) (hM : M < 64) (hF : F < 32) (W : Nat)
    (h : W = (M * 67108864 + F * 2097152) + x0.toNat * 2048) :
    fld W 26 6 = M ∧ fld W 21 5 = F ∧ fld W 0 11 = 0 ∧ fld W 14 7 = 0 ∧ bfld W 11 3 = x0 := by
  have := x0.isLt
  exact ⟨by unfold fld; omega, by unfold fld; omega, by unfold fld; omega, by unfold fld; omega, bfld_of W 11 3 x0 (by omega)⟩

theorem shape_53 (M : Nat) (F : Nat) (x0 : BitVec 5) (x1 : BitVec 5) (x2 : BitVec 5) (x3 : BitVec 5) (hM : M < 64) (hF : F < 32) (W : Nat)
    (h : W = (M * 67108864 + F * 2097152) + x0.toNat * 65536 + x1.toNat * 2048 + x2.toNat * 64 + x3.toNat * 2) :
    fld W 26 6 = M ∧ fld W 21 5 = F ∧ fld W 0 1 = 0 ∧ bfld W 16 5 = x0 ∧ bfld W 11 5 = x1 ∧ bfld W 6 5 = x2 ∧ bfld W 1 5 = x3 := by
  have := x0.isLt; have := x1.isLt; have := x2.isLt; have := x3.isLt
  exact ⟨by unfold fld; omega, by unfold fld; omega, by unfold fld; omega, bfld_of W 16 5 x0 (by omega), bfld_of W 11 5 x1 (by omega), bfld_of W 6 5 x2 (by omega), bfld_of W 1 5 x3 (by omega)⟩

theorem shape_54 (M : Nat) (F : Nat) (x0 : BitVec 5) (x1 : BitVec 4) (x2 : BitVec 5) (x3 : BitVec 5) (hM : M < 64) (hF : F < 32) (W : Nat)
    (h : W = (M * 67108864 + F * 2097152 + 32768) + x0.toNat * 65536 + x1.toNat * 2048 + x2.toNat * 64 + x3.toNat * 2) :
    fld W 26 6 = M ∧ fld W 21 5 = F ∧ fld W 0 1 = 0 ∧ fld W 15 1 = 1 ∧ bfld W 16 5 = x0 ∧ bfld W 11 4 = x1 ∧ bfld W 6 5 = x2 ∧ bfld W 1 5 = x3 := by
  have := x0.isLt; have := x1.isLt; have := x2.isLt; have := x3.isLt
  exact ⟨by unfold fld; omega, by unfold fld; omega, by unfold fld; omega, by unfold fld; omega, bfld_of W 16 5 x0 (by omega), bfld_of W 11 4 x1 (by omega), bfld_of W 6 5 x2 (by omega), bfld_of W 1 5 x3 (by omega)⟩

theorem shape_55 (M : Nat) (F : Nat) (x0 : BitVec 5) (x1 : BitVec 5) (x2 : BitVec 5) (hM : M < 64) (hF : F < 32) (W : Nat)
    (h : W = (M * 67108864 + F * 2097152) + x0.toNat * 2048 + x1.toNat * 64 + x2.toNat * 2) :
    fld W 26 6 = M ∧ fld W 21 5 = F ∧ fld W 0 1 = 0 ∧ fld W 16 5 = 0 ∧ bfld W 11 5 = x0 ∧ bfld W 6 5 = x1 ∧ bfld W 1 5 = x2 := by
  have := x0.isLt; have := x1.isLt; have := x2.isLt
  exact ⟨by unfold fld; omega, by unfold fld; omega, by unfold fld; omega, by unfold fld; omega, bfld_of W 11 5 x0 (by omega), bfld_of W 6 5 x1 (by omega), bfld_of W 1 5 x2 (by omega)⟩

theorem shape_56 (M : Nat) (F : Nat) (x0 : BitVec 5) (x1 : BitVec 5) (x2 : BitVec 5) (x3 : Nat) (hM : M < 64) (hF : F < 32) (h3 : x3 < 7) (W : Nat)
    (h : W = (M * 67108864 + F * 2097152) + x0.toNat * 65536 + x1.toNat * 2048 + x2.toNat * 64 + x3 * 8) :
    fld W 26 6 = M ∧ fld W 21 5 = F ∧ fld W 0 3 = 0 ∧ bfld W 16 5 = x0 ∧ bfld W 11 5 = x1 ∧ bfld W 6 5 = x2 ∧ fld W 3 3 = x3 := by
  have := x0.isLt; have := x1.isLt; have := x2.isLt
  exact ⟨by unfold fld; omega, by unfold fld; omega, by unfold fld; omega, bfld_of W 16 5 x0 (by omega), bfld_of W 11 5 x1 (by omega), bfld_of W 6 5 x2 (by omega), by unfold fld; omega⟩

theorem shape_57 (M : Nat) (F : Nat) (x0 : BitVec 5) (x1 : BitVec 5) (x2 : BitVec 5) (x3 : Nat) (x4 : BitVec 3) (hM : M < 64) (hF : F < 32) (h3 : x3 < 7) (W : Nat)
    (h : W = (M * 67108864 + F * 2097152) + x0.toNat * 65536 + x1.toNat * 2048 + x2.toNat * 64 + x3 * 8 + x4.toNat * 1) :
    fld W 26 6 = M ∧ fld W 21 5 = F ∧ bfld W 16 5 = x0 ∧ bfld W 11 5 = x1 ∧ bfld W 6 5 = x2 ∧ fld W 3 3 = x3 ∧ bfld W 0 3 = x4 := by
  have := x0.isLt; have := x1.isLt; have := x2.isLt; have := x4.isLt
  exact ⟨by unfold fld; omega, by unfold fld; omega, bfld_of W 16 5 x0 (by omega), bfld_of W 11 5 x1 (by omega), bfld_of W 6 5 x2 (by omega), by unfold fld; omega, bfld_of W 0 3 x4 (by omega)⟩

theorem shape_58 (M : Nat) (F : Nat) (x0 : Nat) (hM : M < 64) (hF : F < 32) (h0 : x0 < 7) (W : Nat)
    (h : W = (M * 67108864 + F * 2097152) + x0 * 8) :
    fld W 26 6 = M ∧ fld W 21 5 = F ∧ fld W 0 3 = 0 ∧ fld W 6 15 = 0 ∧ fld W 3 3 = x0 := by
  exact ⟨by unfold fld; omega, by unfold fld; omega, by unfold fld; omega, by unfold fld; omega, by unfold fld; omega⟩

theorem shape_59 (M : Nat) (F : Nat) (x0 : BitVec 5) (x1 : BitVec 5) (x2 : BitVec 5) (hM : M < 64) (hF : F < 32) (W : Nat)
    (h : W = (M * 67108864 + F * 2097152) + x0.toNat * 65536 + x1.toNat * 2048 + x2.toNat * 64) :
    fld W 26 6 = M ∧ fld W 21 5 = F ∧ fld W 0 6 = 0 ∧ bfld W 16 5 = x0 ∧ bfld W 11 5 = x1 ∧ bfld W 6 5 = x2 := by
  have := x0.isLt; have := x1.isLt; have := x2.isLt
  exact ⟨by unfold fld; omega, by unfold fld; omega, by unfold fld; omega, bfld_of W 16 5 x0 (by omega), bfld_of W 11 5 x1 (by omega), bfld_of W 6 5 x2 (by omega)⟩

theorem shape_60 (M : Nat) (F : Nat) (x0 : BitVec 5) (x1 : BitVec 5) (hM : M < 64) (hF : F < 32) (W : Nat)
    (h : W = (M * 67108864 + F * 2097152) + x0.toNat * 65536 + x1.toNat * 2048) :
    fld W 26 6 = M ∧ fld W 21 5 = F ∧ fld W 0 11 = 0 ∧ bfld W 16 5 = x0 ∧ bfld W 11 5 = x1 := by
  have := x0.isLt; have := x1.isLt
  exact ⟨by unfold fld; omega, by unfold fld; omega, by unfold fld; omega, bfld_of W 16 5 x0 (by omega), bfld_of W 11 5 x1 (by omega)⟩

theorem shape_61 (M : Nat) (g : Guard) (x1 : BitVec 7) (x2 : BitVec 7) (x3 : BitVec 7) (hM : M < 64) (W : Nat)
    (h : W = (M * 67108864) + (g.n.toNat * 33554432 + g.p.toNat * 4194304) + x1.toNat * 16384 + x2.toNat * 128 + x3.toNat * 1) :
    fld W 26 6 = M ∧ fld W 21 1 = 0 ∧ gfld W = g ∧ bfld W 14 7 = x1 ∧ bfld W 7 7 = x2 ∧ bfld W 0 7 = x3 := by
  have := g.p.isLt; have := Bool.toNat_le g.n; have := x1.isLt; have := x2.isLt; have := x3.isLt
  exact ⟨by unfold fld; omega, by unfold fld; omega, gfld_of W g (by omega), bfld_of W 14 7 x1 (by omega), bfld_of W 7 7 x2 (by omega), bfld_of W 0 7 x3 (by omega)⟩

theorem raw_add (g : Guard) (d : BitVec 5) (a : BitVec 5) (b : BitVec 5) (W : Nat)
    (h : W = 0x04000000 + (g.n.toNat * 33554432 + g.p.toNat * 4194304) + d.toNat * 131072 + a.toNat * 4096 + b.toNat * 128) : decodeRaw W = some (.add g d a b) := by
  obtain ⟨h0, h1, h2, h3, h4, h5⟩ := shape_0 1 0 g d a b (by decide) (by decide) W h
  unfold decodeRaw decode01
  rw [h0, h1, h2, h3, h4, h5]
  rfl

theorem raw_sub (g : Guard) (d : BitVec 5) (a : BitVec 5) (b : BitVec 5) (W : Nat)
    (h : W = 0x04000001 + (g.n.toNat * 33554432 + g.p.toNat * 4194304) + d.toNat * 131072 + a.toNat * 4096 + b.toNat * 128) : decodeRaw W = some (.sub g d a b) := by
  obtain ⟨h0, h1, h2, h3, h4, h5⟩ := shape_0 1 1 g d a b (by decide) (by decide) W h
  unfold decodeRaw decode01
  rw [h0, h1, h2, h3, h4, h5]
  rfl

theorem raw_mul (g : Guard) (d : BitVec 5) (a : BitVec 5) (b : BitVec 5) (W : Nat)
    (h : W = 0x04000002 + (g.n.toNat * 33554432 + g.p.toNat * 4194304) + d.toNat * 131072 + a.toNat * 4096 + b.toNat * 128) : decodeRaw W = some (.mul g d a b) := by
  obtain ⟨h0, h1, h2, h3, h4, h5⟩ := shape_0 1 2 g d a b (by decide) (by decide) W h
  unfold decodeRaw decode01
  rw [h0, h1, h2, h3, h4, h5]
  rfl

theorem raw_mulh (g : Guard) (d : BitVec 5) (a : BitVec 5) (b : BitVec 5) (W : Nat)
    (h : W = 0x04000003 + (g.n.toNat * 33554432 + g.p.toNat * 4194304) + d.toNat * 131072 + a.toNat * 4096 + b.toNat * 128) : decodeRaw W = some (.mulh g d a b) := by
  obtain ⟨h0, h1, h2, h3, h4, h5⟩ := shape_0 1 3 g d a b (by decide) (by decide) W h
  unfold decodeRaw decode01
  rw [h0, h1, h2, h3, h4, h5]
  rfl

theorem raw_mulhu (g : Guard) (d : BitVec 5) (a : BitVec 5) (b : BitVec 5) (W : Nat)
    (h : W = 0x04000004 + (g.n.toNat * 33554432 + g.p.toNat * 4194304) + d.toNat * 131072 + a.toNat * 4096 + b.toNat * 128) : decodeRaw W = some (.mulhu g d a b) := by
  obtain ⟨h0, h1, h2, h3, h4, h5⟩ := shape_0 1 4 g d a b (by decide) (by decide) W h
  unfold decodeRaw decode01
  rw [h0, h1, h2, h3, h4, h5]
  rfl

theorem raw_div (g : Guard) (d : BitVec 5) (a : BitVec 5) (b : BitVec 5) (W : Nat)
    (h : W = 0x04000005 + (g.n.toNat * 33554432 + g.p.toNat * 4194304) + d.toNat * 131072 + a.toNat * 4096 + b.toNat * 128) : decodeRaw W = some (.div g d a b) := by
  obtain ⟨h0, h1, h2, h3, h4, h5⟩ := shape_0 1 5 g d a b (by decide) (by decide) W h
  unfold decodeRaw decode01
  rw [h0, h1, h2, h3, h4, h5]
  rfl

theorem raw_divu (g : Guard) (d : BitVec 5) (a : BitVec 5) (b : BitVec 5) (W : Nat)
    (h : W = 0x04000006 + (g.n.toNat * 33554432 + g.p.toNat * 4194304) + d.toNat * 131072 + a.toNat * 4096 + b.toNat * 128) : decodeRaw W = some (.divu g d a b) := by
  obtain ⟨h0, h1, h2, h3, h4, h5⟩ := shape_0 1 6 g d a b (by decide) (by decide) W h
  unfold decodeRaw decode01
  rw [h0, h1, h2, h3, h4, h5]
  rfl

theorem raw_rem (g : Guard) (d : BitVec 5) (a : BitVec 5) (b : BitVec 5) (W : Nat)
    (h : W = 0x04000007 + (g.n.toNat * 33554432 + g.p.toNat * 4194304) + d.toNat * 131072 + a.toNat * 4096 + b.toNat * 128) : decodeRaw W = some (.rem g d a b) := by
  obtain ⟨h0, h1, h2, h3, h4, h5⟩ := shape_0 1 7 g d a b (by decide) (by decide) W h
  unfold decodeRaw decode01
  rw [h0, h1, h2, h3, h4, h5]
  rfl

theorem raw_remu (g : Guard) (d : BitVec 5) (a : BitVec 5) (b : BitVec 5) (W : Nat)
    (h : W = 0x04000008 + (g.n.toNat * 33554432 + g.p.toNat * 4194304) + d.toNat * 131072 + a.toNat * 4096 + b.toNat * 128) : decodeRaw W = some (.remu g d a b) := by
  obtain ⟨h0, h1, h2, h3, h4, h5⟩ := shape_0 1 8 g d a b (by decide) (by decide) W h
  unfold decodeRaw decode01
  rw [h0, h1, h2, h3, h4, h5]
  rfl

theorem raw_andS (g : Guard) (d : BitVec 5) (a : BitVec 5) (b : BitVec 5) (W : Nat)
    (h : W = 0x04000009 + (g.n.toNat * 33554432 + g.p.toNat * 4194304) + d.toNat * 131072 + a.toNat * 4096 + b.toNat * 128) : decodeRaw W = some (.andS g d a b) := by
  obtain ⟨h0, h1, h2, h3, h4, h5⟩ := shape_0 1 9 g d a b (by decide) (by decide) W h
  unfold decodeRaw decode01
  rw [h0, h1, h2, h3, h4, h5]
  rfl

theorem raw_orS (g : Guard) (d : BitVec 5) (a : BitVec 5) (b : BitVec 5) (W : Nat)
    (h : W = 0x0400000A + (g.n.toNat * 33554432 + g.p.toNat * 4194304) + d.toNat * 131072 + a.toNat * 4096 + b.toNat * 128) : decodeRaw W = some (.orS g d a b) := by
  obtain ⟨h0, h1, h2, h3, h4, h5⟩ := shape_0 1 10 g d a b (by decide) (by decide) W h
  unfold decodeRaw decode01
  rw [h0, h1, h2, h3, h4, h5]
  rfl

theorem raw_xorS (g : Guard) (d : BitVec 5) (a : BitVec 5) (b : BitVec 5) (W : Nat)
    (h : W = 0x0400000B + (g.n.toNat * 33554432 + g.p.toNat * 4194304) + d.toNat * 131072 + a.toNat * 4096 + b.toNat * 128) : decodeRaw W = some (.xorS g d a b) := by
  obtain ⟨h0, h1, h2, h3, h4, h5⟩ := shape_0 1 11 g d a b (by decide) (by decide) W h
  unfold decodeRaw decode01
  rw [h0, h1, h2, h3, h4, h5]
  rfl

theorem raw_andn (g : Guard) (d : BitVec 5) (a : BitVec 5) (b : BitVec 5) (W : Nat)
    (h : W = 0x0400000C + (g.n.toNat * 33554432 + g.p.toNat * 4194304) + d.toNat * 131072 + a.toNat * 4096 + b.toNat * 128) : decodeRaw W = some (.andn g d a b) := by
  obtain ⟨h0, h1, h2, h3, h4, h5⟩ := shape_0 1 12 g d a b (by decide) (by decide) W h
  unfold decodeRaw decode01
  rw [h0, h1, h2, h3, h4, h5]
  rfl

theorem raw_shl (g : Guard) (d : BitVec 5) (a : BitVec 5) (b : BitVec 5) (W : Nat)
    (h : W = 0x0400000D + (g.n.toNat * 33554432 + g.p.toNat * 4194304) + d.toNat * 131072 + a.toNat * 4096 + b.toNat * 128) : decodeRaw W = some (.shl g d a b) := by
  obtain ⟨h0, h1, h2, h3, h4, h5⟩ := shape_0 1 13 g d a b (by decide) (by decide) W h
  unfold decodeRaw decode01
  rw [h0, h1, h2, h3, h4, h5]
  rfl

theorem raw_shr (g : Guard) (d : BitVec 5) (a : BitVec 5) (b : BitVec 5) (W : Nat)
    (h : W = 0x0400000E + (g.n.toNat * 33554432 + g.p.toNat * 4194304) + d.toNat * 131072 + a.toNat * 4096 + b.toNat * 128) : decodeRaw W = some (.shr g d a b) := by
  obtain ⟨h0, h1, h2, h3, h4, h5⟩ := shape_0 1 14 g d a b (by decide) (by decide) W h
  unfold decodeRaw decode01
  rw [h0, h1, h2, h3, h4, h5]
  rfl

theorem raw_sar (g : Guard) (d : BitVec 5) (a : BitVec 5) (b : BitVec 5) (W : Nat)
    (h : W = 0x0400000F + (g.n.toNat * 33554432 + g.p.toNat * 4194304) + d.toNat * 131072 + a.toNat * 4096 + b.toNat * 128) : decodeRaw W = some (.sar g d a b) := by
  obtain ⟨h0, h1, h2, h3, h4, h5⟩ := shape_0 1 15 g d a b (by decide) (by decide) W h
  unfold decodeRaw decode01
  rw [h0, h1, h2, h3, h4, h5]
  rfl

theorem raw_rotr (g : Guard) (d : BitVec 5) (a : BitVec 5) (b : BitVec 5) (W : Nat)
    (h : W = 0x04000010 + (g.n.toNat * 33554432 + g.p.toNat * 4194304) + d.toNat * 131072 + a.toNat * 4096 + b.toNat * 128) : decodeRaw W = some (.rotr g d a b) := by
  obtain ⟨h0, h1, h2, h3, h4, h5⟩ := shape_0 1 16 g d a b (by decide) (by decide) W h
  unfold decodeRaw decode01
  rw [h0, h1, h2, h3, h4, h5]
  rfl

theorem raw_minS (g : Guard) (d : BitVec 5) (a : BitVec 5) (b : BitVec 5) (W : Nat)
    (h : W = 0x04000011 + (g.n.toNat * 33554432 + g.p.toNat * 4194304) + d.toNat * 131072 + a.toNat * 4096 + b.toNat * 128) : decodeRaw W = some (.minS g d a b) := by
  obtain ⟨h0, h1, h2, h3, h4, h5⟩ := shape_0 1 17 g d a b (by decide) (by decide) W h
  unfold decodeRaw decode01
  rw [h0, h1, h2, h3, h4, h5]
  rfl

theorem raw_maxS (g : Guard) (d : BitVec 5) (a : BitVec 5) (b : BitVec 5) (W : Nat)
    (h : W = 0x04000012 + (g.n.toNat * 33554432 + g.p.toNat * 4194304) + d.toNat * 131072 + a.toNat * 4096 + b.toNat * 128) : decodeRaw W = some (.maxS g d a b) := by
  obtain ⟨h0, h1, h2, h3, h4, h5⟩ := shape_0 1 18 g d a b (by decide) (by decide) W h
  unfold decodeRaw decode01
  rw [h0, h1, h2, h3, h4, h5]
  rfl

theorem raw_minu (g : Guard) (d : BitVec 5) (a : BitVec 5) (b : BitVec 5) (W : Nat)
    (h : W = 0x04000013 + (g.n.toNat * 33554432 + g.p.toNat * 4194304) + d.toNat * 131072 + a.toNat * 4096 + b.toNat * 128) : decodeRaw W = some (.minu g d a b) := by
  obtain ⟨h0, h1, h2, h3, h4, h5⟩ := shape_0 1 19 g d a b (by decide) (by decide) W h
  unfold decodeRaw decode01
  rw [h0, h1, h2, h3, h4, h5]
  rfl

theorem raw_maxu (g : Guard) (d : BitVec 5) (a : BitVec 5) (b : BitVec 5) (W : Nat)
    (h : W = 0x04000014 + (g.n.toNat * 33554432 + g.p.toNat * 4194304) + d.toNat * 131072 + a.toNat * 4096 + b.toNat * 128) : decodeRaw W = some (.maxu g d a b) := by
  obtain ⟨h0, h1, h2, h3, h4, h5⟩ := shape_0 1 20 g d a b (by decide) (by decide) W h
  unfold decodeRaw decode01
  rw [h0, h1, h2, h3, h4, h5]
  rfl

theorem raw_clz (g : Guard) (d : BitVec 5) (a : BitVec 5) (W : Nat)
    (h : W = 0x04000015 + (g.n.toNat * 33554432 + g.p.toNat * 4194304) + d.toNat * 131072 + a.toNat * 4096) : decodeRaw W = some (.clz g d a) := by
  obtain ⟨h0, h1, h2, h3, h4, h5⟩ := shape_1 1 21 g d a (by decide) (by decide) W h
  unfold decodeRaw decode01
  rw [h0, h1, h2, h3, h4, h5]
  rfl

theorem raw_ctz (g : Guard) (d : BitVec 5) (a : BitVec 5) (W : Nat)
    (h : W = 0x04000016 + (g.n.toNat * 33554432 + g.p.toNat * 4194304) + d.toNat * 131072 + a.toNat * 4096) : decodeRaw W = some (.ctz g d a) := by
  obtain ⟨h0, h1, h2, h3, h4, h5⟩ := shape_1 1 22 g d a (by decide) (by decide) W h
  unfold decodeRaw decode01
  rw [h0, h1, h2, h3, h4, h5]
  rfl

theorem raw_popc (g : Guard) (d : BitVec 5) (a : BitVec 5) (W : Nat)
    (h : W = 0x04000017 + (g.n.toNat * 33554432 + g.p.toNat * 4194304) + d.toNat * 131072 + a.toNat * 4096) : decodeRaw W = some (.popc g d a) := by
  obtain ⟨h0, h1, h2, h3, h4, h5⟩ := shape_1 1 23 g d a (by decide) (by decide) W h
  unfold decodeRaw decode01
  rw [h0, h1, h2, h3, h4, h5]
  rfl

theorem raw_sextb (g : Guard) (d : BitVec 5) (a : BitVec 5) (W : Nat)
    (h : W = 0x04000018 + (g.n.toNat * 33554432 + g.p.toNat * 4194304) + d.toNat * 131072 + a.toNat * 4096) : decodeRaw W = some (.sextb g d a) := by
  obtain ⟨h0, h1, h2, h3, h4, h5⟩ := shape_1 1 24 g d a (by decide) (by decide) W h
  unfold decodeRaw decode01
  rw [h0, h1, h2, h3, h4, h5]
  rfl

theorem raw_sexth (g : Guard) (d : BitVec 5) (a : BitVec 5) (W : Nat)
    (h : W = 0x04000019 + (g.n.toNat * 33554432 + g.p.toNat * 4194304) + d.toNat * 131072 + a.toNat * 4096) : decodeRaw W = some (.sexth g d a) := by
  obtain ⟨h0, h1, h2, h3, h4, h5⟩ := shape_1 1 25 g d a (by decide) (by decide) W h
  unfold decodeRaw decode01
  rw [h0, h1, h2, h3, h4, h5]
  rfl

theorem raw_sextw (g : Guard) (d : BitVec 5) (a : BitVec 5) (W : Nat)
    (h : W = 0x0400001A + (g.n.toNat * 33554432 + g.p.toNat * 4194304) + d.toNat * 131072 + a.toNat * 4096) : decodeRaw W = some (.sextw g d a) := by
  obtain ⟨h0, h1, h2, h3, h4, h5⟩ := shape_1 1 26 g d a (by decide) (by decide) W h
  unfold decodeRaw decode01
  rw [h0, h1, h2, h3, h4, h5]
  rfl

theorem raw_zextb (g : Guard) (d : BitVec 5) (a : BitVec 5) (W : Nat)
    (h : W = 0x0400001B + (g.n.toNat * 33554432 + g.p.toNat * 4194304) + d.toNat * 131072 + a.toNat * 4096) : decodeRaw W = some (.zextb g d a) := by
  obtain ⟨h0, h1, h2, h3, h4, h5⟩ := shape_1 1 27 g d a (by decide) (by decide) W h
  unfold decodeRaw decode01
  rw [h0, h1, h2, h3, h4, h5]
  rfl

theorem raw_zexth (g : Guard) (d : BitVec 5) (a : BitVec 5) (W : Nat)
    (h : W = 0x0400001C + (g.n.toNat * 33554432 + g.p.toNat * 4194304) + d.toNat * 131072 + a.toNat * 4096) : decodeRaw W = some (.zexth g d a) := by
  obtain ⟨h0, h1, h2, h3, h4, h5⟩ := shape_1 1 28 g d a (by decide) (by decide) W h
  unfold decodeRaw decode01
  rw [h0, h1, h2, h3, h4, h5]
  rfl

theorem raw_zextw (g : Guard) (d : BitVec 5) (a : BitVec 5) (W : Nat)
    (h : W = 0x0400001D + (g.n.toNat * 33554432 + g.p.toNat * 4194304) + d.toNat * 131072 + a.toNat * 4096) : decodeRaw W = some (.zextw g d a) := by
  obtain ⟨h0, h1, h2, h3, h4, h5⟩ := shape_1 1 29 g d a (by decide) (by decide) W h
  unfold decodeRaw decode01
  rw [h0, h1, h2, h3, h4, h5]
  rfl

theorem raw_sel (g : Guard) (d : BitVec 5) (a : BitVec 5) (b : BitVec 5) (W : Nat)
    (h : W = 0x0400001E + (g.n.toNat * 33554432 + g.p.toNat * 4194304) + d.toNat * 131072 + a.toNat * 4096 + b.toNat * 128) : decodeRaw W = some (.sel g d a b) := by
  obtain ⟨h0, h1, h2, h3, h4, h5⟩ := shape_0 1 30 g d a b (by decide) (by decide) W h
  unfold decodeRaw decode01
  rw [h0, h1, h2, h3, h4, h5]
  rfl

theorem raw_addi (g : Guard) (d : BitVec 5) (a : BitVec 5) (i : BitVec 12) (W : Nat)
    (h : W = 0x08000000 + (g.n.toNat * 33554432 + g.p.toNat * 4194304) + d.toNat * 131072 + a.toNat * 4096 + i.toNat * 1) : decodeRaw W = some (.addi g d a i) := by
  obtain ⟨h0, h1, h2, h3, h4⟩ := shape_2 2 g d a i (by decide) W h
  unfold decodeRaw
  rw [h0, h1, h2, h3, h4]
  rfl

theorem raw_andi (g : Guard) (d : BitVec 5) (a : BitVec 5) (i : BitVec 12) (W : Nat)
    (h : W = 0x0C000000 + (g.n.toNat * 33554432 + g.p.toNat * 4194304) + d.toNat * 131072 + a.toNat * 4096 + i.toNat * 1) : decodeRaw W = some (.andi g d a i) := by
  obtain ⟨h0, h1, h2, h3, h4⟩ := shape_2 3 g d a i (by decide) W h
  unfold decodeRaw
  rw [h0, h1, h2, h3, h4]
  rfl

theorem raw_ori (g : Guard) (d : BitVec 5) (a : BitVec 5) (i : BitVec 12) (W : Nat)
    (h : W = 0x10000000 + (g.n.toNat * 33554432 + g.p.toNat * 4194304) + d.toNat * 131072 + a.toNat * 4096 + i.toNat * 1) : decodeRaw W = some (.ori g d a i) := by
  obtain ⟨h0, h1, h2, h3, h4⟩ := shape_2 4 g d a i (by decide) W h
  unfold decodeRaw
  rw [h0, h1, h2, h3, h4]
  rfl

theorem raw_xori (g : Guard) (d : BitVec 5) (a : BitVec 5) (i : BitVec 12) (W : Nat)
    (h : W = 0x14000000 + (g.n.toNat * 33554432 + g.p.toNat * 4194304) + d.toNat * 131072 + a.toNat * 4096 + i.toNat * 1) : decodeRaw W = some (.xori g d a i) := by
  obtain ⟨h0, h1, h2, h3, h4⟩ := shape_2 5 g d a i (by decide) W h
  unfold decodeRaw
  rw [h0, h1, h2, h3, h4]
  rfl

theorem raw_shli (g : Guard) (d : BitVec 5) (a : BitVec 5) (m : BitVec 6) (W : Nat)
    (h : W = 0x18000000 + (g.n.toNat * 33554432 + g.p.toNat * 4194304) + d.toNat * 131072 + a.toNat * 4096 + m.toNat * 1) : decodeRaw W = some (.shli g d a m) := by
  obtain ⟨h0, h1, h2, h3, h4, h5, h6⟩ := shape_3 6 0 g d a m (by decide) (by decide) W h
  unfold decodeRaw decode06
  rw [h0, h1, h2, h3, h4, h5, h6]
  rfl

theorem raw_shri (g : Guard) (d : BitVec 5) (a : BitVec 5) (m : BitVec 6) (W : Nat)
    (h : W = 0x18000400 + (g.n.toNat * 33554432 + g.p.toNat * 4194304) + d.toNat * 131072 + a.toNat * 4096 + m.toNat * 1) : decodeRaw W = some (.shri g d a m) := by
  obtain ⟨h0, h1, h2, h3, h4, h5, h6⟩ := shape_3 6 1 g d a m (by decide) (by decide) W h
  unfold decodeRaw decode06
  rw [h0, h1, h2, h3, h4, h5, h6]
  rfl

theorem raw_sari (g : Guard) (d : BitVec 5) (a : BitVec 5) (m : BitVec 6) (W : Nat)
    (h : W = 0x18000800 + (g.n.toNat * 33554432 + g.p.toNat * 4194304) + d.toNat * 131072 + a.toNat * 4096 + m.toNat * 1) : decodeRaw W = some (.sari g d a m) := by
  obtain ⟨h0, h1, h2, h3, h4, h5, h6⟩ := shape_3 6 2 g d a m (by decide) (by decide) W h
  unfold decodeRaw decode06
  rw [h0, h1, h2, h3, h4, h5, h6]
  rfl

theorem raw_rotri (g : Guard) (d : BitVec 5) (a : BitVec 5) (m : BitVec 6) (W : Nat)
    (h : W = 0x18000C00 + (g.n.toNat * 33554432 + g.p.toNat * 4194304) + d.toNat * 131072 + a.toNat * 4096 + m.toNat * 1) : decodeRaw W = some (.rotri g d a m) := by
  obtain ⟨h0, h1, h2, h3, h4, h5, h6⟩ := shape_3 6 3 g d a m (by decide) (by decide) W h
  unfold decodeRaw decode06
  rw [h0, h1, h2, h3, h4, h5, h6]
  rfl

theorem raw_lih (d : BitVec 5) (i : BitVec 21) (W : Nat)
    (h : W = 0x1C000000 + d.toNat * 2097152 + i.toNat * 1) : decodeRaw W = some (.lih d i) := by
  obtain ⟨h0, h1, h2⟩ := shape_4 7 d i (by decide) W h
  unfold decodeRaw
  rw [h0, h1, h2]
  rfl

theorem raw_apc (d : BitVec 5) (i : BitVec 21) (W : Nat)
    (h : W = 0x20000000 + d.toNat * 2097152 + i.toNat * 1) : decodeRaw W = some (.apc d i) := by
  obtain ⟨h0, h1, h2⟩ := shape_4 8 d i (by decide) W h
  unfold decodeRaw
  rw [h0, h1, h2]
  rfl

theorem raw_cmp (g : Guard) (q : BitVec 3) (a : BitVec 5) (b : BitVec 5) (c : SCond) (W : Nat)
    (h : W = 0x24000000 + (g.n.toNat * 33554432 + g.p.toNat * 4194304) + q.toNat * 524288 + a.toNat * 4096 + b.toNat * 128 + c.code * 16) : decodeRaw W = some (.cmp g q a b c) := by
  obtain ⟨h0, h1, h2, h3, h4, h5, h6, h7⟩ := shape_5 9 g q a b c.code (by decide) (SCond_code_lt c) W h
  unfold decodeRaw
  rw [h0, h1, h2, h3, h4, h5, h6, h7, SCond_ofCode_code c]
  rfl

theorem raw_cmpi (g : Guard) (q : BitVec 3) (c : SCond) (a : BitVec 5) (i : BitVec 11) (W : Nat)
    (h : W = 0x28000000 + (g.n.toNat * 33554432 + g.p.toNat * 4194304) + q.toNat * 524288 + c.code * 65536 + a.toNat * 2048 + i.toNat * 1) : decodeRaw W = some (.cmpi g q c a i) := by
  obtain ⟨h0, h1, h2, h3, h4, h5⟩ := shape_6 10 g q c.code a i (by decide) (SCond_code_lt c) W h
  unfold decodeRaw
  rw [h0, h1, h2, h3, SCond_ofCode_code c, h4, h5]
  rfl

theorem raw_pand (g : Guard) (q : BitVec 3) (x : BitVec 3) (y : BitVec 3) (W : Nat)
    (h : W = 0x2C000000 + (g.n.toNat * 33554432 + g.p.toNat * 4194304) + q.toNat * 524288 + x.toNat * 65536 + y.toNat * 8192) : decodeRaw W = some (.pand g q x y) := by
  obtain ⟨h0, h1, h2, h3, h4, h5, h6⟩ := shape_7 11 0 g q x y (by decide) (by decide) W h
  unfold decodeRaw decode0B
  rw [h0, h1, h2, h3, h4, h5, h6]
  rfl

theorem raw_por (g : Guard) (q : BitVec 3) (x : BitVec 3) (y : BitVec 3) (W : Nat)
    (h : W = 0x2C000001 + (g.n.toNat * 33554432 + g.p.toNat * 4194304) + q.toNat * 524288 + x.toNat * 65536 + y.toNat * 8192) : decodeRaw W = some (.por g q x y) := by
  obtain ⟨h0, h1, h2, h3, h4, h5, h6⟩ := shape_7 11 1 g q x y (by decide) (by decide) W h
  unfold decodeRaw decode0B
  rw [h0, h1, h2, h3, h4, h5, h6]
  rfl

theorem raw_pxor (g : Guard) (q : BitVec 3) (x : BitVec 3) (y : BitVec 3) (W : Nat)
    (h : W = 0x2C000002 + (g.n.toNat * 33554432 + g.p.toNat * 4194304) + q.toNat * 524288 + x.toNat * 65536 + y.toNat * 8192) : decodeRaw W = some (.pxor g q x y) := by
  obtain ⟨h0, h1, h2, h3, h4, h5, h6⟩ := shape_7 11 2 g q x y (by decide) (by decide) W h
  unfold decodeRaw decode0B
  rw [h0, h1, h2, h3, h4, h5, h6]
  rfl

theorem raw_pandn (g : Guard) (q : BitVec 3) (x : BitVec 3) (y : BitVec 3) (W : Nat)
    (h : W = 0x2C000003 + (g.n.toNat * 33554432 + g.p.toNat * 4194304) + q.toNat * 524288 + x.toNat * 65536 + y.toNat * 8192) : decodeRaw W = some (.pandn g q x y) := by
  obtain ⟨h0, h1, h2, h3, h4, h5, h6⟩ := shape_7 11 3 g q x y (by decide) (by decide) W h
  unfold decodeRaw decode0B
  rw [h0, h1, h2, h3, h4, h5, h6]
  rfl

theorem raw_pnot (g : Guard) (q : BitVec 3) (x : BitVec 3) (W : Nat)
    (h : W = 0x2C000004 + (g.n.toNat * 33554432 + g.p.toNat * 4194304) + q.toNat * 524288 + x.toNat * 65536) : decodeRaw W = some (.pnot g q x) := by
  obtain ⟨h0, h1, h2, h3, h4, h5⟩ := shape_8 11 4 g q x (by decide) (by decide) W h
  unfold decodeRaw decode0B
  rw [h0, h1, h2, h3, h4, h5]
  rfl

theorem raw_pmov (g : Guard) (q : BitVec 3) (x : BitVec 3) (W : Nat)
    (h : W = 0x2C000005 + (g.n.toNat * 33554432 + g.p.toNat * 4194304) + q.toNat * 524288 + x.toNat * 65536) : decodeRaw W = some (.pmov g q x) := by
  obtain ⟨h0, h1, h2, h3, h4, h5⟩ := shape_8 11 5 g q x (by decide) (by decide) W h
  unfold decodeRaw decode0B
  rw [h0, h1, h2, h3, h4, h5]
  rfl

theorem raw_pset (g : Guard) (q : BitVec 3) (W : Nat)
    (h : W = 0x2C000006 + (g.n.toNat * 33554432 + g.p.toNat * 4194304) + q.toNat * 524288) : decodeRaw W = some (.pset g q) := by
  obtain ⟨h0, h1, h2, h3, h4⟩ := shape_9 11 6 g q (by decide) (by decide) W h
  unfold decodeRaw decode0B
  rw [h0, h1, h2, h3, h4]
  rfl

theorem raw_pbr (t : BitVec 2) (i : BitVec 24) (W : Nat)
    (h : W = 0x30000000 + t.toNat * 16777216 + i.toNat * 1) : decodeRaw W = some (.pbr t i) := by
  obtain ⟨h0, h1, h2⟩ := shape_10 12 t i (by decide) W h
  unfold decodeRaw
  rw [h0, h1, h2]
  rfl

theorem raw_br (g : Guard) (t : BitVec 2) (W : Nat)
    (h : W = 0x34000000 + (g.n.toNat * 33554432 + g.p.toNat * 4194304) + t.toNat * 1048576) : decodeRaw W = some (.br g t) := by
  obtain ⟨h0, h1, h2, h3, h4⟩ := shape_11 13 0 g t (by decide) (by decide) W h
  unfold decodeRaw decode0D
  rw [h0, h1, h2, h3, h4]
  rfl

theorem raw_brl (g : Guard) (t : BitVec 2) (W : Nat)
    (h : W = 0x34080000 + (g.n.toNat * 33554432 + g.p.toNat * 4194304) + t.toNat * 1048576) : decodeRaw W = some (.brl g t) := by
  obtain ⟨h0, h1, h2, h3, h4⟩ := shape_11 13 1 g t (by decide) (by decide) W h
  unfold decodeRaw decode0D
  rw [h0, h1, h2, h3, h4]
  rfl

theorem raw_pbrr (g : Guard) (t : BitVec 2) (a : BitVec 5) (W : Nat)
    (h : W = 0x38000000 + (g.n.toNat * 33554432 + g.p.toNat * 4194304) + t.toNat * 131072 + a.toNat * 4096) : decodeRaw W = some (.pbrr g t a) := by
  obtain ⟨h0, h1, h2, h3, h4, h5⟩ := shape_12 14 g t a (by decide) W h
  unfold decodeRaw
  rw [h0, h1, h2, h3, h4, h5]
  rfl

theorem raw_nop (g : Guard) (W : Nat)
    (h : W = 0x3C000000 + (g.n.toNat * 33554432 + g.p.toNat * 4194304)) : decodeRaw W = some (.nop g) := by
  obtain ⟨h0, h1, h2, h3⟩ := shape_13 15 0 g (by decide) (by decide) W h
  unfold decodeRaw decode0F
  rw [h0, h1, h2, h3]
  rfl

theorem raw_mfs (g : Guard) (d : BitVec 5) (s : BitVec 10) (W : Nat)
    (h : W = 0x3C000001 + (g.n.toNat * 33554432 + g.p.toNat * 4194304) + d.toNat * 131072 + s.toNat * 128) : decodeRaw W = some (.mfs g d s) := by
  obtain ⟨h0, h1, h2, h3, h4⟩ := shape_14 15 1 g d s (by decide) (by decide) W h
  unfold decodeRaw decode0F
  rw [h0, h1, h2, h3, h4]
  rfl

theorem raw_mts (g : Guard) (d : BitVec 5) (s : BitVec 10) (W : Nat)
    (h : W = 0x3C000002 + (g.n.toNat * 33554432 + g.p.toNat * 4194304) + d.toNat * 131072 + s.toNat * 128) : decodeRaw W = some (.mts g d s) := by
  obtain ⟨h0, h1, h2, h3, h4⟩ := shape_14 15 2 g d s (by decide) (by decide) W h
  unfold decodeRaw decode0F
  rw [h0, h1, h2, h3, h4]
  rfl

theorem raw_trap (g : Guard) (a : BitVec 5) (W : Nat)
    (h : W = 0x3C000003 + (g.n.toNat * 33554432 + g.p.toNat * 4194304) + a.toNat * 4096) : decodeRaw W = some (.trap g a) := by
  obtain ⟨h0, h1, h2, h3, h4, h5⟩ := shape_15 15 3 g a (by decide) (by decide) W h
  unfold decodeRaw decode0F
  rw [h0, h1, h2, h3, h4, h5]
  rfl

theorem raw_rte (g : Guard) (W : Nat)
    (h : W = 0x3C000004 + (g.n.toNat * 33554432 + g.p.toNat * 4194304)) : decodeRaw W = some (.rte g) := by
  obtain ⟨h0, h1, h2, h3⟩ := shape_13 15 4 g (by decide) (by decide) W h
  unfold decodeRaw decode0F
  rw [h0, h1, h2, h3]
  rfl

theorem raw_yield (g : Guard) (W : Nat)
    (h : W = 0x3C000005 + (g.n.toNat * 33554432 + g.p.toNat * 4194304)) : decodeRaw W = some (.yield g) := by
  obtain ⟨h0, h1, h2, h3⟩ := shape_13 15 5 g (by decide) (by decide) W h
  unfold decodeRaw decode0F
  rw [h0, h1, h2, h3]
  rfl

theorem raw_tfence (g : Guard) (W : Nat)
    (h : W = 0x3C000006 + (g.n.toNat * 33554432 + g.p.toNat * 4194304)) : decodeRaw W = some (.tfence g) := by
  obtain ⟨h0, h1, h2, h3⟩ := shape_13 15 6 g (by decide) (by decide) W h
  unfold decodeRaw decode0F
  rw [h0, h1, h2, h3]
  rfl

theorem raw_drain (g : Guard) (W : Nat)
    (h : W = 0x3C000007 + (g.n.toNat * 33554432 + g.p.toNat * 4194304)) : decodeRaw W = some (.drain g) := by
  obtain ⟨h0, h1, h2, h3⟩ := shape_13 15 7 g (by decide) (by decide) W h
  unfold decodeRaw decode0F
  rw [h0, h1, h2, h3]
  rfl

theorem raw_twait (g : Guard) (d : BitVec 5) (e : Eng) (W : Nat)
    (h : W = 0x3C000008 + (g.n.toNat * 33554432 + g.p.toNat * 4194304) + d.toNat * 131072 + e.code * 4096) : decodeRaw W = some (.twait g d e) := by
  obtain ⟨h0, h1, h2, h3, h4, h5, h6⟩ := shape_16 15 8 g d e.code (by decide) (by decide) (Eng_code_lt e) W h
  unfold decodeRaw decode0F
  rw [h0, h1, h2, h3, h4, h5, h6, Eng_ofCode_code e]
  rfl

theorem raw_cvta (g : Guard) (d : BitVec 5) (a : BitVec 5) (b : Space) (W : Nat)
    (h : W = 0x3C000009 + (g.n.toNat * 33554432 + g.p.toNat * 4194304) + d.toNat * 131072 + a.toNat * 4096 + b.code * 128) : decodeRaw W = some (.cvta g d a b) := by
  obtain ⟨h0, h1, h2, h3, h4, h5⟩ := shape_17 15 9 g d a b.code (by decide) (by decide) (Space_code_lt b) W h
  unfold decodeRaw decode0F
  rw [h0, h1, h2, h3, h4, h5, Space_ofCode_code b]
  rfl

theorem raw_isin (g : Guard) (d : BitVec 5) (a : BitVec 5) (b : Space) (W : Nat)
    (h : W = 0x3C00000A + (g.n.toNat * 33554432 + g.p.toNat * 4194304) + d.toNat * 131072 + a.toNat * 4096 + b.code * 128) : decodeRaw W = some (.isin g d a b) := by
  obtain ⟨h0, h1, h2, h3, h4, h5⟩ := shape_17 15 10 g d a b.code (by decide) (by decide) (Space_code_lt b) W h
  unfold decodeRaw decode0F
  rw [h0, h1, h2, h3, h4, h5, Space_ofCode_code b]
  rfl

theorem raw_halt (g : Guard) (W : Nat)
    (h : W = 0x3C00000B + (g.n.toNat * 33554432 + g.p.toNat * 4194304)) : decodeRaw W = some (.halt g) := by
  obtain ⟨h0, h1, h2, h3⟩ := shape_13 15 11 g (by decide) (by decide) W h
  unfold decodeRaw decode0F
  rw [h0, h1, h2, h3]
  rfl

theorem raw_rgnLoad (g : Guard) (d : BitVec 5) (a : BitVec 5) (b : BitVec 5) (W : Nat)
    (h : W = 0x64000000 + (g.n.toNat * 33554432 + g.p.toNat * 4194304) + d.toNat * 131072 + a.toNat * 4096 + b.toNat * 128) : decodeRaw W = some (.rgnLoad g d a b) := by
  obtain ⟨h0, h1, h2, h3, h4, h5⟩ := shape_0 25 0 g d a b (by decide) (by decide) W h
  unfold decodeRaw decode19
  rw [h0, h1, h2, h3, h4, h5]
  rfl

theorem raw_rgnStat (g : Guard) (d : BitVec 5) (a : BitVec 5) (W : Nat)
    (h : W = 0x64000001 + (g.n.toNat * 33554432 + g.p.toNat * 4194304) + d.toNat * 131072 + a.toNat * 4096) : decodeRaw W = some (.rgnStat g d a) := by
  obtain ⟨h0, h1, h2, h3, h4, h5⟩ := shape_1 25 1 g d a (by decide) (by decide) W h
  unfold decodeRaw decode19
  rw [h0, h1, h2, h3, h4, h5]
  rfl

theorem raw_rgnBind (g : Guard) (d : BitVec 5) (a : BitVec 5) (b : BitVec 5) (W : Nat)
    (h : W = 0x64000002 + (g.n.toNat * 33554432 + g.p.toNat * 4194304) + d.toNat * 131072 + a.toNat * 4096 + b.toNat * 128) : decodeRaw W = some (.rgnBind g d a b) := by
  obtain ⟨h0, h1, h2, h3, h4, h5⟩ := shape_0 25 2 g d a b (by decide) (by decide) W h
  unfold decodeRaw decode19
  rw [h0, h1, h2, h3, h4, h5]
  rfl

theorem raw_ldb (g : Guard) (d : BitVec 5) (a : BitVec 5) (i : BitVec 9) (W : Nat)
    (h : W = 0x40000000 + (g.n.toNat * 33554432 + g.p.toNat * 4194304) + d.toNat * 131072 + a.toNat * 4096 + i.toNat * 1) : decodeRaw W = some (.ldb g d a i) := by
  obtain ⟨h0, h1, h2, h3, h4, h5⟩ := shape_18 16 0 g d a i (by decide) (by decide) W h
  unfold decodeRaw decode10
  rw [h0, h1, h2, h3, h4, h5]
  rfl

theorem raw_ldh (g : Guard) (d : BitVec 5) (a : BitVec 5) (i : BitVec 9) (W : Nat)
    (h : W = 0x40000200 + (g.n.toNat * 33554432 + g.p.toNat * 4194304) + d.toNat * 131072 + a.toNat * 4096 + i.toNat * 1) : decodeRaw W = some (.ldh g d a i) := by
  obtain ⟨h0, h1, h2, h3, h4, h5⟩ := shape_18 16 1 g d a i (by decide) (by decide) W h
  unfold decodeRaw decode10
  rw [h0, h1, h2, h3, h4, h5]
  rfl

theorem raw_ldw (g : Guard) (d : BitVec 5) (a : BitVec 5) (i : BitVec 9) (W : Nat)
    (h : W = 0x40000400 + (g.n.toNat * 33554432 + g.p.toNat * 4194304) + d.toNat * 131072 + a.toNat * 4096 + i.toNat * 1) : decodeRaw W = some (.ldw g d a i) := by
  obtain ⟨h0, h1, h2, h3, h4, h5⟩ := shape_18 16 2 g d a i (by decide) (by decide) W h
  unfold decodeRaw decode10
  rw [h0, h1, h2, h3, h4, h5]
  rfl

theorem raw_ldd (g : Guard) (d : BitVec 5) (a : BitVec 5) (i : BitVec 9) (W : Nat)
    (h : W = 0x40000600 + (g.n.toNat * 33554432 + g.p.toNat * 4194304) + d.toNat * 131072 + a.toNat * 4096 + i.toNat * 1) : decodeRaw W = some (.ldd g d a i) := by
  obtain ⟨h0, h1, h2, h3, h4, h5⟩ := shape_18 16 3 g d a i (by decide) (by decide) W h
  unfold decodeRaw decode10
  rw [h0, h1, h2, h3, h4, h5]
  rfl

theorem raw_ldbu (g : Guard) (d : BitVec 5) (a : BitVec 5) (i : BitVec 9) (W : Nat)
    (h : W = 0x40000800 + (g.n.toNat * 33554432 + g.p.toNat * 4194304) + d.toNat * 131072 + a.toNat * 4096 + i.toNat * 1) : decodeRaw W = some (.ldbu g d a i) := by
  obtain ⟨h0, h1, h2, h3, h4, h5⟩ := shape_18 16 4 g d a i (by decide) (by decide) W h
  unfold decodeRaw decode10
  rw [h0, h1, h2, h3, h4, h5]
  rfl

theorem raw_ldhu (g : Guard) (d : BitVec 5) (a : BitVec 5) (i : BitVec 9) (W : Nat)
    (h : W = 0x40000A00 + (g.n.toNat * 33554432 + g.p.toNat * 4194304) + d.toNat * 131072 + a.toNat * 4096 + i.toNat * 1) : decodeRaw W = some (.ldhu g d a i) := by
  obtain ⟨h0, h1, h2, h3, h4, h5⟩ := shape_18 16 5 g d a i (by decide) (by decide) W h
  unfold decodeRaw decode10
  rw [h0, h1, h2, h3, h4, h5]
  rfl

theorem raw_ldwu (g : Guard) (d : BitVec 5) (a : BitVec 5) (i : BitVec 9) (W : Nat)
    (h : W = 0x40000C00 + (g.n.toNat * 33554432 + g.p.toNat * 4194304) + d.toNat * 131072 + a.toNat * 4096 + i.toNat * 1) : decodeRaw W = some (.ldwu g d a i) := by
  obtain ⟨h0, h1, h2, h3, h4, h5⟩ := shape_18 16 6 g d a i (by decide) (by decide) W h
  unfold decodeRaw decode10
  rw [h0, h1, h2, h3, h4, h5]
  rfl

theorem raw_stb (g : Guard) (d : BitVec 5) (a : BitVec 5) (i : BitVec 9) (W : Nat)
    (h : W = 0x44000000 + (g.n.toNat * 33554432 + g.p.toNat * 4194304) + d.toNat * 131072 + a.toNat * 4096 + i.toNat * 1) : decodeRaw W = some (.stb g d a i) := by
  obtain ⟨h0, h1, h2, h3, h4, h5⟩ := shape_18 17 0 g d a i (by decide) (by decide) W h
  unfold decodeRaw decode11
  rw [h0, h1, h2, h3, h4, h5]
  rfl

theorem raw_sth (g : Guard) (d : BitVec 5) (a : BitVec 5) (i : BitVec 9) (W : Nat)
    (h : W = 0x44000200 + (g.n.toNat * 33554432 + g.p.toNat * 4194304) + d.toNat * 131072 + a.toNat * 4096 + i.toNat * 1) : decodeRaw W = some (.sth g d a i) := by
  obtain ⟨h0, h1, h2, h3, h4, h5⟩ := shape_18 17 1 g d a i (by decide) (by decide) W h
  unfold decodeRaw decode11
  rw [h0, h1, h2, h3, h4, h5]
  rfl

theorem raw_stw (g : Guard) (d : BitVec 5) (a : BitVec 5) (i : BitVec 9) (W : Nat)
    (h : W = 0x44000400 + (g.n.toNat * 33554432 + g.p.toNat * 4194304) + d.toNat * 131072 + a.toNat * 4096 + i.toNat * 1) : decodeRaw W = some (.stw g d a i) := by
  obtain ⟨h0, h1, h2, h3, h4, h5⟩ := shape_18 17 2 g d a i (by decide) (by decide) W h
  unfold decodeRaw decode11
  rw [h0, h1, h2, h3, h4, h5]
  rfl

theorem raw_std (g : Guard) (d : BitVec 5) (a : BitVec 5) (i : BitVec 9) (W : Nat)
    (h : W = 0x44000600 + (g.n.toNat * 33554432 + g.p.toNat * 4194304) + d.toNat * 131072 + a.toNat * 4096 + i.toNat * 1) : decodeRaw W = some (.std g d a i) := by
  obtain ⟨h0, h1, h2, h3, h4, h5⟩ := shape_18 17 3 g d a i (by decide) (by decide) W h
  unfold decodeRaw decode11
  rw [h0, h1, h2, h3, h4, h5]
  rfl

theorem raw_ldaW (g : Guard) (d : BitVec 5) (a : BitVec 5) (s : Scope) (W : Nat)
    (h : W = 0x48000000 + (g.n.toNat * 33554432 + g.p.toNat * 4194304) + d.toNat * 131072 + a.toNat * 4096 + s.code * 64) : decodeRaw W = some (.ldaW g d a s) := by
  obtain ⟨h0, h1, h2, h3, h4, h5, h6⟩ := shape_19 18 0 g d a s.code (by decide) (by decide) (Scope_code_lt s) W h
  unfold decodeRaw decode12
  rw [h0, h1, h2, h3, h4, h5, h6, Scope_ofCode_code s]
  rfl

theorem raw_ldaD (g : Guard) (d : BitVec 5) (a : BitVec 5) (s : Scope) (W : Nat)
    (h : W = 0x48000200 + (g.n.toNat * 33554432 + g.p.toNat * 4194304) + d.toNat * 131072 + a.toNat * 4096 + s.code * 64) : decodeRaw W = some (.ldaD g d a s) := by
  obtain ⟨h0, h1, h2, h3, h4, h5, h6⟩ := shape_19 18 1 g d a s.code (by decide) (by decide) (Scope_code_lt s) W h
  unfold decodeRaw decode12
  rw [h0, h1, h2, h3, h4, h5, h6, Scope_ofCode_code s]
  rfl

theorem raw_strW (g : Guard) (d : BitVec 5) (a : BitVec 5) (s : Scope) (W : Nat)
    (h : W = 0x48000400 + (g.n.toNat * 33554432 + g.p.toNat * 4194304) + d.toNat * 131072 + a.toNat * 4096 + s.code * 64) : decodeRaw W = some (.strW g d a s) := by
  obtain ⟨h0, h1, h2, h3, h4, h5, h6⟩ := shape_19 18 2 g d a s.code (by decide) (by decide) (Scope_code_lt s) W h
  unfold decodeRaw decode12
  rw [h0, h1, h2, h3, h4, h5, h6, Scope_ofCode_code s]
  rfl

theorem raw_strD (g : Guard) (d : BitVec 5) (a : BitVec 5) (s : Scope) (W : Nat)
    (h : W = 0x48000600 + (g.n.toNat * 33554432 + g.p.toNat * 4194304) + d.toNat * 131072 + a.toNat * 4096 + s.code * 64) : decodeRaw W = some (.strD g d a s) := by
  obtain ⟨h0, h1, h2, h3, h4, h5, h6⟩ := shape_19 18 3 g d a s.code (by decide) (by decide) (Scope_code_lt s) W h
  unfold decodeRaw decode12
  rw [h0, h1, h2, h3, h4, h5, h6, Scope_ofCode_code s]
  rfl

theorem raw_amoAdd (s : Scope) (o : Order) (d : BitVec 5) (a : BitVec 5) (b : BitVec 5) (w : Wd) (W : Nat)
    (h : W = 0x4C000000 + s.code * 8388608 + o.code * 2097152 + d.toNat * 65536 + a.toNat * 2048 + b.toNat * 64 + w.code * 2) : decodeRaw W = some (.amoAdd s o d a b w) := by
  obtain ⟨h0, h1, h2, h3, h4, h5, h6, h7, h8⟩ := shape_20 19 0 s.code o.code d a b w.code (by decide) (by decide) (Scope_code_lt s) (Order_code_lt o) (Wd_code_lt w) W h
  unfold decodeRaw decode13
  rw [h0, h1, h2, h3, Scope_ofCode_code s, h4, Order_ofCode_code o, h5, h6, h7, h8, Wd_ofCode_code w]
  rfl

theorem raw_amoAnd (s : Scope) (o : Order) (d : BitVec 5) (a : BitVec 5) (b : BitVec 5) (w : Wd) (W : Nat)
    (h : W = 0x4C000004 + s.code * 8388608 + o.code * 2097152 + d.toNat * 65536 + a.toNat * 2048 + b.toNat * 64 + w.code * 2) : decodeRaw W = some (.amoAnd s o d a b w) := by
  obtain ⟨h0, h1, h2, h3, h4, h5, h6, h7, h8⟩ := shape_20 19 1 s.code o.code d a b w.code (by decide) (by decide) (Scope_code_lt s) (Order_code_lt o) (Wd_code_lt w) W h
  unfold decodeRaw decode13
  rw [h0, h1, h2, h3, Scope_ofCode_code s, h4, Order_ofCode_code o, h5, h6, h7, h8, Wd_ofCode_code w]
  rfl

theorem raw_amoOr (s : Scope) (o : Order) (d : BitVec 5) (a : BitVec 5) (b : BitVec 5) (w : Wd) (W : Nat)
    (h : W = 0x4C000008 + s.code * 8388608 + o.code * 2097152 + d.toNat * 65536 + a.toNat * 2048 + b.toNat * 64 + w.code * 2) : decodeRaw W = some (.amoOr s o d a b w) := by
  obtain ⟨h0, h1, h2, h3, h4, h5, h6, h7, h8⟩ := shape_20 19 2 s.code o.code d a b w.code (by decide) (by decide) (Scope_code_lt s) (Order_code_lt o) (Wd_code_lt w) W h
  unfold decodeRaw decode13
  rw [h0, h1, h2, h3, Scope_ofCode_code s, h4, Order_ofCode_code o, h5, h6, h7, h8, Wd_ofCode_code w]
  rfl

theorem raw_amoXor (s : Scope) (o : Order) (d : BitVec 5) (a : BitVec 5) (b : BitVec 5) (w : Wd) (W : Nat)
    (h : W = 0x4C00000C + s.code * 8388608 + o.code * 2097152 + d.toNat * 65536 + a.toNat * 2048 + b.toNat * 64 + w.code * 2) : decodeRaw W = some (.amoXor s o d a b w) := by
  obtain ⟨h0, h1, h2, h3, h4, h5, h6, h7, h8⟩ := shape_20 19 3 s.code o.code d a b w.code (by decide) (by decide) (Scope_code_lt s) (Order_code_lt o) (Wd_code_lt w) W h
  unfold decodeRaw decode13
  rw [h0, h1, h2, h3, Scope_ofCode_code s, h4, Order_ofCode_code o, h5, h6, h7, h8, Wd_ofCode_code w]
  rfl

theorem raw_amoMin (s : Scope) (o : Order) (d : BitVec 5) (a : BitVec 5) (b : BitVec 5) (w : Wd) (W : Nat)
    (h : W = 0x4C000010 + s.code * 8388608 + o.code * 2097152 + d.toNat * 65536 + a.toNat * 2048 + b.toNat * 64 + w.code * 2) : decodeRaw W = some (.amoMin s o d a b w) := by
  obtain ⟨h0, h1, h2, h3, h4, h5, h6, h7, h8⟩ := shape_20 19 4 s.code o.code d a b w.code (by decide) (by decide) (Scope_code_lt s) (Order_code_lt o) (Wd_code_lt w) W h
  unfold decodeRaw decode13
  rw [h0, h1, h2, h3, Scope_ofCode_code s, h4, Order_ofCode_code o, h5, h6, h7, h8, Wd_ofCode_code w]
  rfl

theorem raw_amoMax (s : Scope) (o : Order) (d : BitVec 5) (a : BitVec 5) (b : BitVec 5) (w : Wd) (W : Nat)
    (h : W = 0x4C000014 + s.code * 8388608 + o.code * 2097152 + d.toNat * 65536 + a.toNat * 2048 + b.toNat * 64 + w.code * 2) : decodeRaw W = some (.amoMax s o d a b w) := by
  obtain ⟨h0, h1, h2, h3, h4, h5, h6, h7, h8⟩ := shape_20 19 5 s.code o.code d a b w.code (by decide) (by decide) (Scope_code_lt s) (Order_code_lt o) (Wd_code_lt w) W h
  unfold decodeRaw decode13
  rw [h0, h1, h2, h3, Scope_ofCode_code s, h4, Order_ofCode_code o, h5, h6, h7, h8, Wd_ofCode_code w]
  rfl

theorem raw_amoMinu (s : Scope) (o : Order) (d : BitVec 5) (a : BitVec 5) (b : BitVec 5) (w : Wd) (W : Nat)
    (h : W = 0x4C000018 + s.code * 8388608 + o.code * 2097152 + d.toNat * 65536 + a.toNat * 2048 + b.toNat * 64 + w.code * 2) : decodeRaw W = some (.amoMinu s o d a b w) := by
  obtain ⟨h0, h1, h2, h3, h4, h5, h6, h7, h8⟩ := shape_20 19 6 s.code o.code d a b w.code (by decide) (by decide) (Scope_code_lt s) (Order_code_lt o) (Wd_code_lt w) W h
  unfold decodeRaw decode13
  rw [h0, h1, h2, h3, Scope_ofCode_code s, h4, Order_ofCode_code o, h5, h6, h7, h8, Wd_ofCode_code w]
  rfl

theorem raw_amoMaxu (s : Scope) (o : Order) (d : BitVec 5) (a : BitVec 5) (b : BitVec 5) (w : Wd) (W : Nat)
    (h : W = 0x4C00001C + s.code * 8388608 + o.code * 2097152 + d.toNat * 65536 + a.toNat * 2048 + b.toNat * 64 + w.code * 2) : decodeRaw W = some (.amoMaxu s o d a b w) := by
  obtain ⟨h0, h1, h2, h3, h4, h5, h6, h7, h8⟩ := shape_20 19 7 s.code o.code d a b w.code (by decide) (by decide) (Scope_code_lt s) (Order_code_lt o) (Wd_code_lt w) W h
  unfold decodeRaw decode13
  rw [h0, h1, h2, h3, Scope_ofCode_code s, h4, Order_ofCode_code o, h5, h6, h7, h8, Wd_ofCode_code w]
  rfl

theorem raw_amoSwp (s : Scope) (o : Order) (d : BitVec 5) (a : BitVec 5) (b : BitVec 5) (w : Wd) (W : Nat)
    (h : W = 0x4C000020 + s.code * 8388608 + o.code * 2097152 + d.toNat * 65536 + a.toNat * 2048 + b.toNat * 64 + w.code * 2) : decodeRaw W = some (.amoSwp s o d a b w) := by
  obtain ⟨h0, h1, h2, h3, h4, h5, h6, h7, h8⟩ := shape_20 19 8 s.code o.code d a b w.code (by decide) (by decide) (Scope_code_lt s) (Order_code_lt o) (Wd_code_lt w) W h
  unfold decodeRaw decode13
  rw [h0, h1, h2, h3, Scope_ofCode_code s, h4, Order_ofCode_code o, h5, h6, h7, h8, Wd_ofCode_code w]
  rfl

theorem raw_amoCas (s : Scope) (o : Order) (d : BitVec 5) (a : BitVec 5) (b : BitVec 5) (w : Wd) (W : Nat)
    (h : W = 0x4C000024 + s.code * 8388608 + o.code * 2097152 + d.toNat * 65536 + a.toNat * 2048 + b.toNat * 64 + w.code * 2) : decodeRaw W = some (.amoCas s o d a b w) := by
  obtain ⟨h0, h1, h2, h3, h4, h5, h6, h7, h8⟩ := shape_20 19 9 s.code o.code d a b w.code (by decide) (by decide) (Scope_code_lt s) (Order_code_lt o) (Wd_code_lt w) W h
  unfold decodeRaw decode13
  rw [h0, h1, h2, h3, Scope_ofCode_code s, h4, Order_ofCode_code o, h5, h6, h7, h8, Wd_ofCode_code w]
  rfl

theorem raw_fence (g : Guard) (s : Scope) (k : FKind) (W : Nat)
    (h : W = 0x50000000 + (g.n.toNat * 33554432 + g.p.toNat * 4194304) + s.code * 524288 + k.code * 131072) : decodeRaw W = some (.fence g s k) := by
  obtain ⟨h0, h1, h2, h3, h4, h5, h6⟩ := shape_21 20 0 g s.code k.code (by decide) (by decide) (Scope_code_lt s) (FKind_code_lt k) W h
  unfold decodeRaw decode14
  rw [h0, h1, h2, h3, h4, h5, Scope_ofCode_code s, h6, FKind_ofCode_code k]
  rfl

theorem raw_sbar (g : Guard) (a : BitVec 5) (W : Nat)
    (h : W = 0x50000020 + (g.n.toNat * 33554432 + g.p.toNat * 4194304) + a.toNat * 4096) : decodeRaw W = some (.sbar g a) := by
  obtain ⟨h0, h1, h2, h3, h4, h5, h6⟩ := shape_22 20 1 g a (by decide) (by decide) W h
  unfold decodeRaw decode14
  rw [h0, h1, h2, h3, h4, h5, h6]
  rfl

theorem raw_waitc (g : Guard) (s : Scope) (a : BitVec 5) (b : BitVec 5) (W : Nat)
    (h : W = 0x50000040 + (g.n.toNat * 33554432 + g.p.toNat * 4194304) + s.code * 524288 + a.toNat * 4096 + b.toNat * 128) : decodeRaw W = some (.waitc g s a b) := by
  obtain ⟨h0, h1, h2, h3, h4, h5, h6, h7⟩ := shape_23 20 2 g s.code a b (by decide) (by decide) (Scope_code_lt s) W h
  unfold decodeRaw decode14
  rw [h0, h1, h2, h3, h4, h5, Scope_ofCode_code s, h6, h7]
  rfl

theorem raw_tspawn (g : Guard) (d : BitVec 5) (a : BitVec 5) (b : BitVec 5) (W : Nat)
    (h : W = 0x54000000 + (g.n.toNat * 33554432 + g.p.toNat * 4194304) + d.toNat * 131072 + a.toNat * 4096 + b.toNat * 128) : decodeRaw W = some (.tspawn g d a b) := by
  obtain ⟨h0, h1, h2, h3, h4, h5⟩ := shape_0 21 0 g d a b (by decide) (by decide) W h
  unfold decodeRaw decode15
  rw [h0, h1, h2, h3, h4, h5]
  rfl

theorem raw_texit (g : Guard) (W : Nat)
    (h : W = 0x54000001 + (g.n.toNat * 33554432 + g.p.toNat * 4194304)) : decodeRaw W = some (.texit g) := by
  obtain ⟨h0, h1, h2, h3⟩ := shape_13 21 1 g (by decide) (by decide) W h
  unfold decodeRaw decode15
  rw [h0, h1, h2, h3]
  rfl

theorem raw_exit (g : Guard) (W : Nat)
    (h : W = 0x54000002 + (g.n.toNat * 33554432 + g.p.toNat * 4194304)) : decodeRaw W = some (.exit g) := by
  obtain ⟨h0, h1, h2, h3⟩ := shape_13 21 2 g (by decide) (by decide) W h
  unfold decodeRaw decode15
  rw [h0, h1, h2, h3]
  rfl

theorem raw_recv (g : Guard) (d : BitVec 5) (a : BitVec 5) (W : Nat)
    (h : W = 0x54000003 + (g.n.toNat * 33554432 + g.p.toNat * 4194304) + d.toNat * 131072 + a.toNat * 4096) : decodeRaw W = some (.recv g d a) := by
  obtain ⟨h0, h1, h2, h3, h4, h5⟩ := shape_1 21 3 g d a (by decide) (by decide) W h
  unfold decodeRaw decode15
  rw [h0, h1, h2, h3, h4, h5]
  rfl

theorem raw_send (g : Guard) (d : BitVec 5) (a : BitVec 5) (b : BitVec 5) (W : Nat)
    (h : W = 0x54000004 + (g.n.toNat * 33554432 + g.p.toNat * 4194304) + d.toNat * 131072 + a.toNat * 4096 + b.toNat * 128) : decodeRaw W = some (.send g d a b) := by
  obtain ⟨h0, h1, h2, h3, h4, h5⟩ := shape_0 21 4 g d a b (by decide) (by decide) W h
  unfold decodeRaw decode15
  rw [h0, h1, h2, h3, h4, h5]
  rfl

theorem raw_launch (g : Guard) (d : BitVec 5) (a : BitVec 5) (W : Nat)
    (h : W = 0x54000005 + (g.n.toNat * 33554432 + g.p.toNat * 4194304) + d.toNat * 131072 + a.toNat * 4096) : decodeRaw W = some (.launch g d a) := by
  obtain ⟨h0, h1, h2, h3, h4, h5⟩ := shape_1 21 5 g d a (by decide) (by decide) W h
  unfold decodeRaw decode15
  rw [h0, h1, h2, h3, h4, h5]
  rfl

theorem raw_bind (g : Guard) (d : BitVec 5) (a : BitVec 5) (W : Nat)
    (h : W = 0x54000006 + (g.n.toNat * 33554432 + g.p.toNat * 4194304) + d.toNat * 131072 + a.toNat * 4096) : decodeRaw W = some (.bind g d a) := by
  obtain ⟨h0, h1, h2, h3, h4, h5⟩ := shape_1 21 6 g d a (by decide) (by decide) W h
  unfold decodeRaw decode15
  rw [h0, h1, h2, h3, h4, h5]
  rfl

theorem raw_dqpush (g : Guard) (d : BitVec 5) (a : BitVec 5) (W : Nat)
    (h : W = 0x58000000 + (g.n.toNat * 33554432 + g.p.toNat * 4194304) + d.toNat * 131072 + a.toNat * 4096) : decodeRaw W = some (.dqpush g d a) := by
  obtain ⟨h0, h1, h2, h3, h4, h5⟩ := shape_1 22 0 g d a (by decide) (by decide) W h
  unfold decodeRaw decode16
  rw [h0, h1, h2, h3, h4, h5]
  rfl

theorem raw_dqpop (g : Guard) (d : BitVec 5) (W : Nat)
    (h : W = 0x58000001 + (g.n.toNat * 33554432 + g.p.toNat * 4194304) + d.toNat * 131072) : decodeRaw W = some (.dqpop g d) := by
  obtain ⟨h0, h1, h2, h3, h4⟩ := shape_24 22 1 g d (by decide) (by decide) W h
  unfold decodeRaw decode16
  rw [h0, h1, h2, h3, h4]
  rfl

theorem raw_dqsteal (g : Guard) (d : BitVec 5) (a : BitVec 5) (W : Nat)
    (h : W = 0x58000002 + (g.n.toNat * 33554432 + g.p.toNat * 4194304) + d.toNat * 131072 + a.toNat * 4096) : decodeRaw W = some (.dqsteal g d a) := by
  obtain ⟨h0, h1, h2, h3, h4, h5⟩ := shape_1 22 2 g d a (by decide) (by decide) W h
  unfold decodeRaw decode16
  rw [h0, h1, h2, h3, h4, h5]
  rfl

theorem raw_dqlen (g : Guard) (d : BitVec 5) (W : Nat)
    (h : W = 0x58000003 + (g.n.toNat * 33554432 + g.p.toNat * 4194304) + d.toNat * 131072) : decodeRaw W = some (.dqlen g d) := by
  obtain ⟨h0, h1, h2, h3, h4⟩ := shape_24 22 3 g d (by decide) (by decide) W h
  unfold decodeRaw decode16
  rw [h0, h1, h2, h3, h4]
  rfl

theorem raw_pld (g : Guard) (d : BitVec 5) (a : BitVec 5) (b : BitVec 5) (z : Size) (W : Nat)
    (h : W = 0x5C000000 + (g.n.toNat * 33554432 + g.p.toNat * 4194304) + d.toNat * 131072 + a.toNat * 4096 + b.toNat * 128 + z.code * 32) : decodeRaw W = some (.pld g d a b z) := by
  obtain ⟨h0, h1, h2, h3, h4, h5, h6, h7⟩ := shape_25 23 0 g d a b z.code (by decide) (by decide) (Size_code_lt z) W h
  unfold decodeRaw decode17
  rw [h0, h1, h2, h3, h4, h5, h6, h7, Size_ofCode_code z]
  rfl

theorem raw_pst (g : Guard) (d : BitVec 5) (a : BitVec 5) (b : BitVec 5) (z : Size) (W : Nat)
    (h : W = 0x5C000008 + (g.n.toNat * 33554432 + g.p.toNat * 4194304) + d.toNat * 131072 + a.toNat * 4096 + b.toNat * 128 + z.code * 32) : decodeRaw W = some (.pst g d a b z) := by
  obtain ⟨h0, h1, h2, h3, h4, h5, h6, h7⟩ := shape_25 23 1 g d a b z.code (by decide) (by decide) (Size_code_lt z) W h
  unfold decodeRaw decode17
  rw [h0, h1, h2, h3, h4, h5, h6, h7, Size_ofCode_code z]
  rfl

theorem raw_pldr (g : Guard) (d : BitVec 5) (a : BitVec 5) (b : BitVec 5) (W : Nat)
    (h : W = 0x5C000050 + (g.n.toNat * 33554432 + g.p.toNat * 4194304) + d.toNat * 131072 + a.toNat * 4096 + b.toNat * 128) : decodeRaw W = some (.pldr g d a b) := by
  obtain ⟨h0, h1, h2, h3, h4, h5, h6, h7⟩ := shape_26 23 2 g d a b (by decide) (by decide) W h
  unfold decodeRaw decode17
  rw [h0, h1, h2, h3, h4, h5, h6, h7]
  rfl

theorem raw_pstr (g : Guard) (d : BitVec 5) (a : BitVec 5) (b : BitVec 5) (W : Nat)
    (h : W = 0x5C000058 + (g.n.toNat * 33554432 + g.p.toNat * 4194304) + d.toNat * 131072 + a.toNat * 4096 + b.toNat * 128) : decodeRaw W = some (.pstr g d a b) := by
  obtain ⟨h0, h1, h2, h3, h4, h5, h6, h7⟩ := shape_26 23 3 g d a b (by decide) (by decide) W h
  unfold decodeRaw decode17
  rw [h0, h1, h2, h3, h4, h5, h6, h7]
  rfl

theorem raw_pnew (g : Guard) (d : BitVec 5) (a : BitVec 5) (W : Nat)
    (h : W = 0x60000000 + (g.n.toNat * 33554432 + g.p.toNat * 4194304) + d.toNat * 131072 + a.toNat * 4096) : decodeRaw W = some (.pnew g d a) := by
  obtain ⟨h0, h1, h2, h3, h4, h5⟩ := shape_1 24 0 g d a (by decide) (by decide) W h
  unfold decodeRaw decode18
  rw [h0, h1, h2, h3, h4, h5]
  rfl

theorem raw_pfree (g : Guard) (a : BitVec 5) (W : Nat)
    (h : W = 0x60000001 + (g.n.toNat * 33554432 + g.p.toNat * 4194304) + a.toNat * 4096) : decodeRaw W = some (.pfree g a) := by
  obtain ⟨h0, h1, h2, h3, h4, h5⟩ := shape_15 24 1 g a (by decide) (by decide) W h
  unfold decodeRaw decode18
  rw [h0, h1, h2, h3, h4, h5]
  rfl

theorem raw_plen (g : Guard) (d : BitVec 5) (a : BitVec 5) (W : Nat)
    (h : W = 0x60000002 + (g.n.toNat * 33554432 + g.p.toNat * 4194304) + d.toNat * 131072 + a.toNat * 4096) : decodeRaw W = some (.plen g d a) := by
  obtain ⟨h0, h1, h2, h3, h4, h5⟩ := shape_1 24 2 g d a (by decide) (by decide) W h
  unfold decodeRaw decode18
  rw [h0, h1, h2, h3, h4, h5]
  rfl

theorem raw_pstat (g : Guard) (d : BitVec 5) (a : BitVec 5) (W : Nat)
    (h : W = 0x60000003 + (g.n.toNat * 33554432 + g.p.toNat * 4194304) + d.toNat * 131072 + a.toNat * 4096) : decodeRaw W = some (.pstat g d a) := by
  obtain ⟨h0, h1, h2, h3, h4, h5⟩ := shape_1 24 3 g d a (by decide) (by decide) W h
  unfold decodeRaw decode18
  rw [h0, h1, h2, h3, h4, h5]
  rfl

theorem raw_pmap (g : Guard) (d : BitVec 5) (a : BitVec 5) (W : Nat)
    (h : W = 0x60000004 + (g.n.toNat * 33554432 + g.p.toNat * 4194304) + d.toNat * 131072 + a.toNat * 4096) : decodeRaw W = some (.pmap g d a) := by
  obtain ⟨h0, h1, h2, h3, h4, h5⟩ := shape_1 24 4 g d a (by decide) (by decide) W h
  unfold decodeRaw decode18
  rw [h0, h1, h2, h3, h4, h5]
  rfl

theorem raw_punmap (g : Guard) (a : BitVec 5) (W : Nat)
    (h : W = 0x60000005 + (g.n.toNat * 33554432 + g.p.toNat * 4194304) + a.toNat * 4096) : decodeRaw W = some (.punmap g a) := by
  obtain ⟨h0, h1, h2, h3, h4, h5⟩ := shape_15 24 5 g a (by decide) (by decide) W h
  unfold decodeRaw decode18
  rw [h0, h1, h2, h3, h4, h5]
  rfl

theorem raw_post (d : BitVec 5) (a : BitVec 5) (b : BitVec 5) (W : Nat)
    (h : W = 0x60000006 + d.toNat * 131072 + a.toNat * 4096 + b.toNat * 128) : decodeRaw W = some (.post d a b) := by
  obtain ⟨h0, h1, h2, h3, h4, h5⟩ := shape_27 24 6 d a b (by decide) (by decide) W h
  unfold decodeRaw decode18
  rw [h0, h1, h2, h3, h4, h5]
  rfl

theorem raw_precv (g : Guard) (d : BitVec 5) (W : Nat)
    (h : W = 0x60000007 + (g.n.toNat * 33554432 + g.p.toNat * 4194304) + d.toNat * 131072) : decodeRaw W = some (.precv g d) := by
  obtain ⟨h0, h1, h2, h3, h4⟩ := shape_24 24 7 g d (by decide) (by decide) W h
  unfold decodeRaw decode18
  rw [h0, h1, h2, h3, h4]
  rfl

theorem raw_vadd (d : BitVec 5) (a : BitVec 5) (b : BitVec 5) (m : BitVec 3) (t : Ty) (W : Nat)
    (h : W = 0x80000000 + d.toNat * 2097152 + a.toNat * 65536 + b.toNat * 2048 + m.toNat * 256 + t.code * 1) : decodeRaw W = some (.vadd d a b m t) := by
  obtain ⟨h0, h1, h2, h3, h4, h5, h6⟩ := shape_28 32 0 d a b m t.code (by decide) (by decide) (Ty_code_lt t) W h
  unfold decodeRaw decode20
  rw [h0, h1, h2, h3, h4, h5, h6, Ty_ofCode_code t]
  rfl

theorem raw_vsub (d : BitVec 5) (a : BitVec 5) (b : BitVec 5) (m : BitVec 3) (t : Ty) (W : Nat)
    (h : W = 0x80000010 + d.toNat * 2097152 + a.toNat * 65536 + b.toNat * 2048 + m.toNat * 256 + t.code * 1) : decodeRaw W = some (.vsub d a b m t) := by
  obtain ⟨h0, h1, h2, h3, h4, h5, h6⟩ := shape_28 32 1 d a b m t.code (by decide) (by decide) (Ty_code_lt t) W h
  unfold decodeRaw decode20
  rw [h0, h1, h2, h3, h4, h5, h6, Ty_ofCode_code t]
  rfl

theorem raw_vmul (d : BitVec 5) (a : BitVec 5) (b : BitVec 5) (m : BitVec 3) (t : Ty) (W : Nat)
    (h : W = 0x80000020 + d.toNat * 2097152 + a.toNat * 65536 + b.toNat * 2048 + m.toNat * 256 + t.code * 1) : decodeRaw W = some (.vmul d a b m t) := by
  obtain ⟨h0, h1, h2, h3, h4, h5, h6⟩ := shape_28 32 2 d a b m t.code (by decide) (by decide) (Ty_code_lt t) W h
  unfold decodeRaw decode20
  rw [h0, h1, h2, h3, h4, h5, h6, Ty_ofCode_code t]
  rfl

theorem raw_vmad (d : BitVec 5) (a : BitVec 5) (b : BitVec 5) (m : BitVec 3) (t : Ty) (W : Nat)
    (h : W = 0x80000030 + d.toNat * 2097152 + a.toNat * 65536 + b.toNat * 2048 + m.toNat * 256 + t.code * 1) : decodeRaw W = some (.vmad d a b m t) := by
  obtain ⟨h0, h1, h2, h3, h4, h5, h6⟩ := shape_28 32 3 d a b m t.code (by decide) (by decide) (Ty_code_lt t) W h
  unfold decodeRaw decode20
  rw [h0, h1, h2, h3, h4, h5, h6, Ty_ofCode_code t]
  rfl

theorem raw_vmsb (d : BitVec 5) (a : BitVec 5) (b : BitVec 5) (m : BitVec 3) (t : Ty) (W : Nat)
    (h : W = 0x80000040 + d.toNat * 2097152 + a.toNat * 65536 + b.toNat * 2048 + m.toNat * 256 + t.code * 1) : decodeRaw W = some (.vmsb d a b m t) := by
  obtain ⟨h0, h1, h2, h3, h4, h5, h6⟩ := shape_28 32 4 d a b m t.code (by decide) (by decide) (Ty_code_lt t) W h
  unfold decodeRaw decode20
  rw [h0, h1, h2, h3, h4, h5, h6, Ty_ofCode_code t]
  rfl

theorem raw_vabs (d : BitVec 5) (a : BitVec 5) (m : BitVec 3) (t : Ty) (W : Nat)
    (h : W = 0x80000050 + d.toNat * 2097152 + a.toNat * 65536 + m.toNat * 256 + t.code * 1) : decodeRaw W = some (.vabs d a m t) := by
  obtain ⟨h0, h1, h2, h3, h4, h5, h6⟩ := shape_29 32 5 d a m t.code (by decide) (by decide) (Ty_code_lt t) W h
  unfold decodeRaw decode20
  rw [h0, h1, h2, h3, h4, h5, h6, Ty_ofCode_code t]
  rfl

theorem raw_vneg (d : BitVec 5) (a : BitVec 5) (m : BitVec 3) (t : Ty) (W : Nat)
    (h : W = 0x80000060 + d.toNat * 2097152 + a.toNat * 65536 + m.toNat * 256 + t.code * 1) : decodeRaw W = some (.vneg d a m t) := by
  obtain ⟨h0, h1, h2, h3, h4, h5, h6⟩ := shape_29 32 6 d a m t.code (by decide) (by decide) (Ty_code_lt t) W h
  unfold decodeRaw decode20
  rw [h0, h1, h2, h3, h4, h5, h6, Ty_ofCode_code t]
  rfl

theorem raw_vmin (d : BitVec 5) (a : BitVec 5) (b : BitVec 5) (m : BitVec 3) (t : Ty) (W : Nat)
    (h : W = 0x80000070 + d.toNat * 2097152 + a.toNat * 65536 + b.toNat * 2048 + m.toNat * 256 + t.code * 1) : decodeRaw W = some (.vmin d a b m t) := by
  obtain ⟨h0, h1, h2, h3, h4, h5, h6⟩ := shape_28 32 7 d a b m t.code (by decide) (by decide) (Ty_code_lt t) W h
  unfold decodeRaw decode20
  rw [h0, h1, h2, h3, h4, h5, h6, Ty_ofCode_code t]
  rfl

theorem raw_vmax (d : BitVec 5) (a : BitVec 5) (b : BitVec 5) (m : BitVec 3) (t : Ty) (W : Nat)
    (h : W = 0x80000080 + d.toNat * 2097152 + a.toNat * 65536 + b.toNat * 2048 + m.toNat * 256 + t.code * 1) : decodeRaw W = some (.vmax d a b m t) := by
  obtain ⟨h0, h1, h2, h3, h4, h5, h6⟩ := shape_28 32 8 d a b m t.code (by decide) (by decide) (Ty_code_lt t) W h
  unfold decodeRaw decode20
  rw [h0, h1, h2, h3, h4, h5, h6, Ty_ofCode_code t]
  rfl

theorem raw_vadds (d : BitVec 5) (a : BitVec 5) (b : BitVec 5) (m : BitVec 3) (t : Ty) (W : Nat)
    (h : W = 0x80000090 + d.toNat * 2097152 + a.toNat * 65536 + b.toNat * 2048 + m.toNat * 256 + t.code * 1) : decodeRaw W = some (.vadds d a b m t) := by
  obtain ⟨h0, h1, h2, h3, h4, h5, h6⟩ := shape_28 32 9 d a b m t.code (by decide) (by decide) (Ty_code_lt t) W h
  unfold decodeRaw decode20
  rw [h0, h1, h2, h3, h4, h5, h6, Ty_ofCode_code t]
  rfl

theorem raw_vsubs (d : BitVec 5) (a : BitVec 5) (b : BitVec 5) (m : BitVec 3) (t : Ty) (W : Nat)
    (h : W = 0x800000A0 + d.toNat * 2097152 + a.toNat * 65536 + b.toNat * 2048 + m.toNat * 256 + t.code * 1) : decodeRaw W = some (.vsubs d a b m t) := by
  obtain ⟨h0, h1, h2, h3, h4, h5, h6⟩ := shape_28 32 10 d a b m t.code (by decide) (by decide) (Ty_code_lt t) W h
  unfold decodeRaw decode20
  rw [h0, h1, h2, h3, h4, h5, h6, Ty_ofCode_code t]
  rfl

theorem raw_vmulhi (d : BitVec 5) (a : BitVec 5) (b : BitVec 5) (m : BitVec 3) (t : Ty) (W : Nat)
    (h : W = 0x800000B0 + d.toNat * 2097152 + a.toNat * 65536 + b.toNat * 2048 + m.toNat * 256 + t.code * 1) : decodeRaw W = some (.vmulhi d a b m t) := by
  obtain ⟨h0, h1, h2, h3, h4, h5, h6⟩ := shape_28 32 11 d a b m t.code (by decide) (by decide) (Ty_code_lt t) W h
  unfold decodeRaw decode20
  rw [h0, h1, h2, h3, h4, h5, h6, Ty_ofCode_code t]
  rfl

theorem raw_vand (d : BitVec 5) (a : BitVec 5) (b : BitVec 5) (m : BitVec 3) (t : Ty) (W : Nat)
    (h : W = 0x84000000 + d.toNat * 2097152 + a.toNat * 65536 + b.toNat * 2048 + m.toNat * 256 + t.code * 1) : decodeRaw W = some (.vand d a b m t) := by
  obtain ⟨h0, h1, h2, h3, h4, h5, h6⟩ := shape_28 33 0 d a b m t.code (by decide) (by decide) (Ty_code_lt t) W h
  unfold decodeRaw decode21
  rw [h0, h1, h2, h3, h4, h5, h6, Ty_ofCode_code t]
  rfl

theorem raw_vor (d : BitVec 5) (a : BitVec 5) (b : BitVec 5) (m : BitVec 3) (t : Ty) (W : Nat)
    (h : W = 0x84000010 + d.toNat * 2097152 + a.toNat * 65536 + b.toNat * 2048 + m.toNat * 256 + t.code * 1) : decodeRaw W = some (.vor d a b m t) := by
  obtain ⟨h0, h1, h2, h3, h4, h5, h6⟩ := shape_28 33 1 d a b m t.code (by decide) (by decide) (Ty_code_lt t) W h
  unfold decodeRaw decode21
  rw [h0, h1, h2, h3, h4, h5, h6, Ty_ofCode_code t]
  rfl

theorem raw_vxor (d : BitVec 5) (a : BitVec 5) (b : BitVec 5) (m : BitVec 3) (t : Ty) (W : Nat)
    (h : W = 0x84000020 + d.toNat * 2097152 + a.toNat * 65536 + b.toNat * 2048 + m.toNat * 256 + t.code * 1) : decodeRaw W = some (.vxor d a b m t) := by
  obtain ⟨h0, h1, h2, h3, h4, h5, h6⟩ := shape_28 33 2 d a b m t.code (by decide) (by decide) (Ty_code_lt t) W h
  unfold decodeRaw decode21
  rw [h0, h1, h2, h3, h4, h5, h6, Ty_ofCode_code t]
  rfl

theorem raw_vnot (d : BitVec 5) (a : BitVec 5) (m : BitVec 3) (t : Ty) (W : Nat)
    (h : W = 0x84000030 + d.toNat * 2097152 + a.toNat * 65536 + m.toNat * 256 + t.code * 1) : decodeRaw W = some (.vnot d a m t) := by
  obtain ⟨h0, h1, h2, h3, h4, h5, h6⟩ := shape_29 33 3 d a m t.code (by decide) (by decide) (Ty_code_lt t) W h
  unfold decodeRaw decode21
  rw [h0, h1, h2, h3, h4, h5, h6, Ty_ofCode_code t]
  rfl

theorem raw_vshl (d : BitVec 5) (a : BitVec 5) (b : BitVec 5) (m : BitVec 3) (t : Ty) (W : Nat)
    (h : W = 0x84000040 + d.toNat * 2097152 + a.toNat * 65536 + b.toNat * 2048 + m.toNat * 256 + t.code * 1) : decodeRaw W = some (.vshl d a b m t) := by
  obtain ⟨h0, h1, h2, h3, h4, h5, h6⟩ := shape_28 33 4 d a b m t.code (by decide) (by decide) (Ty_code_lt t) W h
  unfold decodeRaw decode21
  rw [h0, h1, h2, h3, h4, h5, h6, Ty_ofCode_code t]
  rfl

theorem raw_vshr (d : BitVec 5) (a : BitVec 5) (b : BitVec 5) (m : BitVec 3) (t : Ty) (W : Nat)
    (h : W = 0x84000050 + d.toNat * 2097152 + a.toNat * 65536 + b.toNat * 2048 + m.toNat * 256 + t.code * 1) : decodeRaw W = some (.vshr d a b m t) := by
  obtain ⟨h0, h1, h2, h3, h4, h5, h6⟩ := shape_28 33 5 d a b m t.code (by decide) (by decide) (Ty_code_lt t) W h
  unfold decodeRaw decode21
  rw [h0, h1, h2, h3, h4, h5, h6, Ty_ofCode_code t]
  rfl

theorem raw_vsar (d : BitVec 5) (a : BitVec 5) (b : BitVec 5) (m : BitVec 3) (t : Ty) (W : Nat)
    (h : W = 0x84000060 + d.toNat * 2097152 + a.toNat * 65536 + b.toNat * 2048 + m.toNat * 256 + t.code * 1) : decodeRaw W = some (.vsar d a b m t) := by
  obtain ⟨h0, h1, h2, h3, h4, h5, h6⟩ := shape_28 33 6 d a b m t.code (by decide) (by decide) (Ty_code_lt t) W h
  unfold decodeRaw decode21
  rw [h0, h1, h2, h3, h4, h5, h6, Ty_ofCode_code t]
  rfl

theorem raw_vclz (d : BitVec 5) (a : BitVec 5) (m : BitVec 3) (t : Ty) (W : Nat)
    (h : W = 0x84000070 + d.toNat * 2097152 + a.toNat * 65536 + m.toNat * 256 + t.code * 1) : decodeRaw W = some (.vclz d a m t) := by
  obtain ⟨h0, h1, h2, h3, h4, h5, h6⟩ := shape_29 33 7 d a m t.code (by decide) (by decide) (Ty_code_lt t) W h
  unfold decodeRaw decode21
  rw [h0, h1, h2, h3, h4, h5, h6, Ty_ofCode_code t]
  rfl

theorem raw_vpopc (d : BitVec 5) (a : BitVec 5) (m : BitVec 3) (t : Ty) (W : Nat)
    (h : W = 0x84000080 + d.toNat * 2097152 + a.toNat * 65536 + m.toNat * 256 + t.code * 1) : decodeRaw W = some (.vpopc d a m t) := by
  obtain ⟨h0, h1, h2, h3, h4, h5, h6⟩ := shape_29 33 8 d a m t.code (by decide) (by decide) (Ty_code_lt t) W h
  unfold decodeRaw decode21
  rw [h0, h1, h2, h3, h4, h5, h6, Ty_ofCode_code t]
  rfl

theorem raw_vcmp (d : BitVec 3) (a : BitVec 5) (b : BitVec 5) (m : BitVec 3) (c : VCond) (t : Ty) (W : Nat)
    (h : W = 0x88000000 + d.toNat * 2097152 + a.toNat * 65536 + b.toNat * 2048 + m.toNat * 256 + c.code * 16 + t.code * 1) : decodeRaw W = some (.vcmp d a b m c t) := by
  obtain ⟨h0, h1, h2, h3, h4, h5, h6, h7⟩ := shape_30 34 d a b m c.code t.code (by decide) (VCond_code_lt c) (Ty_code_lt t) W h
  unfold decodeRaw
  rw [h0, h1, h2, h3, h4, h5, h6, VCond_ofCode_code c, h7, Ty_ofCode_code t]
  rfl

theorem raw_vcvt (d : BitVec 5) (a : BitVec 5) (u : Ty) (m : BitVec 3) (s : BitVec 1) (r : Rnd) (t : Ty) (W : Nat)
    (h : W = 0x8C000000 + d.toNat * 2097152 + a.toNat * 65536 + u.code * 2048 + m.toNat * 256 + s.toNat * 128 + r.code * 16 + t.code * 1) : decodeRaw W = some (.vcvt d a u m s r t) := by
  obtain ⟨h0, h1, h2, h3, h4, h5, h6, h7, h8⟩ := shape_31 35 d a u.code m s r.code t.code (by decide) (Ty_code_lt u) (Rnd_code_lt r) (Ty_code_lt t) W h
  unfold decodeRaw
  rw [h0, h1, h2, h3, h4, Ty_ofCode_code u, h5, h6, h7, Rnd_ofCode_code r, h8, Ty_ofCode_code t]
  rfl

theorem raw_vrcp (d : BitVec 5) (a : BitVec 5) (m : BitVec 3) (t : Ty) (W : Nat)
    (h : W = 0x90000000 + d.toNat * 2097152 + a.toNat * 65536 + m.toNat * 256 + t.code * 1) : decodeRaw W = some (.vrcp d a m t) := by
  obtain ⟨h0, h1, h2, h3, h4, h5, h6⟩ := shape_29 36 0 d a m t.code (by decide) (by decide) (Ty_code_lt t) W h
  unfold decodeRaw decode24
  rw [h0, h1, h2, h3, h4, h5, h6, Ty_ofCode_code t]
  rfl

theorem raw_vrsq (d : BitVec 5) (a : BitVec 5) (m : BitVec 3) (t : Ty) (W : Nat)
    (h : W = 0x90000010 + d.toNat * 2097152 + a.toNat * 65536 + m.toNat * 256 + t.code * 1) : decodeRaw W = some (.vrsq d a m t) := by
  obtain ⟨h0, h1, h2, h3, h4, h5, h6⟩ := shape_29 36 1 d a m t.code (by decide) (by decide) (Ty_code_lt t) W h
  unfold decodeRaw decode24
  rw [h0, h1, h2, h3, h4, h5, h6, Ty_ofCode_code t]
  rfl

theorem raw_vsqrt (d : BitVec 5) (a : BitVec 5) (m : BitVec 3) (t : Ty) (W : Nat)
    (h : W = 0x90000020 + d.toNat * 2097152 + a.toNat * 65536 + m.toNat * 256 + t.code * 1) : decodeRaw W = some (.vsqrt d a m t) := by
  obtain ⟨h0, h1, h2, h3, h4, h5, h6⟩ := shape_29 36 2 d a m t.code (by decide) (by decide) (Ty_code_lt t) W h
  unfold decodeRaw decode24
  rw [h0, h1, h2, h3, h4, h5, h6, Ty_ofCode_code t]
  rfl

theorem raw_vexp2 (d : BitVec 5) (a : BitVec 5) (m : BitVec 3) (t : Ty) (W : Nat)
    (h : W = 0x90000030 + d.toNat * 2097152 + a.toNat * 65536 + m.toNat * 256 + t.code * 1) : decodeRaw W = some (.vexp2 d a m t) := by
  obtain ⟨h0, h1, h2, h3, h4, h5, h6⟩ := shape_29 36 3 d a m t.code (by decide) (by decide) (Ty_code_lt t) W h
  unfold decodeRaw decode24
  rw [h0, h1, h2, h3, h4, h5, h6, Ty_ofCode_code t]
  rfl

theorem raw_vlog2 (d : BitVec 5) (a : BitVec 5) (m : BitVec 3) (t : Ty) (W : Nat)
    (h : W = 0x90000040 + d.toNat * 2097152 + a.toNat * 65536 + m.toNat * 256 + t.code * 1) : decodeRaw W = some (.vlog2 d a m t) := by
  obtain ⟨h0, h1, h2, h3, h4, h5, h6⟩ := shape_29 36 4 d a m t.code (by decide) (by decide) (Ty_code_lt t) W h
  unfold decodeRaw decode24
  rw [h0, h1, h2, h3, h4, h5, h6, Ty_ofCode_code t]
  rfl

theorem raw_vtanh (d : BitVec 5) (a : BitVec 5) (m : BitVec 3) (t : Ty) (W : Nat)
    (h : W = 0x90000050 + d.toNat * 2097152 + a.toNat * 65536 + m.toNat * 256 + t.code * 1) : decodeRaw W = some (.vtanh d a m t) := by
  obtain ⟨h0, h1, h2, h3, h4, h5, h6⟩ := shape_29 36 5 d a m t.code (by decide) (by decide) (Ty_code_lt t) W h
  unfold decodeRaw decode24
  rw [h0, h1, h2, h3, h4, h5, h6, Ty_ofCode_code t]
  rfl

theorem raw_vsin (d : BitVec 5) (a : BitVec 5) (m : BitVec 3) (t : Ty) (W : Nat)
    (h : W = 0x90000060 + d.toNat * 2097152 + a.toNat * 65536 + m.toNat * 256 + t.code * 1) : decodeRaw W = some (.vsin d a m t) := by
  obtain ⟨h0, h1, h2, h3, h4, h5, h6⟩ := shape_29 36 6 d a m t.code (by decide) (by decide) (Ty_code_lt t) W h
  unfold decodeRaw decode24
  rw [h0, h1, h2, h3, h4, h5, h6, Ty_ofCode_code t]
  rfl

theorem raw_vcos (d : BitVec 5) (a : BitVec 5) (m : BitVec 3) (t : Ty) (W : Nat)
    (h : W = 0x90000070 + d.toNat * 2097152 + a.toNat * 65536 + m.toNat * 256 + t.code * 1) : decodeRaw W = some (.vcos d a m t) := by
  obtain ⟨h0, h1, h2, h3, h4, h5, h6⟩ := shape_29 36 7 d a m t.code (by decide) (by decide) (Ty_code_lt t) W h
  unfold decodeRaw decode24
  rw [h0, h1, h2, h3, h4, h5, h6, Ty_ofCode_code t]
  rfl

theorem raw_vredadd (d : BitVec 5) (a : BitVec 5) (m : BitVec 3) (t : Ty) (W : Nat)
    (h : W = 0x94000000 + d.toNat * 2097152 + a.toNat * 65536 + m.toNat * 256 + t.code * 1) : decodeRaw W = some (.vredadd d a m t) := by
  obtain ⟨h0, h1, h2, h3, h4, h5, h6⟩ := shape_29 37 0 d a m t.code (by decide) (by decide) (Ty_code_lt t) W h
  unfold decodeRaw decode25
  rw [h0, h1, h2, h3, h4, h5, h6, Ty_ofCode_code t]
  rfl

theorem raw_vredmax (d : BitVec 5) (a : BitVec 5) (m : BitVec 3) (t : Ty) (W : Nat)
    (h : W = 0x94000010 + d.toNat * 2097152 + a.toNat * 65536 + m.toNat * 256 + t.code * 1) : decodeRaw W = some (.vredmax d a m t) := by
  obtain ⟨h0, h1, h2, h3, h4, h5, h6⟩ := shape_29 37 1 d a m t.code (by decide) (by decide) (Ty_code_lt t) W h
  unfold decodeRaw decode25
  rw [h0, h1, h2, h3, h4, h5, h6, Ty_ofCode_code t]
  rfl

theorem raw_vredmin (d : BitVec 5) (a : BitVec 5) (m : BitVec 3) (t : Ty) (W : Nat)
    (h : W = 0x94000020 + d.toNat * 2097152 + a.toNat * 65536 + m.toNat * 256 + t.code * 1) : decodeRaw W = some (.vredmin d a m t) := by
  obtain ⟨h0, h1, h2, h3, h4, h5, h6⟩ := shape_29 37 2 d a m t.code (by decide) (by decide) (Ty_code_lt t) W h
  unfold decodeRaw decode25
  rw [h0, h1, h2, h3, h4, h5, h6, Ty_ofCode_code t]
  rfl

theorem raw_vredor (d : BitVec 5) (a : BitVec 5) (m : BitVec 3) (t : Ty) (W : Nat)
    (h : W = 0x94000030 + d.toNat * 2097152 + a.toNat * 65536 + m.toNat * 256 + t.code * 1) : decodeRaw W = some (.vredor d a m t) := by
  obtain ⟨h0, h1, h2, h3, h4, h5, h6⟩ := shape_29 37 3 d a m t.code (by decide) (by decide) (Ty_code_lt t) W h
  unfold decodeRaw decode25
  rw [h0, h1, h2, h3, h4, h5, h6, Ty_ofCode_code t]
  rfl

theorem raw_vredand (d : BitVec 5) (a : BitVec 5) (m : BitVec 3) (t : Ty) (W : Nat)
    (h : W = 0x94000040 + d.toNat * 2097152 + a.toNat * 65536 + m.toNat * 256 + t.code * 1) : decodeRaw W = some (.vredand d a m t) := by
  obtain ⟨h0, h1, h2, h3, h4, h5, h6⟩ := shape_29 37 4 d a m t.code (by decide) (by decide) (Ty_code_lt t) W h
  unfold decodeRaw decode25
  rw [h0, h1, h2, h3, h4, h5, h6, Ty_ofCode_code t]
  rfl

theorem raw_vscan (d : BitVec 5) (a : BitVec 5) (m : BitVec 3) (t : Ty) (W : Nat)
    (h : W = 0x94000050 + d.toNat * 2097152 + a.toNat * 65536 + m.toNat * 256 + t.code * 1) : decodeRaw W = some (.vscan d a m t) := by
  obtain ⟨h0, h1, h2, h3, h4, h5, h6⟩ := shape_29 37 5 d a m t.code (by decide) (by decide) (Ty_code_lt t) W h
  unfold decodeRaw decode25
  rw [h0, h1, h2, h3, h4, h5, h6, Ty_ofCode_code t]
  rfl

theorem raw_vperm (d : BitVec 5) (a : BitVec 5) (b : BitVec 5) (m : BitVec 3) (t : Ty) (W : Nat)
    (h : W = 0x98000000 + d.toNat * 2097152 + a.toNat * 65536 + b.toNat * 2048 + m.toNat * 256 + t.code * 1) : decodeRaw W = some (.vperm d a b m t) := by
  obtain ⟨h0, h1, h2, h3, h4, h5, h6⟩ := shape_28 38 0 d a b m t.code (by decide) (by decide) (Ty_code_lt t) W h
  unfold decodeRaw decode26
  rw [h0, h1, h2, h3, h4, h5, h6, Ty_ofCode_code t]
  rfl

theorem raw_vbcast (d : BitVec 5) (a : BitVec 5) (m : BitVec 3) (t : Ty) (W : Nat)
    (h : W = 0x98000010 + d.toNat * 2097152 + a.toNat * 65536 + m.toNat * 256 + t.code * 1) : decodeRaw W = some (.vbcast d a m t) := by
  obtain ⟨h0, h1, h2, h3, h4, h5, h6⟩ := shape_29 38 1 d a m t.code (by decide) (by decide) (Ty_code_lt t) W h
  unfold decodeRaw decode26
  rw [h0, h1, h2, h3, h4, h5, h6, Ty_ofCode_code t]
  rfl

theorem raw_viota (d : BitVec 5) (m : BitVec 3) (t : Ty) (W : Nat)
    (h : W = 0x98000020 + d.toNat * 2097152 + m.toNat * 256 + t.code * 1) : decodeRaw W = some (.viota d m t) := by
  obtain ⟨h0, h1, h2, h3, h4, h5⟩ := shape_32 38 2 d m t.code (by decide) (by decide) (Ty_code_lt t) W h
  unfold decodeRaw decode26
  rw [h0, h1, h2, h3, h4, h5, Ty_ofCode_code t]
  rfl

theorem raw_vslide (d : BitVec 5) (a : BitVec 5) (b : BitVec 5) (m : BitVec 3) (t : Ty) (W : Nat)
    (h : W = 0x98000030 + d.toNat * 2097152 + a.toNat * 65536 + b.toNat * 2048 + m.toNat * 256 + t.code * 1) : decodeRaw W = some (.vslide d a b m t) := by
  obtain ⟨h0, h1, h2, h3, h4, h5, h6⟩ := shape_28 38 3 d a b m t.code (by decide) (by decide) (Ty_code_lt t) W h
  unfold decodeRaw decode26
  rw [h0, h1, h2, h3, h4, h5, h6, Ty_ofCode_code t]
  rfl

theorem raw_vsel (d : BitVec 5) (a : BitVec 5) (b : BitVec 5) (m : BitVec 3) (t : Ty) (W : Nat)
    (h : W = 0x98000040 + d.toNat * 2097152 + a.toNat * 65536 + b.toNat * 2048 + m.toNat * 256 + t.code * 1) : decodeRaw W = some (.vsel d a b m t) := by
  obtain ⟨h0, h1, h2, h3, h4, h5, h6⟩ := shape_28 38 4 d a b m t.code (by decide) (by decide) (Ty_code_lt t) W h
  unfold decodeRaw decode26
  rw [h0, h1, h2, h3, h4, h5, h6, Ty_ofCode_code t]
  rfl

theorem raw_vmovs (d : BitVec 5) (a : BitVec 5) (b : BitVec 5) (t : Ty) (W : Nat)
    (h : W = 0x98000050 + d.toNat * 2097152 + a.toNat * 65536 + b.toNat * 2048 + t.code * 1) : decodeRaw W = some (.vmovs d a b t) := by
  obtain ⟨h0, h1, h2, h3, h4, h5, h6⟩ := shape_33 38 5 d a b t.code (by decide) (by decide) (Ty_code_lt t) W h
  unfold decodeRaw decode26
  rw [h0, h1, h2, h3, h4, h5, h6, Ty_ofCode_code t]
  rfl

theorem raw_vext (d : BitVec 5) (a : BitVec 5) (b : BitVec 5) (t : Ty) (W : Nat)
    (h : W = 0x98000060 + d.toNat * 2097152 + a.toNat * 65536 + b.toNat * 2048 + t.code * 1) : decodeRaw W = some (.vext d a b t) := by
  obtain ⟨h0, h1, h2, h3, h4, h5, h6⟩ := shape_33 38 6 d a b t.code (by decide) (by decide) (Ty_code_lt t) W h
  unfold decodeRaw decode26
  rw [h0, h1, h2, h3, h4, h5, h6, Ty_ofCode_code t]
  rfl

theorem raw_vcmul (d : BitVec 5) (a : BitVec 5) (b : BitVec 5) (m : BitVec 3) (t : Ty) (W : Nat)
    (h : W = 0x98000070 + d.toNat * 2097152 + a.toNat * 65536 + b.toNat * 2048 + m.toNat * 256 + t.code * 1) : decodeRaw W = some (.vcmul d a b m t) := by
  obtain ⟨h0, h1, h2, h3, h4, h5, h6⟩ := shape_28 38 7 d a b m t.code (by decide) (by decide) (Ty_code_lt t) W h
  unfold decodeRaw decode26
  rw [h0, h1, h2, h3, h4, h5, h6, Ty_ofCode_code t]
  rfl

theorem raw_vconj (d : BitVec 5) (a : BitVec 5) (m : BitVec 3) (t : Ty) (W : Nat)
    (h : W = 0x98000080 + d.toNat * 2097152 + a.toNat * 65536 + m.toNat * 256 + t.code * 1) : decodeRaw W = some (.vconj d a m t) := by
  obtain ⟨h0, h1, h2, h3, h4, h5, h6⟩ := shape_29 38 8 d a m t.code (by decide) (by decide) (Ty_code_lt t) W h
  unfold decodeRaw decode26
  rw [h0, h1, h2, h3, h4, h5, h6, Ty_ofCode_code t]
  rfl

theorem raw_mand (d : BitVec 3) (a : BitVec 3) (b : BitVec 3) (t : Ty) (W : Nat)
    (h : W = 0x9C000000 + d.toNat * 2097152 + a.toNat * 65536 + b.toNat * 2048 + t.code * 1) : decodeRaw W = some (.mand d a b t) := by
  obtain ⟨h0, h1, h2, h3, h4, h5, h6, h7, h8, h9⟩ := shape_34 39 0 d a b t.code (by decide) (by decide) (Ty_code_lt t) W h
  unfold decodeRaw decode27
  rw [h0, h1, h2, h3, h4, h5, h6, h7, h8, h9, Ty_ofCode_code t]
  rfl

theorem raw_mor (d : BitVec 3) (a : BitVec 3) (b : BitVec 3) (t : Ty) (W : Nat)
    (h : W = 0x9C000010 + d.toNat * 2097152 + a.toNat * 65536 + b.toNat * 2048 + t.code * 1) : decodeRaw W = some (.mor d a b t) := by
  obtain ⟨h0, h1, h2, h3, h4, h5, h6, h7, h8, h9⟩ := shape_34 39 1 d a b t.code (by decide) (by decide) (Ty_code_lt t) W h
  unfold decodeRaw decode27
  rw [h0, h1, h2, h3, h4, h5, h6, h7, h8, h9, Ty_ofCode_code t]
  rfl

theorem raw_mxor (d : BitVec 3) (a : BitVec 3) (b : BitVec 3) (t : Ty) (W : Nat)
    (h : W = 0x9C000020 + d.toNat * 2097152 + a.toNat * 65536 + b.toNat * 2048 + t.code * 1) : decodeRaw W = some (.mxor d a b t) := by
  obtain ⟨h0, h1, h2, h3, h4, h5, h6, h7, h8, h9⟩ := shape_34 39 2 d a b t.code (by decide) (by decide) (Ty_code_lt t) W h
  unfold decodeRaw decode27
  rw [h0, h1, h2, h3, h4, h5, h6, h7, h8, h9, Ty_ofCode_code t]
  rfl

theorem raw_mnot (d : BitVec 3) (a : BitVec 3) (t : Ty) (W : Nat)
    (h : W = 0x9C000030 + d.toNat * 2097152 + a.toNat * 65536 + t.code * 1) : decodeRaw W = some (.mnot d a t) := by
  obtain ⟨h0, h1, h2, h3, h4, h5, h6, h7⟩ := shape_35 39 3 d a t.code (by decide) (by decide) (Ty_code_lt t) W h
  unfold decodeRaw decode27
  rw [h0, h1, h2, h3, h4, h5, h6, h7, Ty_ofCode_code t]
  rfl

theorem raw_mpop (d : BitVec 5) (a : BitVec 3) (m : BitVec 3) (t : Ty) (W : Nat)
    (h : W = 0x9C000040 + d.toNat * 2097152 + a.toNat * 65536 + m.toNat * 256 + t.code * 1) : decodeRaw W = some (.mpop d a m t) := by
  obtain ⟨h0, h1, h2, h3, h4, h5, h6, h7⟩ := shape_36 39 4 d a m t.code (by decide) (by decide) (Ty_code_lt t) W h
  unfold decodeRaw decode27
  rw [h0, h1, h2, h3, h4, h5, h6, h7, Ty_ofCode_code t]
  rfl

theorem raw_vany (d : BitVec 3) (a : BitVec 3) (m : BitVec 3) (t : Ty) (W : Nat)
    (h : W = 0x9C000050 + d.toNat * 2097152 + a.toNat * 65536 + m.toNat * 256 + t.code * 1) : decodeRaw W = some (.vany d a m t) := by
  obtain ⟨h0, h1, h2, h3, h4, h5, h6, h7, h8⟩ := shape_37 39 5 d a m t.code (by decide) (by decide) (Ty_code_lt t) W h
  unfold decodeRaw decode27
  rw [h0, h1, h2, h3, h4, h5, h6, h7, h8, Ty_ofCode_code t]
  rfl

theorem raw_vall (d : BitVec 3) (a : BitVec 3) (m : BitVec 3) (t : Ty) (W : Nat)
    (h : W = 0x9C000060 + d.toNat * 2097152 + a.toNat * 65536 + m.toNat * 256 + t.code * 1) : decodeRaw W = some (.vall d a m t) := by
  obtain ⟨h0, h1, h2, h3, h4, h5, h6, h7, h8⟩ := shape_37 39 6 d a m t.code (by decide) (by decide) (Ty_code_lt t) W h
  unfold decodeRaw decode27
  rw [h0, h1, h2, h3, h4, h5, h6, h7, h8, Ty_ofCode_code t]
  rfl

theorem raw_vld (v : BitVec 5) (a : BitVec 5) (m : BitVec 3) (t : Ty) (W : Nat)
    (h : W = 0xA0000000 + v.toNat * 2097152 + a.toNat * 65536 + m.toNat * 256 + t.code * 1) : decodeRaw W = some (.vld v a m t) := by
  obtain ⟨h0, h1, h2, h3, h4, h5, h6⟩ := shape_29 40 0 v a m t.code (by decide) (by decide) (Ty_code_lt t) W h
  unfold decodeRaw decode28
  rw [h0, h1, h2, h3, h4, h5, h6, Ty_ofCode_code t]
  rfl

theorem raw_vlds (v : BitVec 5) (a : BitVec 5) (x : BitVec 5) (m : BitVec 3) (t : Ty) (W : Nat)
    (h : W = 0xA0000010 + v.toNat * 2097152 + a.toNat * 65536 + x.toNat * 2048 + m.toNat * 256 + t.code * 1) : decodeRaw W = some (.vlds v a x m t) := by
  obtain ⟨h0, h1, h2, h3, h4, h5, h6⟩ := shape_28 40 1 v a x m t.code (by decide) (by decide) (Ty_code_lt t) W h
  unfold decodeRaw decode28
  rw [h0, h1, h2, h3, h4, h5, h6, Ty_ofCode_code t]
  rfl

theorem raw_vgath (v : BitVec 5) (a : BitVec 5) (x : BitVec 5) (m : BitVec 3) (t : Ty) (W : Nat)
    (h : W = 0xA0000020 + v.toNat * 2097152 + a.toNat * 65536 + x.toNat * 2048 + m.toNat * 256 + t.code * 1) : decodeRaw W = some (.vgath v a x m t) := by
  obtain ⟨h0, h1, h2, h3, h4, h5, h6⟩ := shape_28 40 2 v a x m t.code (by decide) (by decide) (Ty_code_lt t) W h
  unfold decodeRaw decode28
  rw [h0, h1, h2, h3, h4, h5, h6, Ty_ofCode_code t]
  rfl

theorem raw_vst (v : BitVec 5) (a : BitVec 5) (m : BitVec 3) (t : Ty) (W : Nat)
    (h : W = 0xA4000000 + v.toNat * 2097152 + a.toNat * 65536 + m.toNat * 256 + t.code * 1) : decodeRaw W = some (.vst v a m t) := by
  obtain ⟨h0, h1, h2, h3, h4, h5, h6⟩ := shape_29 41 0 v a m t.code (by decide) (by decide) (Ty_code_lt t) W h
  unfold decodeRaw decode29
  rw [h0, h1, h2, h3, h4, h5, h6, Ty_ofCode_code t]
  rfl

theorem raw_vsts (v : BitVec 5) (a : BitVec 5) (x : BitVec 5) (m : BitVec 3) (t : Ty) (W : Nat)
    (h : W = 0xA4000010 + v.toNat * 2097152 + a.toNat * 65536 + x.toNat * 2048 + m.toNat * 256 + t.code * 1) : decodeRaw W = some (.vsts v a x m t) := by
  obtain ⟨h0, h1, h2, h3, h4, h5, h6⟩ := shape_28 41 1 v a x m t.code (by decide) (by decide) (Ty_code_lt t) W h
  unfold decodeRaw decode29
  rw [h0, h1, h2, h3, h4, h5, h6, Ty_ofCode_code t]
  rfl

theorem raw_vscat (v : BitVec 5) (a : BitVec 5) (x : BitVec 5) (m : BitVec 3) (t : Ty) (W : Nat)
    (h : W = 0xA4000020 + v.toNat * 2097152 + a.toNat * 65536 + x.toNat * 2048 + m.toNat * 256 + t.code * 1) : decodeRaw W = some (.vscat v a x m t) := by
  obtain ⟨h0, h1, h2, h3, h4, h5, h6⟩ := shape_28 41 2 v a x m t.code (by decide) (by decide) (Ty_code_lt t) W h
  unfold decodeRaw decode29
  rw [h0, h1, h2, h3, h4, h5, h6, Ty_ofCode_code t]
  rfl

theorem raw_vamoAdd (v : BitVec 5) (i : BitVec 5) (a : BitVec 5) (m : BitVec 3) (s : Scope) (w : Wd) (W : Nat)
    (h : W = 0xA8000000 + v.toNat * 2097152 + i.toNat * 65536 + a.toNat * 2048 + m.toNat * 256 + s.code * 4 + w.code * 1) : decodeRaw W = some (.vamoAdd v i a m s w) := by
  obtain ⟨h0, h1, h2, h3, h4, h5, h6, h7⟩ := shape_38 42 0 v i a m s.code w.code (by decide) (by decide) (Scope_code_lt s) (Wd_code_lt w) W h
  unfold decodeRaw decode2A
  rw [h0, h1, h2, h3, h4, h5, h6, Scope_ofCode_code s, h7, Wd_ofCode_code w]
  rfl

theorem raw_vamoOr (v : BitVec 5) (i : BitVec 5) (a : BitVec 5) (m : BitVec 3) (s : Scope) (w : Wd) (W : Nat)
    (h : W = 0xA8000020 + v.toNat * 2097152 + i.toNat * 65536 + a.toNat * 2048 + m.toNat * 256 + s.code * 4 + w.code * 1) : decodeRaw W = some (.vamoOr v i a m s w) := by
  obtain ⟨h0, h1, h2, h3, h4, h5, h6, h7⟩ := shape_38 42 1 v i a m s.code w.code (by decide) (by decide) (Scope_code_lt s) (Wd_code_lt w) W h
  unfold decodeRaw decode2A
  rw [h0, h1, h2, h3, h4, h5, h6, Scope_ofCode_code s, h7, Wd_ofCode_code w]
  rfl

theorem raw_vamoAnd (v : BitVec 5) (i : BitVec 5) (a : BitVec 5) (m : BitVec 3) (s : Scope) (w : Wd) (W : Nat)
    (h : W = 0xA8000040 + v.toNat * 2097152 + i.toNat * 65536 + a.toNat * 2048 + m.toNat * 256 + s.code * 4 + w.code * 1) : decodeRaw W = some (.vamoAnd v i a m s w) := by
  obtain ⟨h0, h1, h2, h3, h4, h5, h6, h7⟩ := shape_38 42 2 v i a m s.code w.code (by decide) (by decide) (Scope_code_lt s) (Wd_code_lt w) W h
  unfold decodeRaw decode2A
  rw [h0, h1, h2, h3, h4, h5, h6, Scope_ofCode_code s, h7, Wd_ofCode_code w]
  rfl

theorem raw_vamoXor (v : BitVec 5) (i : BitVec 5) (a : BitVec 5) (m : BitVec 3) (s : Scope) (w : Wd) (W : Nat)
    (h : W = 0xA8000060 + v.toNat * 2097152 + i.toNat * 65536 + a.toNat * 2048 + m.toNat * 256 + s.code * 4 + w.code * 1) : decodeRaw W = some (.vamoXor v i a m s w) := by
  obtain ⟨h0, h1, h2, h3, h4, h5, h6, h7⟩ := shape_38 42 3 v i a m s.code w.code (by decide) (by decide) (Scope_code_lt s) (Wd_code_lt w) W h
  unfold decodeRaw decode2A
  rw [h0, h1, h2, h3, h4, h5, h6, Scope_ofCode_code s, h7, Wd_ofCode_code w]
  rfl

theorem raw_vamoMin (v : BitVec 5) (i : BitVec 5) (a : BitVec 5) (m : BitVec 3) (s : Scope) (w : Wd) (W : Nat)
    (h : W = 0xA8000080 + v.toNat * 2097152 + i.toNat * 65536 + a.toNat * 2048 + m.toNat * 256 + s.code * 4 + w.code * 1) : decodeRaw W = some (.vamoMin v i a m s w) := by
  obtain ⟨h0, h1, h2, h3, h4, h5, h6, h7⟩ := shape_38 42 4 v i a m s.code w.code (by decide) (by decide) (Scope_code_lt s) (Wd_code_lt w) W h
  unfold decodeRaw decode2A
  rw [h0, h1, h2, h3, h4, h5, h6, Scope_ofCode_code s, h7, Wd_ofCode_code w]
  rfl

theorem raw_vamoMax (v : BitVec 5) (i : BitVec 5) (a : BitVec 5) (m : BitVec 3) (s : Scope) (w : Wd) (W : Nat)
    (h : W = 0xA80000A0 + v.toNat * 2097152 + i.toNat * 65536 + a.toNat * 2048 + m.toNat * 256 + s.code * 4 + w.code * 1) : decodeRaw W = some (.vamoMax v i a m s w) := by
  obtain ⟨h0, h1, h2, h3, h4, h5, h6, h7⟩ := shape_38 42 5 v i a m s.code w.code (by decide) (by decide) (Scope_code_lt s) (Wd_code_lt w) W h
  unfold decodeRaw decode2A
  rw [h0, h1, h2, h3, h4, h5, h6, Scope_ofCode_code s, h7, Wd_ofCode_code w]
  rfl

theorem raw_vpop (v : BitVec 5) (b : BitVec 4) (W : Nat)
    (h : W = 0xAC000000 + v.toNat * 2097152 + b.toNat * 131072) : decodeRaw W = some (.vpop v b) := by
  obtain ⟨h0, h1, h2, h3, h4, h5⟩ := shape_39 43 0 v b (by decide) (by decide) W h
  unfold decodeRaw decode2B
  rw [h0, h1, h2, h3, h4, h5]
  rfl

theorem raw_vpush (v : BitVec 5) (b : BitVec 4) (W : Nat)
    (h : W = 0xAC000010 + v.toNat * 2097152 + b.toNat * 131072) : decodeRaw W = some (.vpush v b) := by
  obtain ⟨h0, h1, h2, h3, h4, h5⟩ := shape_39 43 1 v b (by decide) (by decide) W h
  unfold decodeRaw decode2B
  rw [h0, h1, h2, h3, h4, h5]
  rfl

theorem raw_vpeek (v : BitVec 5) (b : BitVec 4) (W : Nat)
    (h : W = 0xAC000020 + v.toNat * 2097152 + b.toNat * 131072) : decodeRaw W = some (.vpeek v b) := by
  obtain ⟨h0, h1, h2, h3, h4, h5⟩ := shape_39 43 2 v b (by decide) (by decide) W h
  unfold decodeRaw decode2B
  rw [h0, h1, h2, h3, h4, h5]
  rfl

theorem raw_mldw (a : BitVec 5) (t : Ty) (y : BitVec 4) (p : BitVec 1) (W : Nat)
    (h : W = 0xC0000000 + a.toNat * 65536 + t.code * 128 + y.toNat * 8 + p.toNat * 1) : decodeRaw W = some (.mldw a t y p) := by
  obtain ⟨h0, h1, h2, h3, h4, h5, h6, h7⟩ := shape_40 48 0 a t.code y p (by decide) (by decide) (Ty_code_lt t) W h
  unfold decodeRaw decode30
  rw [h0, h1, h2, h3, h4, h5, Ty_ofCode_code t, h6, h7]
  rfl

theorem raw_mswp (W : Nat)
    (h : W = 0xC0200000) : decodeRaw W = some (.mswp) := by
  obtain ⟨h0, h1, h2⟩ := shape_41 48 1 (by decide) (by decide) W h
  unfold decodeRaw decode30
  rw [h0, h1, h2]
  rfl

theorem raw_mtag (a : BitVec 5) (W : Nat)
    (h : W = 0xC0400000 + a.toNat * 65536) : decodeRaw W = some (.mtag a) := by
  obtain ⟨h0, h1, h2, h3⟩ := shape_42 48 2 a (by decide) (by decide) W h
  unfold decodeRaw decode30
  rw [h0, h1, h2, h3]
  rfl

theorem raw_mmul (e : BitVec 4) (b : BitVec 5) (x : BitVec 4) (t : Ty) (r : BitVec 2) (p : BitVec 1) (W : Nat)
    (h : W = 0xC4000000 + e.toNat * 65536 + b.toNat * 2048 + x.toNat * 128 + t.code * 8 + r.toNat * 2 + p.toNat * 1) : decodeRaw W = some (.mmul e b x t r p) := by
  obtain ⟨h0, h1, h2, h3, h4, h5, h6, h7, h8⟩ := shape_43 49 0 e b x t.code r p (by decide) (by decide) (Ty_code_lt t) W h
  unfold decodeRaw decode31
  rw [h0, h1, h2, h3, h4, h5, h6, Ty_ofCode_code t, h7, h8]
  rfl

theorem raw_mmulz (e : BitVec 4) (b : BitVec 5) (x : BitVec 4) (t : Ty) (r : BitVec 2) (p : BitVec 1) (W : Nat)
    (h : W = 0xC4200000 + e.toNat * 65536 + b.toNat * 2048 + x.toNat * 128 + t.code * 8 + r.toNat * 2 + p.toNat * 1) : decodeRaw W = some (.mmulz e b x t r p) := by
  obtain ⟨h0, h1, h2, h3, h4, h5, h6, h7, h8⟩ := shape_43 49 1 e b x t.code r p (by decide) (by decide) (Ty_code_lt t) W h
  unfold decodeRaw decode31
  rw [h0, h1, h2, h3, h4, h5, h6, Ty_ofCode_code t, h7, h8]
  rfl

theorem raw_mrel (x : BitVec 4) (W : Nat)
    (h : W = 0xC8000000 + x.toNat * 128) : decodeRaw W = some (.mrel x) := by
  obtain ⟨h0, h1, h2, h3, h4⟩ := shape_44 50 0 x (by decide) (by decide) W h
  unfold decodeRaw decode32
  rw [h0, h1, h2, h3, h4]
  rfl

theorem raw_mzero (x : BitVec 4) (k : AKind) (W : Nat)
    (h : W = 0xC8200000 + x.toNat * 128 + k.code * 1) : decodeRaw W = some (.mzero x k) := by
  obtain ⟨h0, h1, h2, h3, h4, h5⟩ := shape_45 50 1 x k.code (by decide) (by decide) (AKind_code_lt k) W h
  unfold decodeRaw decode32
  rw [h0, h1, h2, h3, h4, h5, AKind_ofCode_code k]
  rfl

theorem raw_mstat (d : BitVec 5) (x : BitVec 4) (p : BitVec 1) (W : Nat)
    (h : W = 0xC8400000 + d.toNat * 65536 + x.toNat * 128 + p.toNat * 1) : decodeRaw W = some (.mstat d x p) := by
  obtain ⟨h0, h1, h2, h3, h4, h5, h6⟩ := shape_46 50 2 d x p (by decide) (by decide) W h
  unfold decodeRaw decode32
  rw [h0, h1, h2, h3, h4, h5, h6]
  rfl

theorem raw_mlda (e : BitVec 4) (b : BitVec 5) (x : BitVec 4) (k : AKind) (W : Nat)
    (h : W = 0xC8600000 + e.toNat * 65536 + b.toNat * 2048 + x.toNat * 128 + k.code * 1) : decodeRaw W = some (.mlda e b x k) := by
  obtain ⟨h0, h1, h2, h3, h4, h5, h6, h7⟩ := shape_47 50 3 e b x k.code (by decide) (by decide) (AKind_code_lt k) W h
  unfold decodeRaw decode32
  rw [h0, h1, h2, h3, h4, h5, h6, h7, AKind_ofCode_code k]
  rfl

theorem raw_mrd (o : BitVec 1) (e : BitVec 4) (b : BitVec 5) (x : BitVec 4) (t : Ty) (r : Rnd) (W : Nat)
    (h : W = 0xCC000000 + o.toNat * 1048576 + e.toNat * 65536 + b.toNat * 2048 + x.toNat * 128 + t.code * 8 + r.code * 1) : decodeRaw W = some (.mrd o e b x t r) := by
  obtain ⟨h0, h1, h2, h3, h4, h5, h6, h7⟩ := shape_48 51 0 o e b x t.code r.code (by decide) (by decide) (Ty_code_lt t) (Rnd_code_lt r) W h
  unfold decodeRaw decode33
  rw [h0, h1, h2, h3, h4, h5, h6, Ty_ofCode_code t, h7, Rnd_ofCode_code r]
  rfl

theorem raw_mrds (o : BitVec 1) (e : BitVec 4) (b : BitVec 5) (x : BitVec 4) (t : Ty) (r : Rnd) (W : Nat)
    (h : W = 0xCC200000 + o.toNat * 1048576 + e.toNat * 65536 + b.toNat * 2048 + x.toNat * 128 + t.code * 8 + r.code * 1) : decodeRaw W = some (.mrds o e b x t r) := by
  obtain ⟨h0, h1, h2, h3, h4, h5, h6, h7⟩ := shape_48 51 1 o e b x t.code r.code (by decide) (by decide) (Ty_code_lt t) (Rnd_code_lt r) W h
  unfold decodeRaw decode33
  rw [h0, h1, h2, h3, h4, h5, h6, Ty_ofCode_code t, h7, Rnd_ofCode_code r]
  rfl

theorem raw_sbdef (e : BitVec 4) (a : BitVec 5) (b : BitVec 5) (W : Nat)
    (h : W = 0xD8008000 + e.toNat * 2048 + a.toNat * 64 + b.toNat * 2) : decodeRaw W = some (.sbdef e a b) := by
  obtain ⟨h0, h1, h2, h3, h4, h5, h6⟩ := shape_49 54 0 e a b (by decide) (by decide) W h
  unfold decodeRaw decode36
  rw [h0, h1, h2, h3, h4, h5, h6]
  rfl

theorem raw_stdef (e : BitVec 3) (a : BitVec 5) (b : BitVec 5) (W : Nat)
    (h : W = 0xD8200000 + e.toNat * 2048 + a.toNat * 64 + b.toNat * 2) : decodeRaw W = some (.stdef e a b) := by
  obtain ⟨h0, h1, h2, h3, h4, h5, h6⟩ := shape_50 54 1 e a b (by decide) (by decide) W h
  unfold decodeRaw decode36
  rw [h0, h1, h2, h3, h4, h5, h6]
  rfl

theorem raw_stdim (e : BitVec 3) (a : BitVec 5) (b : BitVec 5) (W : Nat)
    (h : W = 0xD8400000 + e.toNat * 2048 + a.toNat * 64 + b.toNat * 2) : decodeRaw W = some (.stdim e a b) := by
  obtain ⟨h0, h1, h2, h3, h4, h5, h6⟩ := shape_50 54 2 e a b (by decide) (by decide) W h
  unfold decodeRaw decode36
  rw [h0, h1, h2, h3, h4, h5, h6]
  rfl

theorem raw_stpos (e : BitVec 3) (a : BitVec 5) (W : Nat)
    (h : W = 0xD8600000 + e.toNat * 2048 + a.toNat * 64) : decodeRaw W = some (.stpos e a) := by
  obtain ⟨h0, h1, h2, h3, h4, h5⟩ := shape_51 54 3 e a (by decide) (by decide) W h
  unfold decodeRaw decode36
  rw [h0, h1, h2, h3, h4, h5]
  rfl

theorem raw_strst (e : BitVec 3) (W : Nat)
    (h : W = 0xD8800000 + e.toNat * 2048) : decodeRaw W = some (.strst e) := by
  obtain ⟨h0, h1, h2, h3, h4⟩ := shape_52 54 4 e (by decide) (by decide) W h
  unfold decodeRaw decode36
  rw [h0, h1, h2, h3, h4]
  rfl

theorem raw_copy (s : BitVec 5) (d : BitVec 5) (a : BitVec 5) (b : BitVec 5) (W : Nat)
    (h : W = 0xDC000000 + s.toNat * 65536 + d.toNat * 2048 + a.toNat * 64 + b.toNat * 2) : decodeRaw W = some (.copy s d a b) := by
  obtain ⟨h0, h1, h2, h3, h4, h5, h6⟩ := shape_53 55 0 s d a b (by decide) (by decide) W h
  unfold decodeRaw decode37
  rw [h0, h1, h2, h3, h4, h5, h6]
  rfl

theorem raw_copym (s : BitVec 5) (d : BitVec 4) (a : BitVec 5) (b : BitVec 5) (W : Nat)
    (h : W = 0xDC208000 + s.toNat * 65536 + d.toNat * 2048 + a.toNat * 64 + b.toNat * 2) : decodeRaw W = some (.copym s d a b) := by
  obtain ⟨h0, h1, h2, h3, h4, h5, h6, h7⟩ := shape_54 55 1 s d a b (by decide) (by decide) W h
  unfold decodeRaw decode37
  rw [h0, h1, h2, h3, h4, h5, h6, h7]
  rfl

theorem raw_cqnt (s : BitVec 5) (d : BitVec 5) (a : BitVec 5) (b : BitVec 5) (W : Nat)
    (h : W = 0xE0000000 + s.toNat * 65536 + d.toNat * 2048 + a.toNat * 64 + b.toNat * 2) : decodeRaw W = some (.cqnt s d a b) := by
  obtain ⟨h0, h1, h2, h3, h4, h5, h6⟩ := shape_53 56 0 s d a b (by decide) (by decide) W h
  unfold decodeRaw decode38
  rw [h0, h1, h2, h3, h4, h5, h6]
  rfl

theorem raw_cexp (s : BitVec 5) (d : BitVec 5) (a : BitVec 5) (b : BitVec 5) (W : Nat)
    (h : W = 0xE0200000 + s.toNat * 65536 + d.toNat * 2048 + a.toNat * 64 + b.toNat * 2) : decodeRaw W = some (.cexp s d a b) := by
  obtain ⟨h0, h1, h2, h3, h4, h5, h6⟩ := shape_53 56 1 s d a b (by decide) (by decide) W h
  unfold decodeRaw decode38
  rw [h0, h1, h2, h3, h4, h5, h6]
  rfl

theorem raw_ccvt (s : BitVec 5) (d : BitVec 5) (a : BitVec 5) (b : BitVec 5) (W : Nat)
    (h : W = 0xE0400000 + s.toNat * 65536 + d.toNat * 2048 + a.toNat * 64 + b.toNat * 2) : decodeRaw W = some (.ccvt s d a b) := by
  obtain ⟨h0, h1, h2, h3, h4, h5, h6⟩ := shape_53 56 2 s d a b (by decide) (by decide) W h
  unfold decodeRaw decode38
  rw [h0, h1, h2, h3, h4, h5, h6]
  rfl

theorem raw_cfill (d : BitVec 5) (a : BitVec 5) (b : BitVec 5) (W : Nat)
    (h : W = 0xE0600000 + d.toNat * 2048 + a.toNat * 64 + b.toNat * 2) : decodeRaw W = some (.cfill d a b) := by
  obtain ⟨h0, h1, h2, h3, h4, h5, h6⟩ := shape_55 56 3 d a b (by decide) (by decide) W h
  unfold decodeRaw decode38
  rw [h0, h1, h2, h3, h4, h5, h6]
  rfl

theorem raw_rld (a : BitVec 5) (b : BitVec 5) (c : BitVec 5) (s : Scope) (W : Nat)
    (h : W = 0xE8000000 + a.toNat * 65536 + b.toNat * 2048 + c.toNat * 64 + s.code * 8) : decodeRaw W = some (.rld a b c s) := by
  obtain ⟨h0, h1, h2, h3, h4, h5, h6⟩ := shape_56 58 0 a b c s.code (by decide) (by decide) (Scope_code_lt s) W h
  unfold decodeRaw decode3A
  rw [h0, h1, h2, h3, h4, h5, h6, Scope_ofCode_code s]
  rfl

theorem raw_rst (a : BitVec 5) (b : BitVec 5) (c : BitVec 5) (s : Scope) (W : Nat)
    (h : W = 0xE8200000 + a.toNat * 65536 + b.toNat * 2048 + c.toNat * 64 + s.code * 8) : decodeRaw W = some (.rst a b c s) := by
  obtain ⟨h0, h1, h2, h3, h4, h5, h6⟩ := shape_56 58 1 a b c s.code (by decide) (by decide) (Scope_code_lt s) W h
  unfold decodeRaw decode3A
  rw [h0, h1, h2, h3, h4, h5, h6, Scope_ofCode_code s]
  rfl

theorem raw_ramo (a : BitVec 5) (b : BitVec 5) (c : BitVec 5) (s : Scope) (f : BitVec 3) (W : Nat)
    (h : W = 0xE8400000 + a.toNat * 65536 + b.toNat * 2048 + c.toNat * 64 + s.code * 8 + f.toNat * 1) : decodeRaw W = some (.ramo a b c s f) := by
  obtain ⟨h0, h1, h2, h3, h4, h5, h6⟩ := shape_57 58 2 a b c s.code f (by decide) (by decide) (Scope_code_lt s) W h
  unfold decodeRaw decode3A
  rw [h0, h1, h2, h3, h4, h5, Scope_ofCode_code s, h6]
  rfl

theorem raw_rfence (s : Scope) (W : Nat)
    (h : W = 0xE8600000 + s.code * 8) : decodeRaw W = some (.rfence s) := by
  obtain ⟨h0, h1, h2, h3, h4⟩ := shape_58 58 3 s.code (by decide) (by decide) (Scope_code_lt s) W h
  unfold decodeRaw decode3A
  rw [h0, h1, h2, h3, h4, Scope_ofCode_code s]
  rfl

theorem raw_lcnt (a : BitVec 5) (W : Nat)
    (h : W = 0xE8800000 + a.toNat * 65536) : decodeRaw W = some (.lcnt a) := by
  obtain ⟨h0, h1, h2, h3⟩ := shape_42 58 4 a (by decide) (by decide) W h
  unfold decodeRaw decode3A
  rw [h0, h1, h2, h3]
  rfl

theorem raw_leaseAsk (a : BitVec 5) (b : BitVec 5) (c : BitVec 5) (W : Nat)
    (h : W = 0xEC000000 + a.toNat * 65536 + b.toNat * 2048 + c.toNat * 64) : decodeRaw W = some (.leaseAsk a b c) := by
  obtain ⟨h0, h1, h2, h3, h4, h5⟩ := shape_59 59 0 a b c (by decide) (by decide) W h
  unfold decodeRaw decode3B
  rw [h0, h1, h2, h3, h4, h5]
  rfl

theorem raw_leaseGive (a : BitVec 5) (b : BitVec 5) (W : Nat)
    (h : W = 0xEC200000 + a.toNat * 65536 + b.toNat * 2048) : decodeRaw W = some (.leaseGive a b) := by
  obtain ⟨h0, h1, h2, h3, h4⟩ := shape_60 59 1 a b (by decide) (by decide) W h
  unfold decodeRaw decode3B
  rw [h0, h1, h2, h3, h4]
  rfl

theorem raw_leaseStat (a : BitVec 5) (b : BitVec 5) (W : Nat)
    (h : W = 0xEC400000 + a.toNat * 65536 + b.toNat * 2048) : decodeRaw W = some (.leaseStat a b) := by
  obtain ⟨h0, h1, h2, h3, h4⟩ := shape_60 59 2 a b (by decide) (by decide) W h
  unfold decodeRaw decode3B
  rw [h0, h1, h2, h3, h4]
  rfl

theorem raw_fctl (a : BitVec 5) (b : BitVec 5) (W : Nat)
    (h : W = 0xF0000000 + a.toNat * 65536 + b.toNat * 2048) : decodeRaw W = some (.fctl a b) := by
  obtain ⟨h0, h1, h2, h3, h4⟩ := shape_60 60 0 a b (by decide) (by decide) W h
  unfold decodeRaw decode3C
  rw [h0, h1, h2, h3, h4]
  rfl

theorem raw_fstat (a : BitVec 5) (b : BitVec 5) (W : Nat)
    (h : W = 0xF0200000 + a.toNat * 65536 + b.toNat * 2048) : decodeRaw W = some (.fstat a b) := by
  obtain ⟨h0, h1, h2, h3, h4⟩ := shape_60 60 1 a b (by decide) (by decide) W h
  unfold decodeRaw decode3C
  rw [h0, h1, h2, h3, h4]
  rfl

theorem raw_dep (g : Guard) (x : BitVec 7) (y : BitVec 7) (z : BitVec 7) (W : Nat)
    (h : W = 0xF8000000 + (g.n.toNat * 33554432 + g.p.toNat * 4194304) + x.toNat * 16384 + y.toNat * 128 + z.toNat * 1) : decodeRaw W = some (.dep g x y z) := by
  obtain ⟨h0, h1, h2, h3, h4, h5⟩ := shape_61 62 g x y z (by decide) W h
  unfold decodeRaw
  rw [h0, h1, h2, h3, h4, h5]
  rfl

end Sys2Proof.Laws
end

