-- ==== Sys2Proof/Laws/Exec.lean ====
section
/-! SUPPORT. Exec.lean: what `exec` of each instruction is: the meaning that the dispatch calls. -/

namespace Sys2Proof.Machine

theorem exec_add (s : State) (g : Guard) (d a b : BitVec 5) : exec (.add g d a b) s = execAdd g d a b s := rfl
theorem exec_sub (s : State) (g : Guard) (d a b : BitVec 5) : exec (.sub g d a b) s = execSub g d a b s := rfl
theorem exec_mul (s : State) (g : Guard) (d a b : BitVec 5) : exec (.mul g d a b) s = execMul g d a b s := rfl
theorem exec_mulh (s : State) (g : Guard) (d a b : BitVec 5) : exec (.mulh g d a b) s = execMulh g d a b s := rfl
theorem exec_mulhu (s : State) (g : Guard) (d a b : BitVec 5) : exec (.mulhu g d a b) s = execMulhu g d a b s := rfl
theorem exec_div (s : State) (g : Guard) (d a b : BitVec 5) : exec (.div g d a b) s = execDiv g d a b s := rfl
theorem exec_divu (s : State) (g : Guard) (d a b : BitVec 5) : exec (.divu g d a b) s = execDivu g d a b s := rfl
theorem exec_rem (s : State) (g : Guard) (d a b : BitVec 5) : exec (.rem g d a b) s = execRem g d a b s := rfl
theorem exec_remu (s : State) (g : Guard) (d a b : BitVec 5) : exec (.remu g d a b) s = execRemu g d a b s := rfl
theorem exec_andS (s : State) (g : Guard) (d a b : BitVec 5) : exec (.andS g d a b) s = execAndS g d a b s := rfl
theorem exec_orS (s : State) (g : Guard) (d a b : BitVec 5) : exec (.orS g d a b) s = execOrS g d a b s := rfl
theorem exec_xorS (s : State) (g : Guard) (d a b : BitVec 5) : exec (.xorS g d a b) s = execXorS g d a b s := rfl
theorem exec_andn (s : State) (g : Guard) (d a b : BitVec 5) : exec (.andn g d a b) s = execAndn g d a b s := rfl
theorem exec_shl (s : State) (g : Guard) (d a b : BitVec 5) : exec (.shl g d a b) s = execShl g d a b s := rfl
theorem exec_shr (s : State) (g : Guard) (d a b : BitVec 5) : exec (.shr g d a b) s = execShr g d a b s := rfl
theorem exec_sar (s : State) (g : Guard) (d a b : BitVec 5) : exec (.sar g d a b) s = execSar g d a b s := rfl
theorem exec_rotr (s : State) (g : Guard) (d a b : BitVec 5) : exec (.rotr g d a b) s = execRotr g d a b s := rfl
theorem exec_minS (s : State) (g : Guard) (d a b : BitVec 5) : exec (.minS g d a b) s = execMinS g d a b s := rfl
theorem exec_maxS (s : State) (g : Guard) (d a b : BitVec 5) : exec (.maxS g d a b) s = execMaxS g d a b s := rfl
theorem exec_minu (s : State) (g : Guard) (d a b : BitVec 5) : exec (.minu g d a b) s = execMinu g d a b s := rfl
theorem exec_maxu (s : State) (g : Guard) (d a b : BitVec 5) : exec (.maxu g d a b) s = execMaxu g d a b s := rfl
theorem exec_clz (s : State) (g : Guard) (d a : BitVec 5) : exec (.clz g d a) s = execClz g d a s := rfl
theorem exec_ctz (s : State) (g : Guard) (d a : BitVec 5) : exec (.ctz g d a) s = execCtz g d a s := rfl
theorem exec_popc (s : State) (g : Guard) (d a : BitVec 5) : exec (.popc g d a) s = execPopc g d a s := rfl
theorem exec_sextb (s : State) (g : Guard) (d a : BitVec 5) : exec (.sextb g d a) s = execSextb g d a s := rfl
theorem exec_sexth (s : State) (g : Guard) (d a : BitVec 5) : exec (.sexth g d a) s = execSexth g d a s := rfl
theorem exec_sextw (s : State) (g : Guard) (d a : BitVec 5) : exec (.sextw g d a) s = execSextw g d a s := rfl
theorem exec_zextb (s : State) (g : Guard) (d a : BitVec 5) : exec (.zextb g d a) s = execZextb g d a s := rfl
theorem exec_zexth (s : State) (g : Guard) (d a : BitVec 5) : exec (.zexth g d a) s = execZexth g d a s := rfl
theorem exec_zextw (s : State) (g : Guard) (d a : BitVec 5) : exec (.zextw g d a) s = execZextw g d a s := rfl
theorem exec_sel (s : State) (g : Guard) (d a b : BitVec 5) : exec (.sel g d a b) s = execSel g d a b s := rfl
theorem exec_addi (s : State) (g : Guard) (d a : BitVec 5) (imm : BitVec 12) :
    exec (.addi g d a imm) s = execAddi g d a imm s := rfl
theorem exec_andi (s : State) (g : Guard) (d a : BitVec 5) (imm : BitVec 12) :
    exec (.andi g d a imm) s = execAndi g d a imm s := rfl
theorem exec_ori (s : State) (g : Guard) (d a : BitVec 5) (imm : BitVec 12) :
    exec (.ori g d a imm) s = execOri g d a imm s := rfl
theorem exec_xori (s : State) (g : Guard) (d a : BitVec 5) (imm : BitVec 12) :
    exec (.xori g d a imm) s = execXori g d a imm s := rfl
theorem exec_shli (s : State) (g : Guard) (d a : BitVec 5) (m : BitVec 6) :
    exec (.shli g d a m) s = execShli g d a m s := rfl
theorem exec_shri (s : State) (g : Guard) (d a : BitVec 5) (m : BitVec 6) :
    exec (.shri g d a m) s = execShri g d a m s := rfl
theorem exec_sari (s : State) (g : Guard) (d a : BitVec 5) (m : BitVec 6) :
    exec (.sari g d a m) s = execSari g d a m s := rfl
theorem exec_rotri (s : State) (g : Guard) (d a : BitVec 5) (m : BitVec 6) :
    exec (.rotri g d a m) s = execRotri g d a m s := rfl
theorem exec_lih (s : State) (d : BitVec 5) (imm : BitVec 21) : exec (.lih d imm) s = execLih d imm s := rfl
theorem exec_apc (s : State) (d : BitVec 5) (imm : BitVec 21) : exec (.apc d imm) s = execApc d imm s := rfl
theorem exec_cmp (s : State) (g : Guard) (q : BitVec 3) (a b : BitVec 5) (c : SCond) :
    exec (.cmp g q a b c) s = execCmp g q a b c s := rfl
theorem exec_cmpi (s : State) (g : Guard) (q : BitVec 3) (c : SCond) (a : BitVec 5) (imm : BitVec 11) :
    exec (.cmpi g q c a imm) s = execCmpi g q c a imm s := rfl
theorem exec_pand (s : State) (g : Guard) (q x y : BitVec 3) : exec (.pand g q x y) s = execPand g q x y s := rfl
theorem exec_por (s : State) (g : Guard) (q x y : BitVec 3) : exec (.por g q x y) s = execPor g q x y s := rfl
theorem exec_pxor (s : State) (g : Guard) (q x y : BitVec 3) : exec (.pxor g q x y) s = execPxor g q x y s := rfl
theorem exec_pandn (s : State) (g : Guard) (q x y : BitVec 3) : exec (.pandn g q x y) s = execPandn g q x y s := rfl
theorem exec_pnot (s : State) (g : Guard) (q x : BitVec 3) : exec (.pnot g q x) s = execPnot g q x s := rfl
theorem exec_pmov (s : State) (g : Guard) (q x : BitVec 3) : exec (.pmov g q x) s = execPmov g q x s := rfl
theorem exec_pset (s : State) (g : Guard) (q : BitVec 3) : exec (.pset g q) s = execPset g q s := rfl
theorem exec_pbr (s : State) (t : BitVec 2) (imm : BitVec 24) : exec (.pbr t imm) s = execPbr t imm s := rfl
theorem exec_br (s : State) (g : Guard) (t : BitVec 2) : exec (.br g t) s = execBr g t s := rfl
theorem exec_brl (s : State) (g : Guard) (t : BitVec 2) : exec (.brl g t) s = execBrl g t s := rfl
theorem exec_pbrr (s : State) (g : Guard) (t : BitVec 2) (a : BitVec 5) : exec (.pbrr g t a) s = execPbrr g t a s := rfl
theorem exec_nop (s : State) (g : Guard) : exec (.nop g) s = execNop g s := rfl
theorem exec_mfs (s : State) (g : Guard) (d : BitVec 5) (sc : BitVec 10) :
    exec (.mfs g d sc) s = execMfs g d sc s := rfl
theorem exec_mts (s : State) (g : Guard) (d : BitVec 5) (sc : BitVec 10) :
    exec (.mts g d sc) s = execMts g d sc s := rfl
theorem exec_trap (s : State) (g : Guard) (a : BitVec 5) : exec (.trap g a) s = execTrap g a s := rfl
theorem exec_rte (s : State) (g : Guard) : exec (.rte g) s = execRte g s := rfl
theorem exec_yield (s : State) (g : Guard) : exec (.yield g) s = execYield g s := rfl
theorem exec_tfence (s : State) (g : Guard) : exec (.tfence g) s = execTfence g s := rfl
theorem exec_drain (s : State) (g : Guard) : exec (.drain g) s = execDrain g s := rfl
theorem exec_twait (s : State) (g : Guard) (d : BitVec 5) (e : Eng) : exec (.twait g d e) s = execTwait g d e s := rfl
theorem exec_cvta (s : State) (g : Guard) (d a : BitVec 5) (b : Space) :
    exec (.cvta g d a b) s = execCvta g d a b s := rfl
theorem exec_isin (s : State) (g : Guard) (d a : BitVec 5) (b : Space) :
    exec (.isin g d a b) s = execIsin g d a b s := rfl
theorem exec_halt (s : State) (g : Guard) : exec (.halt g) s = execHalt g s := rfl
theorem exec_rgnLoad (s : State) (g : Guard) (d a b : BitVec 5) :
    exec (.rgnLoad g d a b) s = execRgnLoad g d a b s := rfl
theorem exec_rgnStat (s : State) (g : Guard) (d a : BitVec 5) : exec (.rgnStat g d a) s = execRgnStat g d a s := rfl
theorem exec_rgnBind (s : State) (g : Guard) (d a b : BitVec 5) :
    exec (.rgnBind g d a b) s = execRgnBind g d a b s := rfl
theorem exec_ldb (s : State) (g : Guard) (d a : BitVec 5) (imm : BitVec 9) :
    exec (.ldb g d a imm) s = execLdb g d a imm s := rfl
theorem exec_ldh (s : State) (g : Guard) (d a : BitVec 5) (imm : BitVec 9) :
    exec (.ldh g d a imm) s = execLdh g d a imm s := rfl
theorem exec_ldw (s : State) (g : Guard) (d a : BitVec 5) (imm : BitVec 9) :
    exec (.ldw g d a imm) s = execLdw g d a imm s := rfl
theorem exec_ldd (s : State) (g : Guard) (d a : BitVec 5) (imm : BitVec 9) :
    exec (.ldd g d a imm) s = execLdd g d a imm s := rfl
theorem exec_ldbu (s : State) (g : Guard) (d a : BitVec 5) (imm : BitVec 9) :
    exec (.ldbu g d a imm) s = execLdbu g d a imm s := rfl
theorem exec_ldhu (s : State) (g : Guard) (d a : BitVec 5) (imm : BitVec 9) :
    exec (.ldhu g d a imm) s = execLdhu g d a imm s := rfl
theorem exec_ldwu (s : State) (g : Guard) (d a : BitVec 5) (imm : BitVec 9) :
    exec (.ldwu g d a imm) s = execLdwu g d a imm s := rfl
theorem exec_stb (s : State) (g : Guard) (d a : BitVec 5) (imm : BitVec 9) :
    exec (.stb g d a imm) s = execStb g d a imm s := rfl
theorem exec_sth (s : State) (g : Guard) (d a : BitVec 5) (imm : BitVec 9) :
    exec (.sth g d a imm) s = execSth g d a imm s := rfl
theorem exec_stw (s : State) (g : Guard) (d a : BitVec 5) (imm : BitVec 9) :
    exec (.stw g d a imm) s = execStw g d a imm s := rfl
theorem exec_std (s : State) (g : Guard) (d a : BitVec 5) (imm : BitVec 9) :
    exec (.std g d a imm) s = execStd g d a imm s := rfl
theorem exec_ldaW (s : State) (g : Guard) (d a : BitVec 5) (sc : Scope) :
    exec (.ldaW g d a sc) s = execLdaW g d a sc s := rfl
theorem exec_ldaD (s : State) (g : Guard) (d a : BitVec 5) (sc : Scope) :
    exec (.ldaD g d a sc) s = execLdaD g d a sc s := rfl
theorem exec_strW (s : State) (g : Guard) (d a : BitVec 5) (sc : Scope) :
    exec (.strW g d a sc) s = execStrW g d a sc s := rfl
theorem exec_strD (s : State) (g : Guard) (d a : BitVec 5) (sc : Scope) :
    exec (.strD g d a sc) s = execStrD g d a sc s := rfl
theorem exec_amoAdd (s : State) (sc : Scope) (o : Order) (d a b : BitVec 5) (w : Wd) :
    exec (.amoAdd sc o d a b w) s = execAmoAdd sc o d a b w s := rfl
theorem exec_amoAnd (s : State) (sc : Scope) (o : Order) (d a b : BitVec 5) (w : Wd) :
    exec (.amoAnd sc o d a b w) s = execAmoAnd sc o d a b w s := rfl
theorem exec_amoOr (s : State) (sc : Scope) (o : Order) (d a b : BitVec 5) (w : Wd) :
    exec (.amoOr sc o d a b w) s = execAmoOr sc o d a b w s := rfl
theorem exec_amoXor (s : State) (sc : Scope) (o : Order) (d a b : BitVec 5) (w : Wd) :
    exec (.amoXor sc o d a b w) s = execAmoXor sc o d a b w s := rfl
theorem exec_amoMin (s : State) (sc : Scope) (o : Order) (d a b : BitVec 5) (w : Wd) :
    exec (.amoMin sc o d a b w) s = execAmoMin sc o d a b w s := rfl
theorem exec_amoMax (s : State) (sc : Scope) (o : Order) (d a b : BitVec 5) (w : Wd) :
    exec (.amoMax sc o d a b w) s = execAmoMax sc o d a b w s := rfl
theorem exec_amoMinu (s : State) (sc : Scope) (o : Order) (d a b : BitVec 5) (w : Wd) :
    exec (.amoMinu sc o d a b w) s = execAmoMinu sc o d a b w s := rfl
theorem exec_amoMaxu (s : State) (sc : Scope) (o : Order) (d a b : BitVec 5) (w : Wd) :
    exec (.amoMaxu sc o d a b w) s = execAmoMaxu sc o d a b w s := rfl
theorem exec_amoSwp (s : State) (sc : Scope) (o : Order) (d a b : BitVec 5) (w : Wd) :
    exec (.amoSwp sc o d a b w) s = execAmoSwp sc o d a b w s := rfl
theorem exec_amoCas (s : State) (sc : Scope) (o : Order) (d a b : BitVec 5) (w : Wd) :
    exec (.amoCas sc o d a b w) s = execAmoCas sc o d a b w s := rfl
theorem exec_fence (s : State) (g : Guard) (sc : Scope) (k : FKind) : exec (.fence g sc k) s = execFence g sc k s := rfl
theorem exec_sbar (s : State) (g : Guard) (a : BitVec 5) : exec (.sbar g a) s = execSbar g a s := rfl
theorem exec_waitc (s : State) (g : Guard) (sc : Scope) (a b : BitVec 5) :
    exec (.waitc g sc a b) s = execWaitc g sc a b s := rfl
theorem exec_tspawn (s : State) (g : Guard) (d a b : BitVec 5) : exec (.tspawn g d a b) s = execTspawn g d a b s := rfl
theorem exec_texit (s : State) (g : Guard) : exec (.texit g) s = execTexit g s := rfl
theorem exec_exit (s : State) (g : Guard) : exec (.exit g) s = execExit g s := rfl
theorem exec_recv (s : State) (g : Guard) (d a : BitVec 5) : exec (.recv g d a) s = execRecv g d a s := rfl
theorem exec_send (s : State) (g : Guard) (d a b : BitVec 5) : exec (.send g d a b) s = execSend g d a b s := rfl
theorem exec_launch (s : State) (g : Guard) (d a : BitVec 5) : exec (.launch g d a) s = execLaunch g d a s := rfl
theorem exec_bind (s : State) (g : Guard) (d a : BitVec 5) : exec (.bind g d a) s = execBind g d a s := rfl
theorem exec_dqpush (s : State) (g : Guard) (d a : BitVec 5) : exec (.dqpush g d a) s = execDqpush g d a s := rfl
theorem exec_dqpop (s : State) (g : Guard) (d : BitVec 5) : exec (.dqpop g d) s = execDqpop g d s := rfl
theorem exec_dqsteal (s : State) (g : Guard) (d a : BitVec 5) : exec (.dqsteal g d a) s = execDqsteal g d a s := rfl
theorem exec_dqlen (s : State) (g : Guard) (d : BitVec 5) : exec (.dqlen g d) s = execDqlen g d s := rfl
theorem exec_pld (s : State) (g : Guard) (d a b : BitVec 5) (z : Size) :
    exec (.pld g d a b z) s = execPld g d a b z s := rfl
theorem exec_pst (s : State) (g : Guard) (d a b : BitVec 5) (z : Size) :
    exec (.pst g d a b z) s = execPst g d a b z s := rfl
theorem exec_pldr (s : State) (g : Guard) (d a b : BitVec 5) : exec (.pldr g d a b) s = execPldr g d a b s := rfl
theorem exec_pstr (s : State) (g : Guard) (d a b : BitVec 5) : exec (.pstr g d a b) s = execPstr g d a b s := rfl
theorem exec_pnew (s : State) (g : Guard) (d a : BitVec 5) : exec (.pnew g d a) s = execPnew g d a s := rfl
theorem exec_pfree (s : State) (g : Guard) (a : BitVec 5) : exec (.pfree g a) s = execPfree g a s := rfl
theorem exec_plen (s : State) (g : Guard) (d a : BitVec 5) : exec (.plen g d a) s = execPlen g d a s := rfl
theorem exec_pstat (s : State) (g : Guard) (d a : BitVec 5) : exec (.pstat g d a) s = execPstat g d a s := rfl
theorem exec_pmap (s : State) (g : Guard) (d a : BitVec 5) : exec (.pmap g d a) s = execPmap g d a s := rfl
theorem exec_punmap (s : State) (g : Guard) (a : BitVec 5) : exec (.punmap g a) s = execPunmap g a s := rfl
theorem exec_post (s : State) (d a b : BitVec 5) : exec (.post d a b) s = execPost d a b s := rfl
theorem exec_precv (s : State) (g : Guard) (d : BitVec 5) : exec (.precv g d) s = execPrecv g d s := rfl
theorem exec_vadd (s : State) (d a b : BitVec 5) (m : BitVec 3) (t : Ty) :
    exec (.vadd d a b m t) s = execVadd d a b m t s := rfl
theorem exec_vsub (s : State) (d a b : BitVec 5) (m : BitVec 3) (t : Ty) :
    exec (.vsub d a b m t) s = execVsub d a b m t s := rfl
theorem exec_vmul (s : State) (d a b : BitVec 5) (m : BitVec 3) (t : Ty) :
    exec (.vmul d a b m t) s = execVmul d a b m t s := rfl
theorem exec_vmad (s : State) (d a b : BitVec 5) (m : BitVec 3) (t : Ty) :
    exec (.vmad d a b m t) s = execVmad d a b m t s := rfl
theorem exec_vmsb (s : State) (d a b : BitVec 5) (m : BitVec 3) (t : Ty) :
    exec (.vmsb d a b m t) s = execVmsb d a b m t s := rfl
theorem exec_vabs (s : State) (d a : BitVec 5) (m : BitVec 3) (t : Ty) :
    exec (.vabs d a m t) s = execVabs d a m t s := rfl
theorem exec_vneg (s : State) (d a : BitVec 5) (m : BitVec 3) (t : Ty) :
    exec (.vneg d a m t) s = execVneg d a m t s := rfl
theorem exec_vmin (s : State) (d a b : BitVec 5) (m : BitVec 3) (t : Ty) :
    exec (.vmin d a b m t) s = execVmin d a b m t s := rfl
theorem exec_vmax (s : State) (d a b : BitVec 5) (m : BitVec 3) (t : Ty) :
    exec (.vmax d a b m t) s = execVmax d a b m t s := rfl
theorem exec_vadds (s : State) (d a b : BitVec 5) (m : BitVec 3) (t : Ty) :
    exec (.vadds d a b m t) s = execVadds d a b m t s := rfl
theorem exec_vsubs (s : State) (d a b : BitVec 5) (m : BitVec 3) (t : Ty) :
    exec (.vsubs d a b m t) s = execVsubs d a b m t s := rfl
theorem exec_vmulhi (s : State) (d a b : BitVec 5) (m : BitVec 3) (t : Ty) :
    exec (.vmulhi d a b m t) s = execVmulhi d a b m t s := rfl
theorem exec_vand (s : State) (d a b : BitVec 5) (m : BitVec 3) (t : Ty) :
    exec (.vand d a b m t) s = execVand d a b m t s := rfl
theorem exec_vor (s : State) (d a b : BitVec 5) (m : BitVec 3) (t : Ty) :
    exec (.vor d a b m t) s = execVor d a b m t s := rfl
theorem exec_vxor (s : State) (d a b : BitVec 5) (m : BitVec 3) (t : Ty) :
    exec (.vxor d a b m t) s = execVxor d a b m t s := rfl
theorem exec_vnot (s : State) (d a : BitVec 5) (m : BitVec 3) (t : Ty) :
    exec (.vnot d a m t) s = execVnot d a m t s := rfl
theorem exec_vshl (s : State) (d a b : BitVec 5) (m : BitVec 3) (t : Ty) :
    exec (.vshl d a b m t) s = execVshl d a b m t s := rfl
theorem exec_vshr (s : State) (d a b : BitVec 5) (m : BitVec 3) (t : Ty) :
    exec (.vshr d a b m t) s = execVshr d a b m t s := rfl
theorem exec_vsar (s : State) (d a b : BitVec 5) (m : BitVec 3) (t : Ty) :
    exec (.vsar d a b m t) s = execVsar d a b m t s := rfl
theorem exec_vclz (s : State) (d a : BitVec 5) (m : BitVec 3) (t : Ty) :
    exec (.vclz d a m t) s = execVclz d a m t s := rfl
theorem exec_vpopc (s : State) (d a : BitVec 5) (m : BitVec 3) (t : Ty) :
    exec (.vpopc d a m t) s = execVpopc d a m t s := rfl
theorem exec_vcmp (s : State) (d : BitVec 3) (a b : BitVec 5) (m : BitVec 3) (c : VCond) (t : Ty) :
    exec (.vcmp d a b m c t) s = execVcmp d a b m c t s := rfl
theorem exec_vcvt (s : State) (d a : BitVec 5) (u : Ty) (m : BitVec 3) (sc : BitVec 1) (r : Rnd) (t : Ty) :
    exec (.vcvt d a u m sc r t) s = execVcvt d a u m sc r t s := rfl
theorem exec_vrcp (s : State) (d a : BitVec 5) (m : BitVec 3) (t : Ty) :
    exec (.vrcp d a m t) s = execVrcp d a m t s := rfl
theorem exec_vrsq (s : State) (d a : BitVec 5) (m : BitVec 3) (t : Ty) :
    exec (.vrsq d a m t) s = execVrsq d a m t s := rfl
theorem exec_vsqrt (s : State) (d a : BitVec 5) (m : BitVec 3) (t : Ty) :
    exec (.vsqrt d a m t) s = execVsqrt d a m t s := rfl
theorem exec_vexp2 (s : State) (d a : BitVec 5) (m : BitVec 3) (t : Ty) :
    exec (.vexp2 d a m t) s = execVexp2 d a m t s := rfl
theorem exec_vlog2 (s : State) (d a : BitVec 5) (m : BitVec 3) (t : Ty) :
    exec (.vlog2 d a m t) s = execVlog2 d a m t s := rfl
theorem exec_vtanh (s : State) (d a : BitVec 5) (m : BitVec 3) (t : Ty) :
    exec (.vtanh d a m t) s = execVtanh d a m t s := rfl
theorem exec_vsin (s : State) (d a : BitVec 5) (m : BitVec 3) (t : Ty) :
    exec (.vsin d a m t) s = execVsin d a m t s := rfl
theorem exec_vcos (s : State) (d a : BitVec 5) (m : BitVec 3) (t : Ty) :
    exec (.vcos d a m t) s = execVcos d a m t s := rfl
theorem exec_vredadd (s : State) (d a : BitVec 5) (m : BitVec 3) (t : Ty) :
    exec (.vredadd d a m t) s = execVredadd d a m t s := rfl
theorem exec_vredmax (s : State) (d a : BitVec 5) (m : BitVec 3) (t : Ty) :
    exec (.vredmax d a m t) s = execVredmax d a m t s := rfl
theorem exec_vredmin (s : State) (d a : BitVec 5) (m : BitVec 3) (t : Ty) :
    exec (.vredmin d a m t) s = execVredmin d a m t s := rfl
theorem exec_vredor (s : State) (d a : BitVec 5) (m : BitVec 3) (t : Ty) :
    exec (.vredor d a m t) s = execVredor d a m t s := rfl
theorem exec_vredand (s : State) (d a : BitVec 5) (m : BitVec 3) (t : Ty) :
    exec (.vredand d a m t) s = execVredand d a m t s := rfl
theorem exec_vscan (s : State) (d a : BitVec 5) (m : BitVec 3) (t : Ty) :
    exec (.vscan d a m t) s = execVscan d a m t s := rfl
theorem exec_vperm (s : State) (d a b : BitVec 5) (m : BitVec 3) (t : Ty) :
    exec (.vperm d a b m t) s = execVperm d a b m t s := rfl
theorem exec_vbcast (s : State) (d a : BitVec 5) (m : BitVec 3) (t : Ty) :
    exec (.vbcast d a m t) s = execVbcast d a m t s := rfl
theorem exec_viota (s : State) (d : BitVec 5) (m : BitVec 3) (t : Ty) : exec (.viota d m t) s = execViota d m t s := rfl
theorem exec_vslide (s : State) (d a b : BitVec 5) (m : BitVec 3) (t : Ty) :
    exec (.vslide d a b m t) s = execVslide d a b m t s := rfl
theorem exec_vsel (s : State) (d a b : BitVec 5) (m : BitVec 3) (t : Ty) :
    exec (.vsel d a b m t) s = execVsel d a b m t s := rfl
theorem exec_vmovs (s : State) (d a b : BitVec 5) (t : Ty) : exec (.vmovs d a b t) s = execVmovs d a b t s := rfl
theorem exec_vext (s : State) (d a b : BitVec 5) (t : Ty) : exec (.vext d a b t) s = execVext d a b t s := rfl
theorem exec_vcmul (s : State) (d a b : BitVec 5) (m : BitVec 3) (t : Ty) :
    exec (.vcmul d a b m t) s = execVcmul d a b m t s := rfl
theorem exec_vconj (s : State) (d a : BitVec 5) (m : BitVec 3) (t : Ty) :
    exec (.vconj d a m t) s = execVconj d a m t s := rfl
theorem exec_mand (s : State) (d a b : BitVec 3) (t : Ty) : exec (.mand d a b t) s = execMand d a b t s := rfl
theorem exec_mor (s : State) (d a b : BitVec 3) (t : Ty) : exec (.mor d a b t) s = execMor d a b t s := rfl
theorem exec_mxor (s : State) (d a b : BitVec 3) (t : Ty) : exec (.mxor d a b t) s = execMxor d a b t s := rfl
theorem exec_mnot (s : State) (d a : BitVec 3) (t : Ty) : exec (.mnot d a t) s = execMnot d a t s := rfl
theorem exec_mpop (s : State) (d : BitVec 5) (a m : BitVec 3) (t : Ty) :
    exec (.mpop d a m t) s = execMpop d a m t s := rfl
theorem exec_vany (s : State) (d a m : BitVec 3) (t : Ty) : exec (.vany d a m t) s = execVany d a m t s := rfl
theorem exec_vall (s : State) (d a m : BitVec 3) (t : Ty) : exec (.vall d a m t) s = execVall d a m t s := rfl
theorem exec_vld (s : State) (v a : BitVec 5) (m : BitVec 3) (t : Ty) : exec (.vld v a m t) s = execVld v a m t s := rfl
theorem exec_vlds (s : State) (v a x : BitVec 5) (m : BitVec 3) (t : Ty) :
    exec (.vlds v a x m t) s = execVlds v a x m t s := rfl
theorem exec_vgath (s : State) (v a x : BitVec 5) (m : BitVec 3) (t : Ty) :
    exec (.vgath v a x m t) s = execVgath v a x m t s := rfl
theorem exec_vst (s : State) (v a : BitVec 5) (m : BitVec 3) (t : Ty) : exec (.vst v a m t) s = execVst v a m t s := rfl
theorem exec_vsts (s : State) (v a x : BitVec 5) (m : BitVec 3) (t : Ty) :
    exec (.vsts v a x m t) s = execVsts v a x m t s := rfl
theorem exec_vscat (s : State) (v a x : BitVec 5) (m : BitVec 3) (t : Ty) :
    exec (.vscat v a x m t) s = execVscat v a x m t s := rfl
theorem exec_vamoAdd (s : State) (v imm a : BitVec 5) (m : BitVec 3) (sc : Scope) (w : Wd) :
    exec (.vamoAdd v imm a m sc w) s = execVamoAdd v imm a m sc w s := rfl
theorem exec_vamoOr (s : State) (v imm a : BitVec 5) (m : BitVec 3) (sc : Scope) (w : Wd) :
    exec (.vamoOr v imm a m sc w) s = execVamoOr v imm a m sc w s := rfl
theorem exec_vamoAnd (s : State) (v imm a : BitVec 5) (m : BitVec 3) (sc : Scope) (w : Wd) :
    exec (.vamoAnd v imm a m sc w) s = execVamoAnd v imm a m sc w s := rfl
theorem exec_vamoXor (s : State) (v imm a : BitVec 5) (m : BitVec 3) (sc : Scope) (w : Wd) :
    exec (.vamoXor v imm a m sc w) s = execVamoXor v imm a m sc w s := rfl
theorem exec_vamoMin (s : State) (v imm a : BitVec 5) (m : BitVec 3) (sc : Scope) (w : Wd) :
    exec (.vamoMin v imm a m sc w) s = execVamoMin v imm a m sc w s := rfl
theorem exec_vamoMax (s : State) (v imm a : BitVec 5) (m : BitVec 3) (sc : Scope) (w : Wd) :
    exec (.vamoMax v imm a m sc w) s = execVamoMax v imm a m sc w s := rfl
theorem exec_vpop (s : State) (v : BitVec 5) (b : BitVec 4) : exec (.vpop v b) s = execVpop v b s := rfl
theorem exec_vpush (s : State) (v : BitVec 5) (b : BitVec 4) : exec (.vpush v b) s = execVpush v b s := rfl
theorem exec_vpeek (s : State) (v : BitVec 5) (b : BitVec 4) : exec (.vpeek v b) s = execVpeek v b s := rfl
theorem exec_mldw (s : State) (a : BitVec 5) (t : Ty) (y : BitVec 4) (p : BitVec 1) :
    exec (.mldw a t y p) s = execMldw a t y p s := rfl
theorem exec_mswp (s : State) : exec .mswp s = execMswp s := rfl
theorem exec_mtag (s : State) (a : BitVec 5) : exec (.mtag a) s = execMtag a s := rfl
theorem exec_mmul (s : State) (e : BitVec 4) (b : BitVec 5) (x : BitVec 4) (t : Ty) (r : BitVec 2) (p : BitVec 1) :
    exec (.mmul e b x t r p) s = execMmul e b x t r p s := rfl
theorem exec_mmulz (s : State) (e : BitVec 4) (b : BitVec 5) (x : BitVec 4) (t : Ty) (r : BitVec 2) (p : BitVec 1) :
    exec (.mmulz e b x t r p) s = execMmulz e b x t r p s := rfl
theorem exec_mrel (s : State) (x : BitVec 4) : exec (.mrel x) s = execMrel x s := rfl
theorem exec_mzero (s : State) (x : BitVec 4) (k : AKind) : exec (.mzero x k) s = execMzero x k s := rfl
theorem exec_mstat (s : State) (d : BitVec 5) (x : BitVec 4) (p : BitVec 1) :
    exec (.mstat d x p) s = execMstat d x p s := rfl
theorem exec_mlda (s : State) (e : BitVec 4) (b : BitVec 5) (x : BitVec 4) (k : AKind) :
    exec (.mlda e b x k) s = execMlda e b x k s := rfl
theorem exec_mrd (s : State) (o : BitVec 1) (e : BitVec 4) (b : BitVec 5) (x : BitVec 4) (t : Ty) (r : Rnd) :
    exec (.mrd o e b x t r) s = execMrd o e b x t r s := rfl
theorem exec_mrds (s : State) (o : BitVec 1) (e : BitVec 4) (b : BitVec 5) (x : BitVec 4) (t : Ty) (r : Rnd) :
    exec (.mrds o e b x t r) s = execMrds o e b x t r s := rfl
theorem exec_sbdef (s : State) (e : BitVec 4) (a b : BitVec 5) : exec (.sbdef e a b) s = execSbdef e a b s := rfl
theorem exec_stdef (s : State) (e : BitVec 3) (a b : BitVec 5) : exec (.stdef e a b) s = execStdef e a b s := rfl
theorem exec_stdim (s : State) (e : BitVec 3) (a b : BitVec 5) : exec (.stdim e a b) s = execStdim e a b s := rfl
theorem exec_stpos (s : State) (e : BitVec 3) (a : BitVec 5) : exec (.stpos e a) s = execStpos e a s := rfl
theorem exec_strst (s : State) (e : BitVec 3) : exec (.strst e) s = execStrst e s := rfl
theorem exec_copy (s : State) (sc d a b : BitVec 5) : exec (.copy sc d a b) s = execCopy sc d a b s := rfl
theorem exec_copym (s : State) (sc : BitVec 5) (d : BitVec 4) (a b : BitVec 5) :
    exec (.copym sc d a b) s = execCopym sc d a b s := rfl
theorem exec_cqnt (s : State) (sc d a b : BitVec 5) : exec (.cqnt sc d a b) s = execCqnt sc d a b s := rfl
theorem exec_cexp (s : State) (sc d a b : BitVec 5) : exec (.cexp sc d a b) s = execCexp sc d a b s := rfl
theorem exec_ccvt (s : State) (sc d a b : BitVec 5) : exec (.ccvt sc d a b) s = execCcvt sc d a b s := rfl
theorem exec_cfill (s : State) (d a b : BitVec 5) : exec (.cfill d a b) s = execCfill d a b s := rfl
theorem exec_rld (s : State) (a b c : BitVec 5) (sc : Scope) : exec (.rld a b c sc) s = execRld a b c sc s := rfl
theorem exec_rst (s : State) (a b c : BitVec 5) (sc : Scope) : exec (.rst a b c sc) s = execRst a b c sc s := rfl
theorem exec_ramo (s : State) (a b c : BitVec 5) (sc : Scope) (f : BitVec 3) :
    exec (.ramo a b c sc f) s = execRamo a b c sc f s := rfl
theorem exec_rfence (s : State) (sc : Scope) : exec (.rfence sc) s = execRfence sc s := rfl
theorem exec_lcnt (s : State) (a : BitVec 5) : exec (.lcnt a) s = execLcnt a s := rfl
theorem exec_leaseAsk (s : State) (a b c : BitVec 5) : exec (.leaseAsk a b c) s = execLeaseAsk a b c s := rfl
theorem exec_leaseGive (s : State) (a b : BitVec 5) : exec (.leaseGive a b) s = execLeaseGive a b s := rfl
theorem exec_leaseStat (s : State) (a b : BitVec 5) : exec (.leaseStat a b) s = execLeaseStat a b s := rfl
theorem exec_fctl (s : State) (a b : BitVec 5) : exec (.fctl a b) s = execFctl a b s := rfl
theorem exec_fstat (s : State) (a b : BitVec 5) : exec (.fstat a b) s = execFstat a b s := rfl
theorem exec_dep (s : State) (g : Guard) (x y z : BitVec 7) : exec (.dep g x y z) s = execDep g x y z s := rfl
theorem exec_vwinWrite (s : State) (v : Word) : exec (.vwinWrite v) s = execVwinWrite v s := rfl
theorem exec_srseedWrite (s : State) (v : Word) : exec (.srseedWrite v) s = execSrseedWrite v s := rfl
theorem exec_rmodeWrite (s : State) (v : Word) : exec (.rmodeWrite v) s = execRmodeWrite v s := rfl
theorem exec_leaseqRead (s : State) (d : BitVec 5) : exec (.leaseqRead d) s = execLeaseqRead d s := rfl
theorem exec_registerWrite (s : State) (r : MReg) (v : Word) :
    exec (.registerWrite r v) s = execRegisterWrite r v s := rfl
theorem exec_sequencerResultLanding (s : State) (tile task k : Nat) :
    exec (.sequencerResultLanding tile task k) s = execSequencerResultLanding tile task k s := rfl
theorem exec_engineQueueHeadIssue (s : State) (tile : Nat) (e : Eng) (budget : Nat) :
    exec (.engineQueueHeadIssue tile e budget) s = execEngineQueueHeadIssue tile e budget s := rfl
theorem exec_engineFaultDelivery (s : State) (tile : Nat) :
    exec (.engineFaultDelivery tile) s = execEngineFaultDelivery tile s := rfl
theorem exec_arrayRowExit (s : State) (tile : Nat) : exec (.arrayRowExit tile) s = execArrayRowExit tile s := rfl
theorem exec_planeLoadComplete (s : State) (tile plane : Nat) :
    exec (.planeLoadComplete tile plane) s = execPlaneLoadComplete tile plane s := rfl
theorem exec_streamBufferFire (s : State) (tile : Nat) (e : Eng) (k : Nat) :
    exec (.streamBufferFire tile e k) s = execStreamBufferFire tile e k s := rfl
theorem exec_copyPieceLand (s : State) (tile : Nat) : exec (.copyPieceLand tile) s = execCopyPieceLand tile s := rfl
theorem exec_copyCounterAdd (s : State) (tile : Nat) : exec (.copyCounterAdd tile) s = execCopyCounterAdd tile s := rfl
theorem exec_copymFollowOnFill (s : State) (tile : Nat) :
    exec (.copymFollowOnFill tile) s = execCopymFollowOnFill tile s := rfl
theorem exec_remoteRequestArrival (s : State) (k : Nat) :
    exec (.remoteRequestArrival k) s = execRemoteRequestArrival k s := rfl
theorem exec_remoteResponseLanding (s : State) (k : Nat) (ans : PeerAns) :
    exec (.remoteResponseLanding k ans) s = execRemoteResponseLanding k ans s := rfl
theorem exec_writeAckLanding (s : State) (k : Nat) (ans : PeerAns) :
    exec (.writeAckLanding k ans) s = execWriteAckLanding k ans s := rfl
theorem exec_rstCounterMessage (s : State) (k : Nat) : exec (.rstCounterMessage k) s = execRstCounterMessage k s := rfl
theorem exec_crossPackageRequest (s : State) (q : PeerReq) :
    exec (.crossPackageRequest q) s = execCrossPackageRequest q s := rfl
theorem exec_sendArrival (s : State) (k : Nat) : exec (.sendArrival k) s = execSendArrival k s := rfl
theorem exec_dqstealArrival (s : State) (k : Nat) : exec (.dqstealArrival k) s = execDqstealArrival k s := rfl
theorem exec_waitcWake (s : State) (loc : Nat) : exec (.waitcWake loc) s = execWaitcWake loc s := rfl
theorem exec_flitOutOfRectangle (s : State) (tile ctx : Nat) :
    exec (.flitOutOfRectangle tile ctx) s = execFlitOutOfRectangle tile ctx s := rfl
theorem exec_parcelOffer (s : State) (o : Offer) : exec (.parcelOffer o) s = execParcelOffer o s := rfl
theorem exec_parcelLastByteLands (s : State) (o : Offer) (bytes : List PByte) :
    exec (.parcelLastByteLands o bytes) s = execParcelLastByteLands o bytes s := rfl
theorem exec_parcelAcknowledgement (s : State) (o : Offer) :
    exec (.parcelAcknowledgement o) s = execParcelAcknowledgement o s := rfl
theorem exec_hostSubmissionIntake (s : State) (ctx queue : Nat) :
    exec (.hostSubmissionIntake ctx queue) s = execHostSubmissionIntake ctx queue s := rfl
theorem exec_castOn (s : State) (part : Nat) : exec (.castOn part) s = execCastOn part s := rfl
theorem exec_stitchDispatch (s : State) (part : Nat) : exec (.stitchDispatch part) s = execStitchDispatch part s := rfl
theorem exec_stitchStart (s : State) (tile : Nat) : exec (.stitchStart tile) s = execStitchStart tile s := rfl
theorem exec_nodeComplete (s : State) (part slot node : Nat) :
    exec (.nodeComplete part slot node) s = execNodeComplete part slot node s := rfl
theorem exec_graphComplete (s : State) (part slot : Nat) :
    exec (.graphComplete part slot) s = execGraphComplete part slot s := rfl
theorem exec_widthChange (s : State) (part slot : Nat) :
    exec (.widthChange part slot) s = execWidthChange part slot s := rfl
theorem exec_nodeWatchdogExpiry (s : State) (part slot node : Nat) :
    exec (.nodeWatchdogExpiry part slot node) s = execNodeWatchdogExpiry part slot node s := rfl
theorem exec_sliceEnd (s : State) (part : Nat) : exec (.sliceEnd part) s = execSliceEnd part s := rfl
theorem exec_bindOffTokenHop (s : State) (part : Nat) :
    exec (.bindOffTokenHop part) s = execBindOffTokenHop part s := rfl
theorem exec_tileSwitch (s : State) (tile : Nat) : exec (.tileSwitch tile) s = execTileSwitch tile s := rfl
theorem exec_graceExpiry (s : State) (part : Nat) : exec (.graceExpiry part) s = execGraceExpiry part s := rfl
theorem exec_contextResume (s : State) (ctx : Nat) : exec (.contextResume ctx) s = execContextResume ctx s := rfl
theorem exec_hangWatchdogExpiry (s : State) (ctx : Nat) :
    exec (.hangWatchdogExpiry ctx) s = execHangWatchdogExpiry ctx s := rfl
theorem exec_lateFlagRaise (s : State) (ctx tile task : Nat) (f : BitVec 8) :
    exec (.lateFlagRaise ctx tile task f) s = execLateFlagRaise ctx tile task f s := rfl
theorem exec_partitionCreate (s : State) (num : Nat) (v : Word) :
    exec (.partitionCreate num v) s = execPartitionCreate num v s := rfl
theorem exec_partitionResize (s : State) (num : Nat) (v : Word) :
    exec (.partitionResize num v) s = execPartitionResize num v s := rfl
theorem exec_partitionDelete (s : State) (num : Nat) : exec (.partitionDelete num) s = execPartitionDelete num s := rfl
theorem exec_widthCapWrite (s : State) (num cap : Nat) :
    exec (.widthCapWrite num cap) s = execWidthCapWrite num cap s := rfl
theorem exec_vfEnable (s : State) (n : Nat) : exec (.vfEnable n) s = execVfEnable n s := rfl
theorem exec_contextBind (s : State) (n : Nat) (r : CtxRec) : exec (.contextBind n r) s = execContextBind n r s := rfl
theorem exec_contextUnbind (s : State) (n : Nat) : exec (.contextUnbind n) s = execContextUnbind n s := rfl
theorem exec_scheduleEntryWrite (s : State) (num idx : Nat) (v : BitVec 32) :
    exec (.scheduleEntryWrite num idx v) s = execScheduleEntryWrite num idx v s := rfl
theorem exec_shootdownRequest (s : State) (ctx lo hi : Nat) :
    exec (.shootdownRequest ctx lo hi) s = execShootdownRequest ctx lo hi s := rfl
theorem exec_forcedPreemptRequest (s : State) (ctx : Nat) :
    exec (.forcedPreemptRequest ctx) s = execForcedPreemptRequest ctx s := rfl
theorem exec_contextRemoveRequest (s : State) (ctx : Nat) :
    exec (.contextRemoveRequest ctx) s = execContextRemoveRequest ctx s := rfl
theorem exec_functionLevelReset (s : State) (n : Nat) :
    exec (.functionLevelReset n) s = execFunctionLevelReset n s := rfl
theorem exec_submissionDoorbellWrite (s : State) (n q : Nat) (prod : BitVec 32) :
    exec (.submissionDoorbellWrite n q prod) s = execSubmissionDoorbellWrite n q prod s := rfl
theorem exec_consumerDoorbellWrite (s : State) (n : Nat) (events : Bool) (cons : BitVec 32) :
    exec (.consumerDoorbellWrite n events cons) s = execConsumerDoorbellWrite n events cons s := rfl
theorem exec_queueConfigWrite (s : State) (n q : Nat) (isBase : Bool) (v : Word) :
    exec (.queueConfigWrite n q isBase v) s = execQueueConfigWrite n q isBase v s := rfl
theorem exec_msixTestWrite (s : State) (n vec : Nat) : exec (.msixTestWrite n vec) s = execMsixTestWrite n vec s := rfl
theorem exec_attestationRequest (s : State) (nonce : BitVec 512) :
    exec (.attestationRequest nonce) s = execAttestationRequest nonce s := rfl
theorem exec_supervisorImageInstall (s : State) (num slot : Nat) (image sig : List Byte) :
    exec (.supervisorImageInstall num slot image sig) s = execSupervisorImageInstall num slot image sig s := rfl
theorem exec_keySlotInstall (s : State) (slot : Nat) (key sig : List Byte) :
    exec (.keySlotInstall slot key sig) s = execKeySlotInstall slot key sig s := rfl
theorem exec_keySlotRevoke (s : State) (slot : Nat) : exec (.keySlotRevoke slot) s = execKeySlotRevoke slot s := rfl
theorem exec_regionVerifyDone (s : State) (v : VerifyEnd) :
    exec (.regionVerifyDone v) s = execRegionVerifyDone v s := rfl
theorem exec_regionQuiesced (s : State) (region : Nat) :
    exec (.regionQuiesced region) s = execRegionQuiesced region s := rfl
theorem exec_regionProgramDone (s : State) (region : Nat) :
    exec (.regionProgramDone region) s = execRegionProgramDone region s := rfl
theorem exec_portBindingApply (s : State) (region port : Nat) :
    exec (.portBindingApply region port) s = execPortBindingApply region port s := rfl
theorem exec_sidebandDelivery (s : State) (region port : Nat) :
    exec (.sidebandDelivery region port) s = execSidebandDelivery region port s := rfl
theorem exec_podBringUp (s : State) (id : BitVec 8) (members : List Nat) :
    exec (.podBringUp id members) s = execPodBringUp id members s := rfl
theorem exec_revokeCycle (s : State) (offers : List FarOffer) (dark : CycleLosses) :
    exec (.revokeCycle offers dark) s = execRevokeCycle offers dark s := rfl
theorem exec_laneRetuneDone (s : State) (peer : Nat) (r : RetuneEnd) :
    exec (.laneRetuneDone peer r) s = execLaneRetuneDone peer r s := rfl
theorem exec_lossOfLight (s : State) (peer : Nat) (l : LossSeen) :
    exec (.lossOfLight peer l) s = execLossOfLight peer l s := rfl
theorem exec_elsFailure (s : State) (e : ModuleLoss) : exec (.elsFailure e) s = execElsFailure e s := rfl
theorem exec_farEndLossReport (s : State) (peer : Nat) (l : LossSeen) :
    exec (.farEndLossReport peer l) s = execFarEndLossReport peer l s := rfl
theorem exec_elsRelit (s : State) (e : ModuleLit) : exec (.elsRelit e) s = execElsRelit e s := rfl
theorem exec_flitReceive (s : State) (peer : Nat) (seq : BitVec 24) (crcOk : Bool) (l : FlitLine) :
    exec (.flitReceive peer seq crcOk l) s = execFlitReceive peer seq crcOk l s := rfl
theorem exec_linkAckTimer (s : State) (peer : Nat) : exec (.linkAckTimer peer) s = execLinkAckTimer peer s := rfl
theorem exec_linkAckReceive (s : State) (peer : Nat) (ack : LinkAck) :
    exec (.linkAckReceive peer ack) s = execLinkAckReceive peer ack s := rfl
theorem exec_replayTimeout (s : State) (peer : Nat) : exec (.replayTimeout peer) s = execReplayTimeout peer s := rfl
theorem exec_peerTimeout (s : State) (ctx peer : Nat) :
    exec (.peerTimeout ctx peer) s = execPeerTimeout ctx peer s := rfl
theorem exec_ethFrameReceive (s : State) (port : Nat) (frame : EthFrame) :
    exec (.ethFrameReceive port frame) s = execEthFrameReceive port frame s := rfl
theorem exec_glueClassifyAnswer (s : State) (port flow : Nat) :
    exec (.glueClassifyAnswer port flow) s = execGlueClassifyAnswer port flow s := rfl
theorem exec_glueClassifyTimeout (s : State) (port : Nat) :
    exec (.glueClassifyTimeout port) s = execGlueClassifyTimeout port s := rfl
theorem exec_pauseRenewal (s : State) (port flow : Nat) :
    exec (.pauseRenewal port flow) s = execPauseRenewal port flow s := rfl
theorem exec_glueWrite (s : State) (port : Nat) (v : Word) : exec (.glueWrite port v) s = execGlueWrite port v s := rfl
theorem exec_clkplanWrite (s : State) (v : Word) : exec (.clkplanWrite v) s = execClkplanWrite v s := rfl
theorem exec_clockGlideStep (s : State) : exec .clockGlideStep s = execClockGlideStep s := rfl
theorem exec_spurListWrite (s : State) (n : Nat) (v : Word) :
    exec (.spurListWrite n v) s = execSpurListWrite n v s := rfl
theorem exec_thermcfgWrite (s : State) (v : Word) : exec (.thermcfgWrite v) s = execThermcfgWrite v s := rfl
theorem exec_powerWindow (s : State) (watts : Nat) : exec (.powerWindow watts) s = execPowerWindow watts s := rfl
theorem exec_qosRefill (s : State) (port : Nat) : exec (.qosRefill port) s = execQosRefill port s := rfl
theorem exec_weightRefreshWindow (s : State) (phase : Nat) :
    exec (.weightRefreshWindow phase) s = execWeightRefreshWindow phase s := rfl
theorem exec_thermalWarn (s : State) (temp sensor : Nat) :
    exec (.thermalWarn temp sensor) s = execThermalWarn temp sensor s := rfl
theorem exec_thermalThrottle (s : State) (temp sensor : Nat) :
    exec (.thermalThrottle temp sensor) s = execThermalThrottle temp sensor s := rfl
theorem exec_throttleClear (s : State) : exec .throttleClear s = execThrottleClear s := rfl
theorem exec_thermalHalt (s : State) (temp sensor : Nat) :
    exec (.thermalHalt temp sensor) s = execThermalHalt temp sensor s := rfl
theorem exec_thermalHaltClear (s : State) : exec .thermalHaltClear s = execThermalHaltClear s := rfl
theorem exec_thermalCut (s : State) (temp sensor : Nat) :
    exec (.thermalCut temp sensor) s = execThermalCut temp sensor s := rfl
theorem exec_droopDetect (s : State) (block : Nat) : exec (.droopDetect block) s = execDroopDetect block s := rfl
theorem exec_droopStretchEnd (s : State) (block : Nat) :
    exec (.droopStretchEnd block) s = execDroopStretchEnd block s := rfl
theorem exec_blockIdle (s : State) (block : Nat) : exec (.blockIdle block) s = execBlockIdle block s := rfl
theorem exec_blockHoldExpiry (s : State) (block : Nat) :
    exec (.blockHoldExpiry block) s = execBlockHoldExpiry block s := rfl
theorem exec_blockWakeRequest (s : State) (block : Nat) :
    exec (.blockWakeRequest block) s = execBlockWakeRequest block s := rfl
theorem exec_blockWakeGrant (s : State) : exec .blockWakeGrant s = execBlockWakeGrant s := rfl
theorem exec_blockWakeComplete (s : State) (block : Nat) :
    exec (.blockWakeComplete block) s = execBlockWakeComplete block s := rfl
theorem exec_eccCorrection (s : State) (loc : Nat) (uncorrectable : Bool) :
    exec (.eccCorrection loc uncorrectable) s = execEccCorrection loc uncorrectable s := rfl
theorem exec_hbmRowRepair (s : State) (row : Nat) : exec (.hbmRowRepair row) s = execHbmRowRepair row s := rfl
theorem exec_l2TagParityError (s : State) (slice way : Nat) :
    exec (.l2TagParityError slice way) s = execL2TagParityError slice way s := rfl
theorem exec_powerUp (s : State) (fw : Firmware) : exec (.powerUp fw) s = execPowerUp fw s := rfl
theorem exec_frameCrossing (s : State) (region port : Nat) (beat : Beat) :
    exec (.frameCrossing region port beat) s = execFrameCrossing region port beat s := rfl
theorem exec_parcelOfferAnswer (s : State) (o : Offer) (status : Nat) :
    exec (.parcelOfferAnswer o status) s = execParcelOfferAnswer o status s := rfl
theorem exec_forcedSaveDone (s : State) (ctx : Nat) : exec (.forcedSaveDone ctx) s = execForcedSaveDone ctx s := rfl
theorem exec_vfDisable (s : State) (n : Nat) : exec (.vfDisable n) s = execVfDisable n s := rfl
theorem exec_thermWarnClear (s : State) : exec .thermWarnClear s = execThermWarnClear s := rfl
theorem exec_supplyFault (s : State) : exec .supplyFault s = execSupplyFault s := rfl

end Sys2Proof.Machine
end

