-- ==== Sys2Proof/Laws/Tables.lean ====
section
/-! SUPPORT. Tables.lean: what reading gives after a write of a sparse table, and that writes keep its canonical form. -/

namespace Sys2Proof

variable {α : Type}

@[simp] theorem Tab.find_nil (k : Nat) : Tab.find ([] : Tab α) k = none := rfl
@[simp] theorem Tab.get_nil (d : α) (k : Nat) : Tab.get d ([] : Tab α) k = d := rfl

/-- What holds of every entry and of the value that an unlisted key reads as holds of every reading. -/
theorem Tab.get_of_all {P : α → Prop} (d : α) (t : Tab α) (k : Nat) (h : ∀ kv ∈ t, P kv.2) (hd : P d) : P (t.get d k) := by
  induction t with
  | nil => exact hd
  | cons x r ih =>
    obtain ⟨k', v⟩ := x
    unfold Tab.get Tab.find
    split
    · exact h (k', v) (by simp)
    · exact ih fun kv m => h kv (by simp [m])

theorem Tab.find_put_same (t : Tab α) (k : Nat) (v : α) : (t.put k v).find k = some v := by
  induction t with
  | nil => simp [Tab.put, Tab.find]
  | cons x r ih =>
    obtain ⟨k', w⟩ := x
    unfold Tab.put
    split
    · simp [Tab.find]
    · next h =>
      split
      · simp [Tab.find]
      · simp [Tab.find, h, ih]

theorem Tab.find_put_other (t : Tab α) (k j : Nat) (v : α) (h : j ≠ k) : (t.put k v).find j = t.find j := by
  induction t with
  | nil => simp [Tab.put, Tab.find, Ne.symm h]
  | cons x r ih =>
    obtain ⟨k', w⟩ := x
    unfold Tab.put
    split
    · next e => subst e; simp [Tab.find, Ne.symm h]
    · split
      · simp [Tab.find, Ne.symm h]
      · simp [Tab.find, ih]

theorem Tab.find_del_same (t : Tab α) (k : Nat) : (t.del k).find k = none := by
  induction t with
  | nil => rfl
  | cons x r ih =>
    obtain ⟨k', w⟩ := x
    unfold Tab.del
    split
    · exact ih
    · next e => simp [Tab.find, e, ih]

theorem Tab.find_del_other (t : Tab α) (k j : Nat) (h : j ≠ k) : (t.del k).find j = t.find j := by
  induction t with
  | nil => rfl
  | cons x r ih =>
    obtain ⟨k', w⟩ := x
    unfold Tab.del
    split
    · next e => subst e; simp [Tab.find, Ne.symm h, ih]
    · simp [Tab.find, ih]

@[simp] theorem Tab.get_put_same (d : α) (t : Tab α) (k : Nat) (v : α) : (t.put k v).get d k = v := by
  simp [Tab.get, Tab.find_put_same]

@[simp] theorem Tab.get_put_other (d : α) (t : Tab α) (k j : Nat) (v : α) (h : j ≠ k) :
    (t.put k v).get d j = t.get d j := by
  simp [Tab.get, Tab.find_put_other _ _ _ _ h]

@[simp] theorem Tab.get_del_same (d : α) (t : Tab α) (k : Nat) : (t.del k).get d k = d := by
  simp [Tab.get, Tab.find_del_same]

@[simp] theorem Tab.get_del_other (d : α) (t : Tab α) (k j : Nat) (h : j ≠ k) : (t.del k).get d j = t.get d j := by
  simp [Tab.get, Tab.find_del_other _ _ _ h]

variable [DecidableEq α]

@[simp] theorem Tab.get_set_same (d : α) (t : Tab α) (k : Nat) (v : α) : (Tab.set d t k v).get d k = v := by
  unfold Tab.set
  split <;> simp [*]

@[simp] theorem Tab.get_set_other (d : α) (t : Tab α) (k j : Nat) (v : α) (h : j ≠ k) :
    (Tab.set d t k v).get d j = t.get d j := by
  unfold Tab.set
  split <;> simp [h]

/-- Lowering the bound keeps a table well-formed. -/
theorem Tab.wfFrom_mono (d : α) (t : Tab α) {lo hi : Nat} (h : lo ≤ hi) (w : Tab.wfFrom d hi t = true) :
    Tab.wfFrom d lo t = true := by
  cases t with
  | nil => rfl
  | cons x r =>
    obtain ⟨k, v⟩ := x
    simp only [Tab.wfFrom, Bool.and_eq_true, decide_eq_true_eq] at w ⊢
    exact ⟨⟨by omega, w.1.2⟩, w.2⟩

theorem Tab.wfFrom_put (d : α) (t : Tab α) (k : Nat) (v : α) (hv : v ≠ d) {lo : Nat} (hk : lo ≤ k)
    (w : Tab.wfFrom d lo t = true) : Tab.wfFrom d lo (t.put k v) = true := by
  induction t generalizing lo with
  | nil => simp [Tab.put, Tab.wfFrom, hk, hv]
  | cons x r ih =>
    obtain ⟨k', v'⟩ := x
    simp only [Tab.wfFrom, Bool.and_eq_true, decide_eq_true_eq] at w
    obtain ⟨⟨h1, h2⟩, h3⟩ := w
    unfold Tab.put
    split
    · next e => subst e; simp [Tab.wfFrom, hk, hv, h3]
    · split
      · next hlt =>
        simp only [Tab.wfFrom, Bool.and_eq_true, decide_eq_true_eq]
        exact ⟨⟨hk, hv⟩, ⟨by omega, h2⟩, h3⟩
      · simp only [Tab.wfFrom, Bool.and_eq_true, decide_eq_true_eq]
        exact ⟨⟨h1, h2⟩, ih (by omega) h3⟩

theorem Tab.wfFrom_del (d : α) (t : Tab α) (k : Nat) {lo : Nat} (w : Tab.wfFrom d lo t = true) :
    Tab.wfFrom d lo (t.del k) = true := by
  induction t generalizing lo with
  | nil => exact w
  | cons x r ih =>
    obtain ⟨k', v'⟩ := x
    simp only [Tab.wfFrom, Bool.and_eq_true, decide_eq_true_eq] at w
    unfold Tab.del
    split
    · exact Tab.wfFrom_mono d _ (by omega) (ih w.2)
    · simp only [Tab.wfFrom, Bool.and_eq_true, decide_eq_true_eq]
      exact ⟨w.1, ih w.2⟩

theorem Tab.wfFrom_filter (d : α) (t : Tab α) (f : Nat × α → Bool) {lo : Nat} (w : Tab.wfFrom d lo t = true) :
    Tab.wfFrom d lo (t.filter f) = true := by
  induction t generalizing lo with
  | nil => exact w
  | cons x r ih =>
    obtain ⟨k', v'⟩ := x
    simp only [Tab.wfFrom, Bool.and_eq_true, decide_eq_true_eq] at w
    cases hf : f (k', v') with
    | true =>
      simp only [List.filter_cons_of_pos hf, Tab.wfFrom, Bool.and_eq_true, decide_eq_true_eq]
      exact ⟨w.1, ih w.2⟩
    | false =>
      rw [List.filter_cons_of_neg (by simp [hf])]
      exact Tab.wfFrom_mono d _ (by omega) (ih w.2)

/-- A write keeps the canonical form. -/
theorem Tab.wf_set (d : α) (t : Tab α) (k : Nat) (v : α) (w : Tab.wf d t = true) : Tab.wf d (Tab.set d t k v) = true := by
  unfold Tab.set
  split
  · exact Tab.wfFrom_del d t k w
  · next h => exact Tab.wfFrom_put d t k v h (Nat.zero_le k) w

/-- Entries that go keep it as well. -/
theorem Tab.wf_filter (d : α) (t : Tab α) (f : Nat × α → Bool) (w : Tab.wf d t = true) : Tab.wf d (t.filter f) = true :=
  Tab.wfFrom_filter d t f w

end Sys2Proof
end

