-- ==== Sys2Proof/Laws/State.lean ====
section
/-! SUPPORT. State.lean: each update of a part of the state leaves every other part as it is, and gives its own part its new
value; reading a part after the update of a part. -/

namespace Sys2Proof.Machine

@[simp] theorem State.setTile_tile (s : State) (k : Nat) (x : Tile) : (s.setTile k x).tile = s.tile := rfl
@[simp] theorem State.setTile_task (s : State) (k : Nat) (x : Tile) : (s.setTile k x).task = s.task := rfl
@[simp] theorem State.setTile_agenda (s : State) (k : Nat) (x : Tile) : (s.setTile k x).agenda = s.agenda := rfl
@[simp] theorem State.setTile_grade (s : State) (k : Nat) (x : Tile) : (s.setTile k x).grade = s.grade := rfl
@[simp] theorem State.setTile_fused (s : State) (k : Nat) (x : Tile) : (s.setTile k x).fused = s.fused := rfl
@[simp] theorem State.setTile_pkg (s : State) (k : Nat) (x : Tile) : (s.setTile k x).pkg = s.pkg := rfl
@[simp] theorem State.setTile_clock (s : State) (k : Nat) (x : Tile) : (s.setTile k x).clock = s.clock := rfl
@[simp] theorem State.setTile_ns (s : State) (k : Nat) (x : Tile) : (s.setTile k x).ns = s.ns := rfl
@[simp] theorem State.setTile_phase (s : State) (k : Nat) (x : Tile) : (s.setTile k x).phase = s.phase := rfl
@[simp] theorem State.setTile_serial (s : State) (k : Nat) (x : Tile) : (s.setTile k x).serial = s.serial := rfl
@[simp] theorem State.setTile_pool (s : State) (k : Nat) (x : Tile) : (s.setTile k x).pool = s.pool := rfl
@[simp] theorem State.setTile_mem (s : State) (k : Nat) (x : Tile) : (s.setTile k x).mem = s.mem := rfl
@[simp] theorem State.setTile_poison (s : State) (k : Nat) (x : Tile) : (s.setTile k x).poison = s.poison := rfl
@[simp] theorem State.setTile_tiles (s : State) (k : Nat) (x : Tile) : (s.setTile k x).tiles = s.tiles.put k x := rfl
@[simp] theorem State.setTile_blocks (s : State) (k : Nat) (x : Tile) : (s.setTile k x).blocks = s.blocks := rfl
@[simp] theorem State.setTile_regions (s : State) (k : Nat) (x : Tile) : (s.setTile k x).regions = s.regions := rfl
@[simp] theorem State.setTile_parts (s : State) (k : Nat) (x : Tile) : (s.setTile k x).parts = s.parts := rfl
@[simp] theorem State.setTile_ctxs (s : State) (k : Nat) (x : Tile) : (s.setTile k x).ctxs = s.ctxs := rfl
@[simp] theorem State.setTile_pkts (s : State) (k : Nat) (x : Tile) : (s.setTile k x).pkts = s.pkts := rfl
@[simp] theorem State.setTile_watch (s : State) (k : Nat) (x : Tile) : (s.setTile k x).watch = s.watch := rfl
@[simp] theorem State.setTile_hops (s : State) (k : Nat) (x : Tile) : (s.setTile k x).hops = s.hops := rfl
@[simp] theorem State.setTile_outs (s : State) (k : Nat) (x : Tile) : (s.setTile k x).outs = s.outs := rfl
@[simp] theorem State.setTile_transits (s : State) (k : Nat) (x : Tile) : (s.setTile k x).transits = s.transits := rfl
@[simp] theorem State.setTile_sent (s : State) (k : Nat) (x : Tile) : (s.setTile k x).sent = s.sent := rfl
@[simp] theorem State.setTile_power (s : State) (k : Nat) (x : Tile) : (s.setTile k x).power = s.power := rfl
@[simp] theorem State.setTile_pod (s : State) (k : Nat) (x : Tile) : (s.setTile k x).pod = s.pod := rfl
@[simp] theorem State.setTile_eth (s : State) (k : Nat) (x : Tile) : (s.setTile k x).eth = s.eth := rfl
@[simp] theorem State.setTile_mgmt (s : State) (k : Nat) (x : Tile) : (s.setTile k x).mgmt = s.mgmt := rfl

@[simp] theorem State.updTile_tile (s : State) (k : Nat) (f : Tile → Tile) : (s.updTile k f).tile = s.tile := rfl
@[simp] theorem State.updTile_task (s : State) (k : Nat) (f : Tile → Tile) : (s.updTile k f).task = s.task := rfl
@[simp] theorem State.updTile_agenda (s : State) (k : Nat) (f : Tile → Tile) : (s.updTile k f).agenda = s.agenda := rfl
@[simp] theorem State.updTile_grade (s : State) (k : Nat) (f : Tile → Tile) : (s.updTile k f).grade = s.grade := rfl
@[simp] theorem State.updTile_fused (s : State) (k : Nat) (f : Tile → Tile) : (s.updTile k f).fused = s.fused := rfl
@[simp] theorem State.updTile_pkg (s : State) (k : Nat) (f : Tile → Tile) : (s.updTile k f).pkg = s.pkg := rfl
@[simp] theorem State.updTile_clock (s : State) (k : Nat) (f : Tile → Tile) : (s.updTile k f).clock = s.clock := rfl
@[simp] theorem State.updTile_ns (s : State) (k : Nat) (f : Tile → Tile) : (s.updTile k f).ns = s.ns := rfl
@[simp] theorem State.updTile_phase (s : State) (k : Nat) (f : Tile → Tile) : (s.updTile k f).phase = s.phase := rfl
@[simp] theorem State.updTile_serial (s : State) (k : Nat) (f : Tile → Tile) : (s.updTile k f).serial = s.serial := rfl
@[simp] theorem State.updTile_pool (s : State) (k : Nat) (f : Tile → Tile) : (s.updTile k f).pool = s.pool := rfl
@[simp] theorem State.updTile_mem (s : State) (k : Nat) (f : Tile → Tile) : (s.updTile k f).mem = s.mem := rfl
@[simp] theorem State.updTile_poison (s : State) (k : Nat) (f : Tile → Tile) : (s.updTile k f).poison = s.poison := rfl
@[simp] theorem State.updTile_tiles (s : State) (k : Nat) (f : Tile → Tile) : (s.updTile k f).tiles = s.tiles.put k (f (s.tileAt k)) := rfl
@[simp] theorem State.updTile_blocks (s : State) (k : Nat) (f : Tile → Tile) : (s.updTile k f).blocks = s.blocks := rfl
@[simp] theorem State.updTile_regions (s : State) (k : Nat) (f : Tile → Tile) : (s.updTile k f).regions = s.regions := rfl
@[simp] theorem State.updTile_parts (s : State) (k : Nat) (f : Tile → Tile) : (s.updTile k f).parts = s.parts := rfl
@[simp] theorem State.updTile_ctxs (s : State) (k : Nat) (f : Tile → Tile) : (s.updTile k f).ctxs = s.ctxs := rfl
@[simp] theorem State.updTile_pkts (s : State) (k : Nat) (f : Tile → Tile) : (s.updTile k f).pkts = s.pkts := rfl
@[simp] theorem State.updTile_watch (s : State) (k : Nat) (f : Tile → Tile) : (s.updTile k f).watch = s.watch := rfl
@[simp] theorem State.updTile_hops (s : State) (k : Nat) (f : Tile → Tile) : (s.updTile k f).hops = s.hops := rfl
@[simp] theorem State.updTile_outs (s : State) (k : Nat) (f : Tile → Tile) : (s.updTile k f).outs = s.outs := rfl
@[simp] theorem State.updTile_transits (s : State) (k : Nat) (f : Tile → Tile) : (s.updTile k f).transits = s.transits := rfl
@[simp] theorem State.updTile_sent (s : State) (k : Nat) (f : Tile → Tile) : (s.updTile k f).sent = s.sent := rfl
@[simp] theorem State.updTile_power (s : State) (k : Nat) (f : Tile → Tile) : (s.updTile k f).power = s.power := rfl
@[simp] theorem State.updTile_pod (s : State) (k : Nat) (f : Tile → Tile) : (s.updTile k f).pod = s.pod := rfl
@[simp] theorem State.updTile_eth (s : State) (k : Nat) (f : Tile → Tile) : (s.updTile k f).eth = s.eth := rfl
@[simp] theorem State.updTile_mgmt (s : State) (k : Nat) (f : Tile → Tile) : (s.updTile k f).mgmt = s.mgmt := rfl

@[simp] theorem State.setMe_tile (s : State) (x : Task) : (s.setMe x).tile = s.tile := rfl
@[simp] theorem State.setMe_task (s : State) (x : Task) : (s.setMe x).task = s.task := rfl
@[simp] theorem State.setMe_agenda (s : State) (x : Task) : (s.setMe x).agenda = s.agenda := rfl
@[simp] theorem State.setMe_grade (s : State) (x : Task) : (s.setMe x).grade = s.grade := rfl
@[simp] theorem State.setMe_fused (s : State) (x : Task) : (s.setMe x).fused = s.fused := rfl
@[simp] theorem State.setMe_pkg (s : State) (x : Task) : (s.setMe x).pkg = s.pkg := rfl
@[simp] theorem State.setMe_clock (s : State) (x : Task) : (s.setMe x).clock = s.clock := rfl
@[simp] theorem State.setMe_ns (s : State) (x : Task) : (s.setMe x).ns = s.ns := rfl
@[simp] theorem State.setMe_phase (s : State) (x : Task) : (s.setMe x).phase = s.phase := rfl
@[simp] theorem State.setMe_serial (s : State) (x : Task) : (s.setMe x).serial = s.serial := rfl
@[simp] theorem State.setMe_pool (s : State) (x : Task) : (s.setMe x).pool = s.pool := rfl
@[simp] theorem State.setMe_mem (s : State) (x : Task) : (s.setMe x).mem = s.mem := rfl
@[simp] theorem State.setMe_poison (s : State) (x : Task) : (s.setMe x).poison = s.poison := rfl
@[simp] theorem State.setMe_blocks (s : State) (x : Task) : (s.setMe x).blocks = s.blocks := rfl
@[simp] theorem State.setMe_regions (s : State) (x : Task) : (s.setMe x).regions = s.regions := rfl
@[simp] theorem State.setMe_parts (s : State) (x : Task) : (s.setMe x).parts = s.parts := rfl
@[simp] theorem State.setMe_ctxs (s : State) (x : Task) : (s.setMe x).ctxs = s.ctxs := rfl
@[simp] theorem State.setMe_pkts (s : State) (x : Task) : (s.setMe x).pkts = s.pkts := rfl
@[simp] theorem State.setMe_watch (s : State) (x : Task) : (s.setMe x).watch = s.watch := rfl
@[simp] theorem State.setMe_hops (s : State) (x : Task) : (s.setMe x).hops = s.hops := rfl
@[simp] theorem State.setMe_outs (s : State) (x : Task) : (s.setMe x).outs = s.outs := rfl
@[simp] theorem State.setMe_transits (s : State) (x : Task) : (s.setMe x).transits = s.transits := rfl
@[simp] theorem State.setMe_sent (s : State) (x : Task) : (s.setMe x).sent = s.sent := rfl
@[simp] theorem State.setMe_power (s : State) (x : Task) : (s.setMe x).power = s.power := rfl
@[simp] theorem State.setMe_pod (s : State) (x : Task) : (s.setMe x).pod = s.pod := rfl
@[simp] theorem State.setMe_eth (s : State) (x : Task) : (s.setMe x).eth = s.eth := rfl
@[simp] theorem State.setMe_mgmt (s : State) (x : Task) : (s.setMe x).mgmt = s.mgmt := rfl

@[simp] theorem State.updMe_tile (s : State) (f : Task → Task) : (s.updMe f).tile = s.tile := rfl
@[simp] theorem State.updMe_task (s : State) (f : Task → Task) : (s.updMe f).task = s.task := rfl
@[simp] theorem State.updMe_agenda (s : State) (f : Task → Task) : (s.updMe f).agenda = s.agenda := rfl
@[simp] theorem State.updMe_grade (s : State) (f : Task → Task) : (s.updMe f).grade = s.grade := rfl
@[simp] theorem State.updMe_fused (s : State) (f : Task → Task) : (s.updMe f).fused = s.fused := rfl
@[simp] theorem State.updMe_pkg (s : State) (f : Task → Task) : (s.updMe f).pkg = s.pkg := rfl
@[simp] theorem State.updMe_clock (s : State) (f : Task → Task) : (s.updMe f).clock = s.clock := rfl
@[simp] theorem State.updMe_ns (s : State) (f : Task → Task) : (s.updMe f).ns = s.ns := rfl
@[simp] theorem State.updMe_phase (s : State) (f : Task → Task) : (s.updMe f).phase = s.phase := rfl
@[simp] theorem State.updMe_serial (s : State) (f : Task → Task) : (s.updMe f).serial = s.serial := rfl
@[simp] theorem State.updMe_pool (s : State) (f : Task → Task) : (s.updMe f).pool = s.pool := rfl
@[simp] theorem State.updMe_mem (s : State) (f : Task → Task) : (s.updMe f).mem = s.mem := rfl
@[simp] theorem State.updMe_poison (s : State) (f : Task → Task) : (s.updMe f).poison = s.poison := rfl
@[simp] theorem State.updMe_blocks (s : State) (f : Task → Task) : (s.updMe f).blocks = s.blocks := rfl
@[simp] theorem State.updMe_regions (s : State) (f : Task → Task) : (s.updMe f).regions = s.regions := rfl
@[simp] theorem State.updMe_parts (s : State) (f : Task → Task) : (s.updMe f).parts = s.parts := rfl
@[simp] theorem State.updMe_ctxs (s : State) (f : Task → Task) : (s.updMe f).ctxs = s.ctxs := rfl
@[simp] theorem State.updMe_pkts (s : State) (f : Task → Task) : (s.updMe f).pkts = s.pkts := rfl
@[simp] theorem State.updMe_watch (s : State) (f : Task → Task) : (s.updMe f).watch = s.watch := rfl
@[simp] theorem State.updMe_hops (s : State) (f : Task → Task) : (s.updMe f).hops = s.hops := rfl
@[simp] theorem State.updMe_outs (s : State) (f : Task → Task) : (s.updMe f).outs = s.outs := rfl
@[simp] theorem State.updMe_transits (s : State) (f : Task → Task) : (s.updMe f).transits = s.transits := rfl
@[simp] theorem State.updMe_sent (s : State) (f : Task → Task) : (s.updMe f).sent = s.sent := rfl
@[simp] theorem State.updMe_power (s : State) (f : Task → Task) : (s.updMe f).power = s.power := rfl
@[simp] theorem State.updMe_pod (s : State) (f : Task → Task) : (s.updMe f).pod = s.pod := rfl
@[simp] theorem State.updMe_eth (s : State) (f : Task → Task) : (s.updMe f).eth = s.eth := rfl
@[simp] theorem State.updMe_mgmt (s : State) (f : Task → Task) : (s.updMe f).mgmt = s.mgmt := rfl

@[simp] theorem State.setS_tile (s : State) (n : BitVec 5) (v : Word) : (s.setS n v).tile = s.tile := rfl
@[simp] theorem State.setS_task (s : State) (n : BitVec 5) (v : Word) : (s.setS n v).task = s.task := rfl
@[simp] theorem State.setS_agenda (s : State) (n : BitVec 5) (v : Word) : (s.setS n v).agenda = s.agenda := rfl
@[simp] theorem State.setS_grade (s : State) (n : BitVec 5) (v : Word) : (s.setS n v).grade = s.grade := rfl
@[simp] theorem State.setS_fused (s : State) (n : BitVec 5) (v : Word) : (s.setS n v).fused = s.fused := rfl
@[simp] theorem State.setS_pkg (s : State) (n : BitVec 5) (v : Word) : (s.setS n v).pkg = s.pkg := rfl
@[simp] theorem State.setS_clock (s : State) (n : BitVec 5) (v : Word) : (s.setS n v).clock = s.clock := rfl
@[simp] theorem State.setS_ns (s : State) (n : BitVec 5) (v : Word) : (s.setS n v).ns = s.ns := rfl
@[simp] theorem State.setS_phase (s : State) (n : BitVec 5) (v : Word) : (s.setS n v).phase = s.phase := rfl
@[simp] theorem State.setS_serial (s : State) (n : BitVec 5) (v : Word) : (s.setS n v).serial = s.serial := rfl
@[simp] theorem State.setS_pool (s : State) (n : BitVec 5) (v : Word) : (s.setS n v).pool = s.pool := rfl
@[simp] theorem State.setS_mem (s : State) (n : BitVec 5) (v : Word) : (s.setS n v).mem = s.mem := rfl
@[simp] theorem State.setS_poison (s : State) (n : BitVec 5) (v : Word) : (s.setS n v).poison = s.poison := rfl
@[simp] theorem State.setS_blocks (s : State) (n : BitVec 5) (v : Word) : (s.setS n v).blocks = s.blocks := rfl
@[simp] theorem State.setS_regions (s : State) (n : BitVec 5) (v : Word) : (s.setS n v).regions = s.regions := rfl
@[simp] theorem State.setS_parts (s : State) (n : BitVec 5) (v : Word) : (s.setS n v).parts = s.parts := rfl
@[simp] theorem State.setS_ctxs (s : State) (n : BitVec 5) (v : Word) : (s.setS n v).ctxs = s.ctxs := rfl
@[simp] theorem State.setS_pkts (s : State) (n : BitVec 5) (v : Word) : (s.setS n v).pkts = s.pkts := rfl
@[simp] theorem State.setS_watch (s : State) (n : BitVec 5) (v : Word) : (s.setS n v).watch = s.watch := rfl
@[simp] theorem State.setS_hops (s : State) (n : BitVec 5) (v : Word) : (s.setS n v).hops = s.hops := rfl
@[simp] theorem State.setS_outs (s : State) (n : BitVec 5) (v : Word) : (s.setS n v).outs = s.outs := rfl
@[simp] theorem State.setS_transits (s : State) (n : BitVec 5) (v : Word) : (s.setS n v).transits = s.transits := rfl
@[simp] theorem State.setS_sent (s : State) (n : BitVec 5) (v : Word) : (s.setS n v).sent = s.sent := rfl
@[simp] theorem State.setS_power (s : State) (n : BitVec 5) (v : Word) : (s.setS n v).power = s.power := rfl
@[simp] theorem State.setS_pod (s : State) (n : BitVec 5) (v : Word) : (s.setS n v).pod = s.pod := rfl
@[simp] theorem State.setS_eth (s : State) (n : BitVec 5) (v : Word) : (s.setS n v).eth = s.eth := rfl
@[simp] theorem State.setS_mgmt (s : State) (n : BitVec 5) (v : Word) : (s.setS n v).mgmt = s.mgmt := rfl

@[simp] theorem State.setP_tile (s : State) (n : BitVec 3) (v : Bool) : (s.setP n v).tile = s.tile := rfl
@[simp] theorem State.setP_task (s : State) (n : BitVec 3) (v : Bool) : (s.setP n v).task = s.task := rfl
@[simp] theorem State.setP_agenda (s : State) (n : BitVec 3) (v : Bool) : (s.setP n v).agenda = s.agenda := rfl
@[simp] theorem State.setP_grade (s : State) (n : BitVec 3) (v : Bool) : (s.setP n v).grade = s.grade := rfl
@[simp] theorem State.setP_fused (s : State) (n : BitVec 3) (v : Bool) : (s.setP n v).fused = s.fused := rfl
@[simp] theorem State.setP_pkg (s : State) (n : BitVec 3) (v : Bool) : (s.setP n v).pkg = s.pkg := rfl
@[simp] theorem State.setP_clock (s : State) (n : BitVec 3) (v : Bool) : (s.setP n v).clock = s.clock := rfl
@[simp] theorem State.setP_ns (s : State) (n : BitVec 3) (v : Bool) : (s.setP n v).ns = s.ns := rfl
@[simp] theorem State.setP_phase (s : State) (n : BitVec 3) (v : Bool) : (s.setP n v).phase = s.phase := rfl
@[simp] theorem State.setP_serial (s : State) (n : BitVec 3) (v : Bool) : (s.setP n v).serial = s.serial := rfl
@[simp] theorem State.setP_pool (s : State) (n : BitVec 3) (v : Bool) : (s.setP n v).pool = s.pool := rfl
@[simp] theorem State.setP_mem (s : State) (n : BitVec 3) (v : Bool) : (s.setP n v).mem = s.mem := rfl
@[simp] theorem State.setP_poison (s : State) (n : BitVec 3) (v : Bool) : (s.setP n v).poison = s.poison := rfl
@[simp] theorem State.setP_blocks (s : State) (n : BitVec 3) (v : Bool) : (s.setP n v).blocks = s.blocks := rfl
@[simp] theorem State.setP_regions (s : State) (n : BitVec 3) (v : Bool) : (s.setP n v).regions = s.regions := rfl
@[simp] theorem State.setP_parts (s : State) (n : BitVec 3) (v : Bool) : (s.setP n v).parts = s.parts := rfl
@[simp] theorem State.setP_ctxs (s : State) (n : BitVec 3) (v : Bool) : (s.setP n v).ctxs = s.ctxs := rfl
@[simp] theorem State.setP_pkts (s : State) (n : BitVec 3) (v : Bool) : (s.setP n v).pkts = s.pkts := rfl
@[simp] theorem State.setP_watch (s : State) (n : BitVec 3) (v : Bool) : (s.setP n v).watch = s.watch := rfl
@[simp] theorem State.setP_hops (s : State) (n : BitVec 3) (v : Bool) : (s.setP n v).hops = s.hops := rfl
@[simp] theorem State.setP_outs (s : State) (n : BitVec 3) (v : Bool) : (s.setP n v).outs = s.outs := rfl
@[simp] theorem State.setP_transits (s : State) (n : BitVec 3) (v : Bool) : (s.setP n v).transits = s.transits := rfl
@[simp] theorem State.setP_sent (s : State) (n : BitVec 3) (v : Bool) : (s.setP n v).sent = s.sent := rfl
@[simp] theorem State.setP_power (s : State) (n : BitVec 3) (v : Bool) : (s.setP n v).power = s.power := rfl
@[simp] theorem State.setP_pod (s : State) (n : BitVec 3) (v : Bool) : (s.setP n v).pod = s.pod := rfl
@[simp] theorem State.setP_eth (s : State) (n : BitVec 3) (v : Bool) : (s.setP n v).eth = s.eth := rfl
@[simp] theorem State.setP_mgmt (s : State) (n : BitVec 3) (v : Bool) : (s.setP n v).mgmt = s.mgmt := rfl

@[simp] theorem State.noted_tile (s : State) : (s.noted).tile = s.tile := rfl
@[simp] theorem State.noted_task (s : State) : (s.noted).task = s.task := rfl
@[simp] theorem State.noted_agenda (s : State) : (s.noted).agenda = s.agenda := rfl
@[simp] theorem State.noted_grade (s : State) : (s.noted).grade = s.grade := rfl
@[simp] theorem State.noted_fused (s : State) : (s.noted).fused = s.fused := rfl
@[simp] theorem State.noted_pkg (s : State) : (s.noted).pkg = s.pkg := rfl
@[simp] theorem State.noted_clock (s : State) : (s.noted).clock = s.clock := rfl
@[simp] theorem State.noted_ns (s : State) : (s.noted).ns = s.ns := rfl
@[simp] theorem State.noted_phase (s : State) : (s.noted).phase = s.phase := rfl
@[simp] theorem State.noted_serial (s : State) : (s.noted).serial = s.serial := rfl
@[simp] theorem State.noted_pool (s : State) : (s.noted).pool = s.pool := rfl
@[simp] theorem State.noted_mem (s : State) : (s.noted).mem = s.mem := rfl
@[simp] theorem State.noted_poison (s : State) : (s.noted).poison = s.poison := rfl
@[simp] theorem State.noted_blocks (s : State) : (s.noted).blocks = s.blocks := rfl
@[simp] theorem State.noted_regions (s : State) : (s.noted).regions = s.regions := rfl
@[simp] theorem State.noted_parts (s : State) : (s.noted).parts = s.parts := rfl
@[simp] theorem State.noted_ctxs (s : State) : (s.noted).ctxs = s.ctxs := rfl
@[simp] theorem State.noted_pkts (s : State) : (s.noted).pkts = s.pkts := rfl
@[simp] theorem State.noted_watch (s : State) : (s.noted).watch = s.watch := rfl
@[simp] theorem State.noted_hops (s : State) : (s.noted).hops = s.hops := rfl
@[simp] theorem State.noted_outs (s : State) : (s.noted).outs = s.outs := rfl
@[simp] theorem State.noted_transits (s : State) : (s.noted).transits = s.transits := rfl
@[simp] theorem State.noted_sent (s : State) : (s.noted).sent = s.sent := rfl
@[simp] theorem State.noted_power (s : State) : (s.noted).power = s.power := rfl
@[simp] theorem State.noted_pod (s : State) : (s.noted).pod = s.pod := rfl
@[simp] theorem State.noted_eth (s : State) : (s.noted).eth = s.eth := rfl
@[simp] theorem State.noted_mgmt (s : State) : (s.noted).mgmt = s.mgmt := rfl

@[simp] theorem State.issued_tile (s : State) (n : Nat) : (s.issued n).tile = s.tile := rfl
@[simp] theorem State.issued_task (s : State) (n : Nat) : (s.issued n).task = s.task := rfl
@[simp] theorem State.issued_agenda (s : State) (n : Nat) : (s.issued n).agenda = s.agenda := rfl
@[simp] theorem State.issued_grade (s : State) (n : Nat) : (s.issued n).grade = s.grade := rfl
@[simp] theorem State.issued_fused (s : State) (n : Nat) : (s.issued n).fused = s.fused := rfl
@[simp] theorem State.issued_pkg (s : State) (n : Nat) : (s.issued n).pkg = s.pkg := rfl
@[simp] theorem State.issued_clock (s : State) (n : Nat) : (s.issued n).clock = s.clock := rfl
@[simp] theorem State.issued_ns (s : State) (n : Nat) : (s.issued n).ns = s.ns := rfl
@[simp] theorem State.issued_phase (s : State) (n : Nat) : (s.issued n).phase = s.phase := rfl
@[simp] theorem State.issued_serial (s : State) (n : Nat) : (s.issued n).serial = s.serial := rfl
@[simp] theorem State.issued_pool (s : State) (n : Nat) : (s.issued n).pool = s.pool := rfl
@[simp] theorem State.issued_mem (s : State) (n : Nat) : (s.issued n).mem = s.mem := rfl
@[simp] theorem State.issued_poison (s : State) (n : Nat) : (s.issued n).poison = s.poison := rfl
@[simp] theorem State.issued_blocks (s : State) (n : Nat) : (s.issued n).blocks = s.blocks := rfl
@[simp] theorem State.issued_regions (s : State) (n : Nat) : (s.issued n).regions = s.regions := rfl
@[simp] theorem State.issued_parts (s : State) (n : Nat) : (s.issued n).parts = s.parts := rfl
@[simp] theorem State.issued_ctxs (s : State) (n : Nat) : (s.issued n).ctxs = s.ctxs := rfl
@[simp] theorem State.issued_pkts (s : State) (n : Nat) : (s.issued n).pkts = s.pkts := rfl
@[simp] theorem State.issued_watch (s : State) (n : Nat) : (s.issued n).watch = s.watch := rfl
@[simp] theorem State.issued_hops (s : State) (n : Nat) : (s.issued n).hops = s.hops := rfl
@[simp] theorem State.issued_outs (s : State) (n : Nat) : (s.issued n).outs = s.outs := rfl
@[simp] theorem State.issued_transits (s : State) (n : Nat) : (s.issued n).transits = s.transits := rfl
@[simp] theorem State.issued_sent (s : State) (n : Nat) : (s.issued n).sent = s.sent := rfl
@[simp] theorem State.issued_power (s : State) (n : Nat) : (s.issued n).power = s.power := rfl
@[simp] theorem State.issued_pod (s : State) (n : Nat) : (s.issued n).pod = s.pod := rfl
@[simp] theorem State.issued_eth (s : State) (n : Nat) : (s.issued n).eth = s.eth := rfl
@[simp] theorem State.issued_mgmt (s : State) (n : Nat) : (s.issued n).mgmt = s.mgmt := rfl

@[simp] theorem State.updCtx_tile (s : State) (c : Nat) (f : Ctx → Ctx) : (s.updCtx c f).tile = s.tile := rfl
@[simp] theorem State.updCtx_task (s : State) (c : Nat) (f : Ctx → Ctx) : (s.updCtx c f).task = s.task := rfl
@[simp] theorem State.updCtx_agenda (s : State) (c : Nat) (f : Ctx → Ctx) : (s.updCtx c f).agenda = s.agenda := rfl
@[simp] theorem State.updCtx_grade (s : State) (c : Nat) (f : Ctx → Ctx) : (s.updCtx c f).grade = s.grade := rfl
@[simp] theorem State.updCtx_fused (s : State) (c : Nat) (f : Ctx → Ctx) : (s.updCtx c f).fused = s.fused := rfl
@[simp] theorem State.updCtx_pkg (s : State) (c : Nat) (f : Ctx → Ctx) : (s.updCtx c f).pkg = s.pkg := rfl
@[simp] theorem State.updCtx_clock (s : State) (c : Nat) (f : Ctx → Ctx) : (s.updCtx c f).clock = s.clock := rfl
@[simp] theorem State.updCtx_ns (s : State) (c : Nat) (f : Ctx → Ctx) : (s.updCtx c f).ns = s.ns := rfl
@[simp] theorem State.updCtx_phase (s : State) (c : Nat) (f : Ctx → Ctx) : (s.updCtx c f).phase = s.phase := rfl
@[simp] theorem State.updCtx_serial (s : State) (c : Nat) (f : Ctx → Ctx) : (s.updCtx c f).serial = s.serial := rfl
@[simp] theorem State.updCtx_pool (s : State) (c : Nat) (f : Ctx → Ctx) : (s.updCtx c f).pool = s.pool := rfl
@[simp] theorem State.updCtx_mem (s : State) (c : Nat) (f : Ctx → Ctx) : (s.updCtx c f).mem = s.mem := rfl
@[simp] theorem State.updCtx_poison (s : State) (c : Nat) (f : Ctx → Ctx) : (s.updCtx c f).poison = s.poison := rfl
@[simp] theorem State.updCtx_tiles (s : State) (c : Nat) (f : Ctx → Ctx) : (s.updCtx c f).tiles = s.tiles := rfl
@[simp] theorem State.updCtx_blocks (s : State) (c : Nat) (f : Ctx → Ctx) : (s.updCtx c f).blocks = s.blocks := rfl
@[simp] theorem State.updCtx_regions (s : State) (c : Nat) (f : Ctx → Ctx) : (s.updCtx c f).regions = s.regions := rfl
@[simp] theorem State.updCtx_parts (s : State) (c : Nat) (f : Ctx → Ctx) : (s.updCtx c f).parts = s.parts := rfl
@[simp] theorem State.updCtx_ctxs (s : State) (c : Nat) (f : Ctx → Ctx) : (s.updCtx c f).ctxs = s.ctxs.put c (f (s.ctxAt c)) := rfl
@[simp] theorem State.updCtx_pkts (s : State) (c : Nat) (f : Ctx → Ctx) : (s.updCtx c f).pkts = s.pkts := rfl
@[simp] theorem State.updCtx_watch (s : State) (c : Nat) (f : Ctx → Ctx) : (s.updCtx c f).watch = s.watch := rfl
@[simp] theorem State.updCtx_hops (s : State) (c : Nat) (f : Ctx → Ctx) : (s.updCtx c f).hops = s.hops := rfl
@[simp] theorem State.updCtx_outs (s : State) (c : Nat) (f : Ctx → Ctx) : (s.updCtx c f).outs = s.outs := rfl
@[simp] theorem State.updCtx_transits (s : State) (c : Nat) (f : Ctx → Ctx) : (s.updCtx c f).transits = s.transits := rfl
@[simp] theorem State.updCtx_sent (s : State) (c : Nat) (f : Ctx → Ctx) : (s.updCtx c f).sent = s.sent := rfl
@[simp] theorem State.updCtx_power (s : State) (c : Nat) (f : Ctx → Ctx) : (s.updCtx c f).power = s.power := rfl
@[simp] theorem State.updCtx_pod (s : State) (c : Nat) (f : Ctx → Ctx) : (s.updCtx c f).pod = s.pod := rfl
@[simp] theorem State.updCtx_eth (s : State) (c : Nat) (f : Ctx → Ctx) : (s.updCtx c f).eth = s.eth := rfl
@[simp] theorem State.updCtx_mgmt (s : State) (c : Nat) (f : Ctx → Ctx) : (s.updCtx c f).mgmt = s.mgmt := rfl

@[simp] theorem State.updPart_tile (s : State) (p : Nat) (f : Part → Part) : (s.updPart p f).tile = s.tile := rfl
@[simp] theorem State.updPart_task (s : State) (p : Nat) (f : Part → Part) : (s.updPart p f).task = s.task := rfl
@[simp] theorem State.updPart_agenda (s : State) (p : Nat) (f : Part → Part) : (s.updPart p f).agenda = s.agenda := rfl
@[simp] theorem State.updPart_grade (s : State) (p : Nat) (f : Part → Part) : (s.updPart p f).grade = s.grade := rfl
@[simp] theorem State.updPart_fused (s : State) (p : Nat) (f : Part → Part) : (s.updPart p f).fused = s.fused := rfl
@[simp] theorem State.updPart_pkg (s : State) (p : Nat) (f : Part → Part) : (s.updPart p f).pkg = s.pkg := rfl
@[simp] theorem State.updPart_clock (s : State) (p : Nat) (f : Part → Part) : (s.updPart p f).clock = s.clock := rfl
@[simp] theorem State.updPart_ns (s : State) (p : Nat) (f : Part → Part) : (s.updPart p f).ns = s.ns := rfl
@[simp] theorem State.updPart_phase (s : State) (p : Nat) (f : Part → Part) : (s.updPart p f).phase = s.phase := rfl
@[simp] theorem State.updPart_serial (s : State) (p : Nat) (f : Part → Part) : (s.updPart p f).serial = s.serial := rfl
@[simp] theorem State.updPart_pool (s : State) (p : Nat) (f : Part → Part) : (s.updPart p f).pool = s.pool := rfl
@[simp] theorem State.updPart_mem (s : State) (p : Nat) (f : Part → Part) : (s.updPart p f).mem = s.mem := rfl
@[simp] theorem State.updPart_poison (s : State) (p : Nat) (f : Part → Part) : (s.updPart p f).poison = s.poison := rfl
@[simp] theorem State.updPart_tiles (s : State) (p : Nat) (f : Part → Part) : (s.updPart p f).tiles = s.tiles := rfl
@[simp] theorem State.updPart_blocks (s : State) (p : Nat) (f : Part → Part) : (s.updPart p f).blocks = s.blocks := rfl
@[simp] theorem State.updPart_regions (s : State) (p : Nat) (f : Part → Part) : (s.updPart p f).regions = s.regions := rfl
@[simp] theorem State.updPart_parts (s : State) (p : Nat) (f : Part → Part) : (s.updPart p f).parts = s.parts.put p (f (s.partAt p)) := rfl
@[simp] theorem State.updPart_ctxs (s : State) (p : Nat) (f : Part → Part) : (s.updPart p f).ctxs = s.ctxs := rfl
@[simp] theorem State.updPart_pkts (s : State) (p : Nat) (f : Part → Part) : (s.updPart p f).pkts = s.pkts := rfl
@[simp] theorem State.updPart_watch (s : State) (p : Nat) (f : Part → Part) : (s.updPart p f).watch = s.watch := rfl
@[simp] theorem State.updPart_hops (s : State) (p : Nat) (f : Part → Part) : (s.updPart p f).hops = s.hops := rfl
@[simp] theorem State.updPart_outs (s : State) (p : Nat) (f : Part → Part) : (s.updPart p f).outs = s.outs := rfl
@[simp] theorem State.updPart_transits (s : State) (p : Nat) (f : Part → Part) : (s.updPart p f).transits = s.transits := rfl
@[simp] theorem State.updPart_sent (s : State) (p : Nat) (f : Part → Part) : (s.updPart p f).sent = s.sent := rfl
@[simp] theorem State.updPart_power (s : State) (p : Nat) (f : Part → Part) : (s.updPart p f).power = s.power := rfl
@[simp] theorem State.updPart_pod (s : State) (p : Nat) (f : Part → Part) : (s.updPart p f).pod = s.pod := rfl
@[simp] theorem State.updPart_eth (s : State) (p : Nat) (f : Part → Part) : (s.updPart p f).eth = s.eth := rfl
@[simp] theorem State.updPart_mgmt (s : State) (p : Nat) (f : Part → Part) : (s.updPart p f).mgmt = s.mgmt := rfl

@[simp] theorem State.updRegion_tile (s : State) (r : Nat) (f : Region → Region) : (s.updRegion r f).tile = s.tile := rfl
@[simp] theorem State.updRegion_task (s : State) (r : Nat) (f : Region → Region) : (s.updRegion r f).task = s.task := rfl
@[simp] theorem State.updRegion_agenda (s : State) (r : Nat) (f : Region → Region) : (s.updRegion r f).agenda = s.agenda := rfl
@[simp] theorem State.updRegion_grade (s : State) (r : Nat) (f : Region → Region) : (s.updRegion r f).grade = s.grade := rfl
@[simp] theorem State.updRegion_fused (s : State) (r : Nat) (f : Region → Region) : (s.updRegion r f).fused = s.fused := rfl
@[simp] theorem State.updRegion_pkg (s : State) (r : Nat) (f : Region → Region) : (s.updRegion r f).pkg = s.pkg := rfl
@[simp] theorem State.updRegion_clock (s : State) (r : Nat) (f : Region → Region) : (s.updRegion r f).clock = s.clock := rfl
@[simp] theorem State.updRegion_ns (s : State) (r : Nat) (f : Region → Region) : (s.updRegion r f).ns = s.ns := rfl
@[simp] theorem State.updRegion_phase (s : State) (r : Nat) (f : Region → Region) : (s.updRegion r f).phase = s.phase := rfl
@[simp] theorem State.updRegion_serial (s : State) (r : Nat) (f : Region → Region) : (s.updRegion r f).serial = s.serial := rfl
@[simp] theorem State.updRegion_pool (s : State) (r : Nat) (f : Region → Region) : (s.updRegion r f).pool = s.pool := rfl
@[simp] theorem State.updRegion_mem (s : State) (r : Nat) (f : Region → Region) : (s.updRegion r f).mem = s.mem := rfl
@[simp] theorem State.updRegion_poison (s : State) (r : Nat) (f : Region → Region) : (s.updRegion r f).poison = s.poison := rfl
@[simp] theorem State.updRegion_tiles (s : State) (r : Nat) (f : Region → Region) : (s.updRegion r f).tiles = s.tiles := rfl
@[simp] theorem State.updRegion_blocks (s : State) (r : Nat) (f : Region → Region) : (s.updRegion r f).blocks = s.blocks := rfl
@[simp] theorem State.updRegion_regions (s : State) (r : Nat) (f : Region → Region) : (s.updRegion r f).regions = s.regions.put r (f (s.regionAt r)) := rfl
@[simp] theorem State.updRegion_parts (s : State) (r : Nat) (f : Region → Region) : (s.updRegion r f).parts = s.parts := rfl
@[simp] theorem State.updRegion_ctxs (s : State) (r : Nat) (f : Region → Region) : (s.updRegion r f).ctxs = s.ctxs := rfl
@[simp] theorem State.updRegion_pkts (s : State) (r : Nat) (f : Region → Region) : (s.updRegion r f).pkts = s.pkts := rfl
@[simp] theorem State.updRegion_watch (s : State) (r : Nat) (f : Region → Region) : (s.updRegion r f).watch = s.watch := rfl
@[simp] theorem State.updRegion_hops (s : State) (r : Nat) (f : Region → Region) : (s.updRegion r f).hops = s.hops := rfl
@[simp] theorem State.updRegion_outs (s : State) (r : Nat) (f : Region → Region) : (s.updRegion r f).outs = s.outs := rfl
@[simp] theorem State.updRegion_transits (s : State) (r : Nat) (f : Region → Region) : (s.updRegion r f).transits = s.transits := rfl
@[simp] theorem State.updRegion_sent (s : State) (r : Nat) (f : Region → Region) : (s.updRegion r f).sent = s.sent := rfl
@[simp] theorem State.updRegion_power (s : State) (r : Nat) (f : Region → Region) : (s.updRegion r f).power = s.power := rfl
@[simp] theorem State.updRegion_pod (s : State) (r : Nat) (f : Region → Region) : (s.updRegion r f).pod = s.pod := rfl
@[simp] theorem State.updRegion_eth (s : State) (r : Nat) (f : Region → Region) : (s.updRegion r f).eth = s.eth := rfl
@[simp] theorem State.updRegion_mgmt (s : State) (r : Nat) (f : Region → Region) : (s.updRegion r f).mgmt = s.mgmt := rfl

@[simp] theorem State.updBlock_tile (s : State) (b : Nat) (f : Block → Block) : (s.updBlock b f).tile = s.tile := rfl
@[simp] theorem State.updBlock_task (s : State) (b : Nat) (f : Block → Block) : (s.updBlock b f).task = s.task := rfl
@[simp] theorem State.updBlock_agenda (s : State) (b : Nat) (f : Block → Block) : (s.updBlock b f).agenda = s.agenda := rfl
@[simp] theorem State.updBlock_grade (s : State) (b : Nat) (f : Block → Block) : (s.updBlock b f).grade = s.grade := rfl
@[simp] theorem State.updBlock_fused (s : State) (b : Nat) (f : Block → Block) : (s.updBlock b f).fused = s.fused := rfl
@[simp] theorem State.updBlock_pkg (s : State) (b : Nat) (f : Block → Block) : (s.updBlock b f).pkg = s.pkg := rfl
@[simp] theorem State.updBlock_clock (s : State) (b : Nat) (f : Block → Block) : (s.updBlock b f).clock = s.clock := rfl
@[simp] theorem State.updBlock_ns (s : State) (b : Nat) (f : Block → Block) : (s.updBlock b f).ns = s.ns := rfl
@[simp] theorem State.updBlock_phase (s : State) (b : Nat) (f : Block → Block) : (s.updBlock b f).phase = s.phase := rfl
@[simp] theorem State.updBlock_serial (s : State) (b : Nat) (f : Block → Block) : (s.updBlock b f).serial = s.serial := rfl
@[simp] theorem State.updBlock_pool (s : State) (b : Nat) (f : Block → Block) : (s.updBlock b f).pool = s.pool := rfl
@[simp] theorem State.updBlock_mem (s : State) (b : Nat) (f : Block → Block) : (s.updBlock b f).mem = s.mem := rfl
@[simp] theorem State.updBlock_poison (s : State) (b : Nat) (f : Block → Block) : (s.updBlock b f).poison = s.poison := rfl
@[simp] theorem State.updBlock_tiles (s : State) (b : Nat) (f : Block → Block) : (s.updBlock b f).tiles = s.tiles := rfl
@[simp] theorem State.updBlock_blocks (s : State) (b : Nat) (f : Block → Block) : (s.updBlock b f).blocks = s.blocks.put b (f (s.blockAt b)) := rfl
@[simp] theorem State.updBlock_regions (s : State) (b : Nat) (f : Block → Block) : (s.updBlock b f).regions = s.regions := rfl
@[simp] theorem State.updBlock_parts (s : State) (b : Nat) (f : Block → Block) : (s.updBlock b f).parts = s.parts := rfl
@[simp] theorem State.updBlock_ctxs (s : State) (b : Nat) (f : Block → Block) : (s.updBlock b f).ctxs = s.ctxs := rfl
@[simp] theorem State.updBlock_pkts (s : State) (b : Nat) (f : Block → Block) : (s.updBlock b f).pkts = s.pkts := rfl
@[simp] theorem State.updBlock_watch (s : State) (b : Nat) (f : Block → Block) : (s.updBlock b f).watch = s.watch := rfl
@[simp] theorem State.updBlock_hops (s : State) (b : Nat) (f : Block → Block) : (s.updBlock b f).hops = s.hops := rfl
@[simp] theorem State.updBlock_outs (s : State) (b : Nat) (f : Block → Block) : (s.updBlock b f).outs = s.outs := rfl
@[simp] theorem State.updBlock_transits (s : State) (b : Nat) (f : Block → Block) : (s.updBlock b f).transits = s.transits := rfl
@[simp] theorem State.updBlock_sent (s : State) (b : Nat) (f : Block → Block) : (s.updBlock b f).sent = s.sent := rfl
@[simp] theorem State.updBlock_power (s : State) (b : Nat) (f : Block → Block) : (s.updBlock b f).power = s.power := rfl
@[simp] theorem State.updBlock_pod (s : State) (b : Nat) (f : Block → Block) : (s.updBlock b f).pod = s.pod := rfl
@[simp] theorem State.updBlock_eth (s : State) (b : Nat) (f : Block → Block) : (s.updBlock b f).eth = s.eth := rfl
@[simp] theorem State.updBlock_mgmt (s : State) (b : Nat) (f : Block → Block) : (s.updBlock b f).mgmt = s.mgmt := rfl

@[simp] theorem State.store_tile (s : State) (l : Nat) (bs : List Byte) (bad : Bool) : (s.store l bs bad).tile = s.tile := rfl
@[simp] theorem State.store_task (s : State) (l : Nat) (bs : List Byte) (bad : Bool) : (s.store l bs bad).task = s.task := rfl
@[simp] theorem State.store_agenda (s : State) (l : Nat) (bs : List Byte) (bad : Bool) : (s.store l bs bad).agenda = s.agenda := rfl
@[simp] theorem State.store_grade (s : State) (l : Nat) (bs : List Byte) (bad : Bool) : (s.store l bs bad).grade = s.grade := rfl
@[simp] theorem State.store_fused (s : State) (l : Nat) (bs : List Byte) (bad : Bool) : (s.store l bs bad).fused = s.fused := rfl
@[simp] theorem State.store_pkg (s : State) (l : Nat) (bs : List Byte) (bad : Bool) : (s.store l bs bad).pkg = s.pkg := rfl
@[simp] theorem State.store_clock (s : State) (l : Nat) (bs : List Byte) (bad : Bool) : (s.store l bs bad).clock = s.clock := rfl
@[simp] theorem State.store_ns (s : State) (l : Nat) (bs : List Byte) (bad : Bool) : (s.store l bs bad).ns = s.ns := rfl
@[simp] theorem State.store_phase (s : State) (l : Nat) (bs : List Byte) (bad : Bool) : (s.store l bs bad).phase = s.phase := rfl
@[simp] theorem State.store_serial (s : State) (l : Nat) (bs : List Byte) (bad : Bool) : (s.store l bs bad).serial = s.serial := rfl
@[simp] theorem State.store_pool (s : State) (l : Nat) (bs : List Byte) (bad : Bool) : (s.store l bs bad).pool = s.pool := rfl
@[simp] theorem State.store_mem (s : State) (l : Nat) (bs : List Byte) (bad : Bool) : (s.store l bs bad).mem = writeMem s.mem l bs := rfl
@[simp] theorem State.store_tiles (s : State) (l : Nat) (bs : List Byte) (bad : Bool) : (s.store l bs bad).tiles = s.tiles := rfl
@[simp] theorem State.store_blocks (s : State) (l : Nat) (bs : List Byte) (bad : Bool) : (s.store l bs bad).blocks = s.blocks := rfl
@[simp] theorem State.store_regions (s : State) (l : Nat) (bs : List Byte) (bad : Bool) : (s.store l bs bad).regions = s.regions := rfl
@[simp] theorem State.store_parts (s : State) (l : Nat) (bs : List Byte) (bad : Bool) : (s.store l bs bad).parts = s.parts := rfl
@[simp] theorem State.store_ctxs (s : State) (l : Nat) (bs : List Byte) (bad : Bool) : (s.store l bs bad).ctxs = s.ctxs := rfl
@[simp] theorem State.store_pkts (s : State) (l : Nat) (bs : List Byte) (bad : Bool) : (s.store l bs bad).pkts = s.pkts := rfl
@[simp] theorem State.store_watch (s : State) (l : Nat) (bs : List Byte) (bad : Bool) : (s.store l bs bad).watch = s.watch.map (noticed l bs.length) := rfl
@[simp] theorem State.store_hops (s : State) (l : Nat) (bs : List Byte) (bad : Bool) : (s.store l bs bad).hops = s.hops := rfl
@[simp] theorem State.store_outs (s : State) (l : Nat) (bs : List Byte) (bad : Bool) : (s.store l bs bad).outs = s.outs := rfl
@[simp] theorem State.store_transits (s : State) (l : Nat) (bs : List Byte) (bad : Bool) : (s.store l bs bad).transits = s.transits := rfl
@[simp] theorem State.store_sent (s : State) (l : Nat) (bs : List Byte) (bad : Bool) : (s.store l bs bad).sent = s.sent := rfl
@[simp] theorem State.store_power (s : State) (l : Nat) (bs : List Byte) (bad : Bool) : (s.store l bs bad).power = s.power := rfl
@[simp] theorem State.store_pod (s : State) (l : Nat) (bs : List Byte) (bad : Bool) : (s.store l bs bad).pod = s.pod := rfl
@[simp] theorem State.store_eth (s : State) (l : Nat) (bs : List Byte) (bad : Bool) : (s.store l bs bad).eth = s.eth := rfl
@[simp] theorem State.store_mgmt (s : State) (l : Nat) (bs : List Byte) (bad : Bool) : (s.store l bs bad).mgmt = s.mgmt := rfl

@[simp] theorem State.zeroSram_tile (s : State) (k : Nat) : (s.zeroSram k).tile = s.tile := rfl
@[simp] theorem State.zeroSram_task (s : State) (k : Nat) : (s.zeroSram k).task = s.task := rfl
@[simp] theorem State.zeroSram_agenda (s : State) (k : Nat) : (s.zeroSram k).agenda = s.agenda := rfl
@[simp] theorem State.zeroSram_grade (s : State) (k : Nat) : (s.zeroSram k).grade = s.grade := rfl
@[simp] theorem State.zeroSram_fused (s : State) (k : Nat) : (s.zeroSram k).fused = s.fused := rfl
@[simp] theorem State.zeroSram_pkg (s : State) (k : Nat) : (s.zeroSram k).pkg = s.pkg := rfl
@[simp] theorem State.zeroSram_clock (s : State) (k : Nat) : (s.zeroSram k).clock = s.clock := rfl
@[simp] theorem State.zeroSram_ns (s : State) (k : Nat) : (s.zeroSram k).ns = s.ns := rfl
@[simp] theorem State.zeroSram_phase (s : State) (k : Nat) : (s.zeroSram k).phase = s.phase := rfl
@[simp] theorem State.zeroSram_serial (s : State) (k : Nat) : (s.zeroSram k).serial = s.serial := rfl
@[simp] theorem State.zeroSram_pool (s : State) (k : Nat) : (s.zeroSram k).pool = s.pool := rfl
@[simp] theorem State.zeroSram_tiles (s : State) (k : Nat) : (s.zeroSram k).tiles = s.tiles := rfl
@[simp] theorem State.zeroSram_blocks (s : State) (k : Nat) : (s.zeroSram k).blocks = s.blocks := rfl
@[simp] theorem State.zeroSram_regions (s : State) (k : Nat) : (s.zeroSram k).regions = s.regions := rfl
@[simp] theorem State.zeroSram_parts (s : State) (k : Nat) : (s.zeroSram k).parts = s.parts := rfl
@[simp] theorem State.zeroSram_ctxs (s : State) (k : Nat) : (s.zeroSram k).ctxs = s.ctxs := rfl
@[simp] theorem State.zeroSram_pkts (s : State) (k : Nat) : (s.zeroSram k).pkts = s.pkts := rfl
@[simp] theorem State.zeroSram_watch (s : State) (k : Nat) : (s.zeroSram k).watch = s.watch := rfl
@[simp] theorem State.zeroSram_hops (s : State) (k : Nat) : (s.zeroSram k).hops = s.hops := rfl
@[simp] theorem State.zeroSram_outs (s : State) (k : Nat) : (s.zeroSram k).outs = s.outs := rfl
@[simp] theorem State.zeroSram_transits (s : State) (k : Nat) : (s.zeroSram k).transits = s.transits := rfl
@[simp] theorem State.zeroSram_sent (s : State) (k : Nat) : (s.zeroSram k).sent = s.sent := rfl
@[simp] theorem State.zeroSram_power (s : State) (k : Nat) : (s.zeroSram k).power = s.power := rfl
@[simp] theorem State.zeroSram_pod (s : State) (k : Nat) : (s.zeroSram k).pod = s.pod := rfl
@[simp] theorem State.zeroSram_eth (s : State) (k : Nat) : (s.zeroSram k).eth = s.eth := rfl
@[simp] theorem State.zeroSram_mgmt (s : State) (k : Nat) : (s.zeroSram k).mgmt = s.mgmt := rfl

/-! ### Parts read after updates -/

@[simp] theorem State.ctxAt_setTile (s : State) (k : Nat) (x : Tile) (j : Nat) : (s.setTile k x).ctxAt j = s.ctxAt j := rfl
@[simp] theorem State.partAt_setTile (s : State) (k : Nat) (x : Tile) (j : Nat) : (s.setTile k x).partAt j = s.partAt j := rfl
@[simp] theorem State.regionAt_setTile (s : State) (k : Nat) (x : Tile) (j : Nat) : (s.setTile k x).regionAt j = s.regionAt j := rfl
@[simp] theorem State.blockAt_setTile (s : State) (k : Nat) (x : Tile) (j : Nat) : (s.setTile k x).blockAt j = s.blockAt j := rfl
@[simp] theorem State.byte_setTile (s : State) (k : Nat) (x : Tile) (j : Nat) : (s.setTile k x).byte j = s.byte j := rfl
@[simp] theorem State.ctxAt_updTile (s : State) (k : Nat) (f : Tile → Tile) (j : Nat) : (s.updTile k f).ctxAt j = s.ctxAt j := rfl
@[simp] theorem State.partAt_updTile (s : State) (k : Nat) (f : Tile → Tile) (j : Nat) : (s.updTile k f).partAt j = s.partAt j := rfl
@[simp] theorem State.regionAt_updTile (s : State) (k : Nat) (f : Tile → Tile) (j : Nat) : (s.updTile k f).regionAt j = s.regionAt j := rfl
@[simp] theorem State.blockAt_updTile (s : State) (k : Nat) (f : Tile → Tile) (j : Nat) : (s.updTile k f).blockAt j = s.blockAt j := rfl
@[simp] theorem State.byte_updTile (s : State) (k : Nat) (f : Tile → Tile) (j : Nat) : (s.updTile k f).byte j = s.byte j := rfl
@[simp] theorem State.ctxAt_setMe (s : State) (x : Task) (j : Nat) : (s.setMe x).ctxAt j = s.ctxAt j := rfl
@[simp] theorem State.partAt_setMe (s : State) (x : Task) (j : Nat) : (s.setMe x).partAt j = s.partAt j := rfl
@[simp] theorem State.regionAt_setMe (s : State) (x : Task) (j : Nat) : (s.setMe x).regionAt j = s.regionAt j := rfl
@[simp] theorem State.blockAt_setMe (s : State) (x : Task) (j : Nat) : (s.setMe x).blockAt j = s.blockAt j := rfl
@[simp] theorem State.byte_setMe (s : State) (x : Task) (j : Nat) : (s.setMe x).byte j = s.byte j := rfl
@[simp] theorem State.ctxAt_updMe (s : State) (f : Task → Task) (j : Nat) : (s.updMe f).ctxAt j = s.ctxAt j := rfl
@[simp] theorem State.partAt_updMe (s : State) (f : Task → Task) (j : Nat) : (s.updMe f).partAt j = s.partAt j := rfl
@[simp] theorem State.regionAt_updMe (s : State) (f : Task → Task) (j : Nat) : (s.updMe f).regionAt j = s.regionAt j := rfl
@[simp] theorem State.blockAt_updMe (s : State) (f : Task → Task) (j : Nat) : (s.updMe f).blockAt j = s.blockAt j := rfl
@[simp] theorem State.byte_updMe (s : State) (f : Task → Task) (j : Nat) : (s.updMe f).byte j = s.byte j := rfl
@[simp] theorem State.ctxAt_setS (s : State) (n : BitVec 5) (v : Word) (j : Nat) : (s.setS n v).ctxAt j = s.ctxAt j := rfl
@[simp] theorem State.partAt_setS (s : State) (n : BitVec 5) (v : Word) (j : Nat) : (s.setS n v).partAt j = s.partAt j := rfl
@[simp] theorem State.regionAt_setS (s : State) (n : BitVec 5) (v : Word) (j : Nat) : (s.setS n v).regionAt j = s.regionAt j := rfl
@[simp] theorem State.blockAt_setS (s : State) (n : BitVec 5) (v : Word) (j : Nat) : (s.setS n v).blockAt j = s.blockAt j := rfl
@[simp] theorem State.byte_setS (s : State) (n : BitVec 5) (v : Word) (j : Nat) : (s.setS n v).byte j = s.byte j := rfl
@[simp] theorem State.ctxAt_setP (s : State) (n : BitVec 3) (v : Bool) (j : Nat) : (s.setP n v).ctxAt j = s.ctxAt j := rfl
@[simp] theorem State.partAt_setP (s : State) (n : BitVec 3) (v : Bool) (j : Nat) : (s.setP n v).partAt j = s.partAt j := rfl
@[simp] theorem State.regionAt_setP (s : State) (n : BitVec 3) (v : Bool) (j : Nat) : (s.setP n v).regionAt j = s.regionAt j := rfl
@[simp] theorem State.blockAt_setP (s : State) (n : BitVec 3) (v : Bool) (j : Nat) : (s.setP n v).blockAt j = s.blockAt j := rfl
@[simp] theorem State.byte_setP (s : State) (n : BitVec 3) (v : Bool) (j : Nat) : (s.setP n v).byte j = s.byte j := rfl
@[simp] theorem State.ctxAt_noted (s : State) (j : Nat) : (s.noted).ctxAt j = s.ctxAt j := rfl
@[simp] theorem State.partAt_noted (s : State) (j : Nat) : (s.noted).partAt j = s.partAt j := rfl
@[simp] theorem State.regionAt_noted (s : State) (j : Nat) : (s.noted).regionAt j = s.regionAt j := rfl
@[simp] theorem State.blockAt_noted (s : State) (j : Nat) : (s.noted).blockAt j = s.blockAt j := rfl
@[simp] theorem State.byte_noted (s : State) (j : Nat) : (s.noted).byte j = s.byte j := rfl
@[simp] theorem State.ctxAt_issued (s : State) (n : Nat) (j : Nat) : (s.issued n).ctxAt j = s.ctxAt j := rfl
@[simp] theorem State.partAt_issued (s : State) (n : Nat) (j : Nat) : (s.issued n).partAt j = s.partAt j := rfl
@[simp] theorem State.regionAt_issued (s : State) (n : Nat) (j : Nat) : (s.issued n).regionAt j = s.regionAt j := rfl
@[simp] theorem State.blockAt_issued (s : State) (n : Nat) (j : Nat) : (s.issued n).blockAt j = s.blockAt j := rfl
@[simp] theorem State.byte_issued (s : State) (n : Nat) (j : Nat) : (s.issued n).byte j = s.byte j := rfl
@[simp] theorem State.tileAt_updCtx (s : State) (c : Nat) (f : Ctx → Ctx) (j : Nat) : (s.updCtx c f).tileAt j = s.tileAt j := rfl
@[simp] theorem State.partAt_updCtx (s : State) (c : Nat) (f : Ctx → Ctx) (j : Nat) : (s.updCtx c f).partAt j = s.partAt j := rfl
@[simp] theorem State.regionAt_updCtx (s : State) (c : Nat) (f : Ctx → Ctx) (j : Nat) : (s.updCtx c f).regionAt j = s.regionAt j := rfl
@[simp] theorem State.blockAt_updCtx (s : State) (c : Nat) (f : Ctx → Ctx) (j : Nat) : (s.updCtx c f).blockAt j = s.blockAt j := rfl
@[simp] theorem State.byte_updCtx (s : State) (c : Nat) (f : Ctx → Ctx) (j : Nat) : (s.updCtx c f).byte j = s.byte j := rfl
@[simp] theorem State.tileAt_updPart (s : State) (p : Nat) (f : Part → Part) (j : Nat) : (s.updPart p f).tileAt j = s.tileAt j := rfl
@[simp] theorem State.ctxAt_updPart (s : State) (p : Nat) (f : Part → Part) (j : Nat) : (s.updPart p f).ctxAt j = s.ctxAt j := rfl
@[simp] theorem State.regionAt_updPart (s : State) (p : Nat) (f : Part → Part) (j : Nat) : (s.updPart p f).regionAt j = s.regionAt j := rfl
@[simp] theorem State.blockAt_updPart (s : State) (p : Nat) (f : Part → Part) (j : Nat) : (s.updPart p f).blockAt j = s.blockAt j := rfl
@[simp] theorem State.byte_updPart (s : State) (p : Nat) (f : Part → Part) (j : Nat) : (s.updPart p f).byte j = s.byte j := rfl
@[simp] theorem State.tileAt_updRegion (s : State) (r : Nat) (f : Region → Region) (j : Nat) : (s.updRegion r f).tileAt j = s.tileAt j := rfl
@[simp] theorem State.ctxAt_updRegion (s : State) (r : Nat) (f : Region → Region) (j : Nat) : (s.updRegion r f).ctxAt j = s.ctxAt j := rfl
@[simp] theorem State.partAt_updRegion (s : State) (r : Nat) (f : Region → Region) (j : Nat) : (s.updRegion r f).partAt j = s.partAt j := rfl
@[simp] theorem State.blockAt_updRegion (s : State) (r : Nat) (f : Region → Region) (j : Nat) : (s.updRegion r f).blockAt j = s.blockAt j := rfl
@[simp] theorem State.byte_updRegion (s : State) (r : Nat) (f : Region → Region) (j : Nat) : (s.updRegion r f).byte j = s.byte j := rfl
@[simp] theorem State.tileAt_updBlock (s : State) (b : Nat) (f : Block → Block) (j : Nat) : (s.updBlock b f).tileAt j = s.tileAt j := rfl
@[simp] theorem State.ctxAt_updBlock (s : State) (b : Nat) (f : Block → Block) (j : Nat) : (s.updBlock b f).ctxAt j = s.ctxAt j := rfl
@[simp] theorem State.partAt_updBlock (s : State) (b : Nat) (f : Block → Block) (j : Nat) : (s.updBlock b f).partAt j = s.partAt j := rfl
@[simp] theorem State.regionAt_updBlock (s : State) (b : Nat) (f : Block → Block) (j : Nat) : (s.updBlock b f).regionAt j = s.regionAt j := rfl
@[simp] theorem State.byte_updBlock (s : State) (b : Nat) (f : Block → Block) (j : Nat) : (s.updBlock b f).byte j = s.byte j := rfl
@[simp] theorem State.tileAt_store (s : State) (l : Nat) (bs : List Byte) (bad : Bool) (j : Nat) : (s.store l bs bad).tileAt j = s.tileAt j := rfl
@[simp] theorem State.ctxAt_store (s : State) (l : Nat) (bs : List Byte) (bad : Bool) (j : Nat) : (s.store l bs bad).ctxAt j = s.ctxAt j := rfl
@[simp] theorem State.partAt_store (s : State) (l : Nat) (bs : List Byte) (bad : Bool) (j : Nat) : (s.store l bs bad).partAt j = s.partAt j := rfl
@[simp] theorem State.regionAt_store (s : State) (l : Nat) (bs : List Byte) (bad : Bool) (j : Nat) : (s.store l bs bad).regionAt j = s.regionAt j := rfl
@[simp] theorem State.blockAt_store (s : State) (l : Nat) (bs : List Byte) (bad : Bool) (j : Nat) : (s.store l bs bad).blockAt j = s.blockAt j := rfl
@[simp] theorem State.tileAt_zeroSram (s : State) (k : Nat) (j : Nat) : (s.zeroSram k).tileAt j = s.tileAt j := rfl
@[simp] theorem State.ctxAt_zeroSram (s : State) (k : Nat) (j : Nat) : (s.zeroSram k).ctxAt j = s.ctxAt j := rfl
@[simp] theorem State.partAt_zeroSram (s : State) (k : Nat) (j : Nat) : (s.zeroSram k).partAt j = s.partAt j := rfl
@[simp] theorem State.regionAt_zeroSram (s : State) (k : Nat) (j : Nat) : (s.zeroSram k).regionAt j = s.regionAt j := rfl
@[simp] theorem State.blockAt_zeroSram (s : State) (k : Nat) (j : Nat) : (s.zeroSram k).blockAt j = s.blockAt j := rfl

@[simp] theorem State.ctxAt_updCtx_same (s : State) (k : Nat) (f : Ctx → Ctx) : (s.updCtx k f).ctxAt k = f (s.ctxAt k) :=
  Tab.get_put_same ..
@[simp] theorem State.ctxAt_updCtx_other (s : State) (k j : Nat) (f : Ctx → Ctx) (h : j ≠ k) : (s.updCtx k f).ctxAt j = s.ctxAt j :=
  Tab.get_put_other _ _ _ _ _ h
@[simp] theorem State.partAt_updPart_same (s : State) (k : Nat) (f : Part → Part) : (s.updPart k f).partAt k = f (s.partAt k) :=
  Tab.get_put_same ..
@[simp] theorem State.partAt_updPart_other (s : State) (k j : Nat) (f : Part → Part) (h : j ≠ k) : (s.updPart k f).partAt j = s.partAt j :=
  Tab.get_put_other _ _ _ _ _ h
@[simp] theorem State.regionAt_updRegion_same (s : State) (k : Nat) (f : Region → Region) : (s.updRegion k f).regionAt k = f (s.regionAt k) :=
  Tab.get_put_same ..
@[simp] theorem State.regionAt_updRegion_other (s : State) (k j : Nat) (f : Region → Region) (h : j ≠ k) : (s.updRegion k f).regionAt j = s.regionAt j :=
  Tab.get_put_other _ _ _ _ _ h
@[simp] theorem State.blockAt_updBlock_same (s : State) (k : Nat) (f : Block → Block) : (s.updBlock k f).blockAt k = f (s.blockAt k) :=
  Tab.get_put_same ..
@[simp] theorem State.blockAt_updBlock_other (s : State) (k j : Nat) (f : Block → Block) (h : j ≠ k) : (s.updBlock k f).blockAt j = s.blockAt j :=
  Tab.get_put_other _ _ _ _ _ h
@[simp] theorem State.tileAt_updTile_same (s : State) (k : Nat) (f : Tile → Tile) : (s.updTile k f).tileAt k = f (s.tileAt k) :=
  Tab.get_put_same ..
@[simp] theorem State.tileAt_updTile_other (s : State) (k j : Nat) (f : Tile → Tile) (h : j ≠ k) : (s.updTile k f).tileAt j = s.tileAt j :=
  Tab.get_put_other _ _ _ _ _ h
@[simp] theorem State.tileAt_setTile_same (s : State) (k : Nat) (x : Tile) : (s.setTile k x).tileAt k = x :=
  Tab.get_put_same ..
@[simp] theorem State.tileAt_setTile_other (s : State) (k j : Nat) (x : Tile) (h : j ≠ k) : (s.setTile k x).tileAt j = s.tileAt j :=
  Tab.get_put_other _ _ _ _ _ h

/-! ### The issuing task -/

theorem State.cur_updTile_tile (s : State) (f : Tile → Tile) : (s.updTile s.tile f).cur = f s.cur :=
  State.tileAt_updTile_same ..
@[simp] theorem State.cur_updMe (s : State) (f : Task → Task) :
    (s.updMe f).cur = { s.cur with tasks := s.cur.tasks.set s.task (f s.me) } := State.cur_updTile_tile ..
@[simp] theorem State.me_updMe (s : State) (f : Task → Task) : (s.updMe f).me = f s.me := by
  show (s.updMe f).cur.tasks[s.task] = f s.me
  simp
@[simp] theorem State.tileAt_updMe_other (s : State) (f : Task → Task) (k : Nat) (h : k ≠ s.tile) :
    (s.updMe f).tileAt k = s.tileAt k := State.tileAt_updTile_other _ _ _ _ h

/-- An update of one task leaves the other tasks of the tile. -/
theorem State.tasks_updMe_other (s : State) (f : Task → Task) (k : Fin 4) (h : k ≠ s.task) :
    (s.updMe f).cur.tasks[k] = s.cur.tasks[k] := by
  rw [State.cur_updMe]
  exact Vector.getElem_set_ne s.task.isLt k.isLt (fun e => h (Fin.ext e.symm))

/-! ### Registers of a task (R19) -/

@[simp] theorem Task.sset_zero (t : Task) (v : Word) : t.sset 0 v = t := rfl
@[simp] theorem Task.sget_zero (t : Task) : t.sget 0 = 0 := rfl
@[simp] theorem Task.pset_zero (t : Task) (v : Bool) : t.pset 0 v = t := rfl
@[simp] theorem Task.pget_zero (t : Task) : t.pget 0 = true := rfl

theorem Task.sget_sset_same (t : Task) (n : BitVec 5) (v : Word) (h : n ≠ 0) : (t.sset n v).sget n = v := by
  rw [Task.sset, if_neg h, Task.sget, if_neg h]
  exact Vector.getElem_set_self n.isLt
theorem Task.sget_sset_other (t : Task) (n m : BitVec 5) (v : Word) (h : m ≠ n) : (t.sset n v).sget m = t.sget m := by
  unfold Task.sset
  split
  · rfl
  · unfold Task.sget
    split
    · rfl
    · exact Vector.getElem_set_ne n.isLt m.isLt (fun e => h (BitVec.eq_of_toNat_eq e.symm))
theorem Task.pget_pset_same (t : Task) (n : BitVec 3) (v : Bool) (h : n ≠ 0) : (t.pset n v).pget n = v := by
  rw [Task.pset, if_neg h, Task.pget, if_neg h]
  exact Vector.getElem_set_self n.isLt
theorem Task.pget_pset_other (t : Task) (n m : BitVec 3) (v : Bool) (h : m ≠ n) : (t.pset n v).pget m = t.pget m := by
  unfold Task.pset
  split
  · rfl
  · unfold Task.pget
    split
    · rfl
    · exact Vector.getElem_set_ne n.isLt m.isLt (fun e => h (BitVec.eq_of_toNat_eq e.symm))

/-- A write of a scalar register changes nothing of the task but that register and its pending bit. -/
theorem Task.sset_frame (t : Task) (n : BitVec 5) (v : Word) : { t.sset n v with s := t.s, spend := t.spend } = t := by
  unfold Task.sset
  split <;> rfl
theorem Task.pset_frame (t : Task) (n : BitVec 3) (v : Bool) : { t.pset n v with p := t.p, ppend := t.ppend } = t := by
  unfold Task.pset
  split <;> rfl

/-- The advance past a unit of words changes nothing but the PC and the place in delay slots. -/
theorem Task.advance_frame (t : Task) (n : Nat) : { t.advance n with pc := t.pc, slot := t.slot } = t := by
  unfold Task.advance
  split
  · next h => cases t; cases h; rfl
  · next h => split <;> (cases t; cases h; rfl)

@[simp] theorem Task.sget_advance (t : Task) (n : Nat) (d : BitVec 5) : (t.advance n).sget d = t.sget d := by
  unfold Task.advance
  split
  · rfl
  · split <;> rfl
@[simp] theorem Task.pget_advance (t : Task) (n : Nat) (d : BitVec 3) : (t.advance n).pget d = t.pget d := by
  unfold Task.advance
  split
  · rfl
  · split <;> rfl

end Sys2Proof.Machine
end

