-- ==== Sys2Proof/Laws/Issue.lean ====
section
/-! SUPPORT. Issue.lean: what one issue of a sequencer word can do (R67, R68, R85), in one lemma per outcome, and what of the
state a word leaves alone that only updates its task. -/

namespace Sys2Proof.Machine

open Sys2Proof.Claims

/-- `issues` says that each step before the operation lets the word go on. -/
theorem issues_iff (s : State) (w : Instr) (g : Guard) (b : Board) :
    issues s w g b = true ↔ s.canIssue = true ∧ w.wf = true ∧ (s.me.slot.isSome && w.branchClass) = false ∧
      (privilegedWord w && s.me.level == .user) = false ∧ s.me.pPending g.p = false ∧ s.me.guard g = true ∧
      b.blocked s.me = false := by
  simp only [issues, Bool.and_eq_true, Bool.not_eq_true', and_assoc]

/-- Where the steps before the guard let the word go on. -/
theorem State.preChecks_ok (s : State) (w : Instr) (hw : w.wf = true) (hb : (s.me.slot.isSome && w.branchClass) = false)
    (hp : (privilegedWord w && s.me.level == .user) = false) : s.preChecks w = .ok () := by
  simp [State.preChecks, hw, hb, hp]

/-- A word that issues performs its operation. -/
theorem State.runWord_issues (s : State) (w : Instr) (g : Guard) (b : Board) (op : State → Res State)
    (h : issues s w g b = true) : s.runWord w g b op = s.finish s.me.pc (op s) := by
  obtain ⟨hc, hw, hb, hp, hq, hg, hk⟩ := (issues_iff s w g b).1 h
  unfold State.runWord
  rw [s.preChecks_ok w hw hb hp, hc, hq, hg, hk]
  rfl

/-- A word of a task that may not issue waits. -/
theorem State.runWord_waits (s : State) (w : Instr) (g : Guard) (b : Board) (op : State → Res State)
    (h : s.canIssue = false) : s.runWord w g b op = .next s.waits := by
  simp [State.runWord, h]

/-- A word whose guard is false only goes on (R68). -/
theorem State.runWord_guardFalse (s : State) (w : Instr) (g : Guard) (b : Board) (op : State → Res State)
    (hc : s.canIssue = true) (hw : w.wf = true) (hb : (s.me.slot.isSome && w.branchClass) = false)
    (hp : (privilegedWord w && s.me.level == .user) = false) (hq : s.me.pPending g.p = false) (hg : s.me.guard g = false) :
    s.runWord w g b op = .next (s.issued 1) := by
  unfold State.runWord
  rw [s.preChecks_ok w hw hb hp, hc, hq, hg]
  rfl

/-- A word that fails a check before the guard traps at its own address (R67, R76, R77, R79). -/
theorem State.runWord_traps (s : State) (w : Instr) (g : Guard) (b : Board) (op : State → Res State) (i : TrapInfo)
    (hc : s.canIssue = true) (h : s.preChecks w = .error (.trap i)) :
    s.runWord w g b op = .next (s.issueTrap i s.me.pc) := by
  unfold State.runWord
  rw [h, hc]
  rfl

/-- A plain word whose operation gives `s'` goes on from it to the next word. -/
theorem State.plain_ok (s s' : State) (w : Instr) (g : Guard) (b : Board) (op : State → Res State)
    (h : issues s w g b = true) (ho : op s = .ok s') : s.plain w g b op = .next (s'.issued 1) := by
  rw [State.plain, State.runWord_issues _ _ _ _ _ h, ho]
  rfl

/-- A plain word whose operation traps takes the trap at its own address. -/
theorem State.plain_trap (s : State) (w : Instr) (g : Guard) (b : Board) (op : State → Res State) (i : TrapInfo)
    (h : issues s w g b = true) (ho : op s = .error (.trap i)) :
    s.plain w g b op = .next (s.issueTrap i s.me.pc) := by
  rw [State.plain, State.runWord_issues _ _ _ _ _ h, ho]
  rfl

/-- A plain word that waits leaves everything to the agents of its tile. -/
theorem State.plain_wait (s : State) (w : Instr) (g : Guard) (b : Board) (op : State → Res State)
    (h : issues s w g b = true) (ho : op s = .error .wait) : s.plain w g b op = .next s.waits := by
  rw [State.plain, State.runWord_issues _ _ _ _ _ h, ho]
  rfl

/-! ### What an issue leaves on its tile -/

theorem State.cur_noted (s : State) : s.noted.cur =
    { (s.cur.unyield s.task).unqueue s.task with
      last := s.task
      lastIssue := s.cyclesAt s.tile
      trapWait := s.cur.trapWait &&& ~~~((1 : BitVec 4) <<< (s.task : Nat)) } := State.cur_updTile_tile ..

theorem State.task_noted (s : State) (k : Fin 4) :
    s.noted.cur.tasks[k] =
      { s.cur.tasks[k] with yielding := s.cur.tasks[k].yielding &&& ~~~((1 : BitVec 4) <<< (s.task : Nat)) } := by
  rw [State.cur_noted]
  exact Vector.getElem_map ..

theorem State.me_noted (s : State) :
    s.noted.me = { s.me with yielding := s.me.yielding &&& ~~~((1 : BitVec 4) <<< (s.task : Nat)) } := s.task_noted s.task

@[simp] theorem State.getS_noted (s : State) (n : BitVec 5) : s.noted.getS n = s.getS n := by
  show s.noted.me.sget n = s.me.sget n
  rw [State.me_noted]
  rfl
@[simp] theorem State.getP_noted (s : State) (n : BitVec 3) : s.noted.getP n = s.getP n := by
  show s.noted.me.pget n = s.me.pget n
  rw [State.me_noted]
  rfl
@[simp] theorem State.getS_updMe (s : State) (f : Task → Task) (n : BitVec 5) : (s.updMe f).getS n = (f s.me).sget n := by
  show (s.updMe f).me.sget n = _
  rw [State.me_updMe]
@[simp] theorem State.getP_updMe (s : State) (f : Task → Task) (n : BitVec 3) : (s.updMe f).getP n = (f s.me).pget n := by
  show (s.updMe f).me.pget n = _
  rw [State.me_updMe]
@[simp] theorem State.getS_issued (s : State) (n : Nat) (d : BitVec 5) : (s.issued n).getS d = s.getS d := by
  rw [State.issued, State.getS_noted, State.getS_updMe, Task.sget_advance]
  rfl
@[simp] theorem State.getP_issued (s : State) (n : Nat) (d : BitVec 3) : (s.issued n).getP d = s.getP d := by
  rw [State.issued, State.getP_noted, State.getP_updMe, Task.pget_advance]
  rfl

theorem State.tileAt_issued_other (s : State) (n k : Nat) (h : k ≠ s.tile) : (s.issued n).tileAt k = s.tileAt k :=
  (State.tileAt_updTile_other _ _ _ _ h).trans (s.tileAt_updMe_other _ k h)

theorem State.tasks_issued_other (s : State) (n : Nat) (k : Fin 4) (h : k ≠ s.task) :
    ({ (s.issued n).cur.tasks[k] with yielding := s.cur.tasks[k].yielding } : Task) = s.cur.tasks[k] := by
  rw [State.issued, State.task_noted, State.tasks_updMe_other _ _ _ h]

theorem State.me_issued (s : State) (n : Nat) :
    ({ (s.issued n).me with yielding := 0 } : Task) = { s.me.advance n with yielding := 0 } := by
  rw [State.issued, State.me_noted, State.me_updMe]

theorem State.cur_issued (s : State) (n : Nat) :
    ({ (s.issued n).cur with
        tasks := s.cur.tasks
        last := s.cur.last
        queueWait := s.cur.queueWait
        lastIssue := s.cur.lastIssue
        trapWait := s.cur.trapWait } : Tile) = s.cur := by
  rw [State.issued, State.cur_noted, State.cur_updMe]
  rfl

/-- A word that only goes on changes nothing but the PC and the place in delay slots of its task. -/
theorem taskStep_id (s : State) (n : Nat) : TaskStep s (s.issued n) id n where
  rest := rfl
  bytes := fun _ => rfl
  others := s.tileAt_issued_other n
  tile := s.cur_issued n
  tasks := s.tasks_issued_other n
  own := s.me_issued n

/-- A word that only updates its task by `f` and goes on changes nothing else. -/
theorem taskStep_updMe (s : State) (f : Task → Task) (n : Nat) : TaskStep s ((s.updMe f).issued n) f n where
  rest := rfl
  bytes := fun _ => rfl
  others := fun k h => ((s.updMe f).tileAt_issued_other n k h).trans (s.tileAt_updMe_other f k h)
  tile := by
    have e := (s.updMe f).cur_issued n
    have c := s.cur_updMe f
    rw [c] at e
    exact congrArg (fun x : Tile => { x with tasks := s.cur.tasks }) e
  tasks := fun k h => by
    have e := (s.updMe f).tasks_issued_other n k h
    rwa [s.tasks_updMe_other f k h] at e
  own := by
    have e := (s.updMe f).me_issued n
    rwa [s.me_updMe f] at e

/-- A word that writes one scalar register. -/
theorem writes_of_ok (s : State) (w : Instr) (d : BitVec 5) (v : Word) (h : exec w s = .next ((s.setS d v).issued 1)) :
    Writes s w d v := by
  refine ⟨_, h, taskStep_updMe s _ 1, ?_, fun n hn => ?_, fun q => ?_⟩
  · rw [State.getS_issued, State.setS, State.getS_updMe]
    split
    · next e => subst e; rfl
    · next e => exact Task.sget_sset_same _ _ _ e
  · rw [State.getS_issued, State.setS, State.getS_updMe, Task.sget_sset_other _ _ _ _ hn]
    rfl
  · rw [State.getP_issued, State.setS, State.getP_updMe]
    unfold Task.sset
    split <;> rfl

/-- A word that writes one predicate register, which is not p0. -/
theorem sets_of_ok (s : State) (w : Instr) (q : BitVec 3) (v : Bool) (hq : q ≠ 0)
    (h : exec w s = .next ((s.setP q v).issued 1)) : Sets s w q v := by
  refine ⟨_, h, taskStep_updMe s _ 1, ?_, fun n hn => ?_, fun n => ?_⟩
  · rw [State.getP_issued, State.setP, State.getP_updMe]
    exact Task.pget_pset_same _ _ _ hq
  · rw [State.getP_issued, State.setP, State.getP_updMe, Task.pget_pset_other _ _ _ _ hn]
    rfl
  · rw [State.getS_issued, State.setP, State.getS_updMe]
    unfold Task.pset
    split <;> rfl

/-- A word that performs nothing. -/
theorem goesOn_of_issued (s : State) (w : Instr) (h : exec w s = .next (s.issued 1)) : GoesOn s w :=
  ⟨_, h, taskStep_id s 1, fun n => s.getS_issued 1 n, fun q => s.getP_issued 1 q⟩

end Sys2Proof.Machine
end

