-- ==== Sys2Proof/Laws/Memory.lean ====
section
/-! SUPPORT. Memory.lean: what a byte reads as after a store (R270), values in little-endian order (R6), and the canonical
form of memory, which the operations that change it keep (log 2). -/

namespace Sys2Proof.Machine

/-! ### Reading after a store -/

theorem get_writeMem_before (m : List Host.Cell) (loc a : Nat) (bs : List Byte) (h : a < loc) :
    Tab.get 0 (writeMem m loc bs) a = Tab.get 0 m a := by
  induction bs generalizing m loc with
  | nil => rfl
  | cons b r ih =>
    rw [writeMem, ih _ _ (by omega)]
    exact Tab.get_set_other _ _ _ _ _ (by omega)

theorem get_writeMem_in (m : List Host.Cell) (loc k : Nat) (bs : List Byte) (h : k < bs.length) :
    Tab.get 0 (writeMem m loc bs) (loc + k) = bs[k] := by
  induction bs generalizing m loc k with
  | nil => simp at h
  | cons b r ih =>
    cases k with
    | zero =>
      rw [writeMem, get_writeMem_before _ _ _ _ (by omega)]
      exact Tab.get_set_same ..
    | succ k =>
      have e : loc + (k + 1) = loc + 1 + k := by omega
      rw [writeMem, e, ih _ _ _ (by simpa using h)]
      rfl

theorem get_writeMem_after (m : List Host.Cell) (loc a : Nat) (bs : List Byte) (h : loc + bs.length ≤ a) :
    Tab.get 0 (writeMem m loc bs) a = Tab.get 0 m a := by
  induction bs generalizing m loc with
  | nil => rfl
  | cons b r ih =>
    simp only [List.length_cons] at h
    rw [writeMem, ih _ _ (by omega)]
    exact Tab.get_set_other _ _ _ _ _ (by omega)

theorem State.byte_store_in (s : State) (loc k : Nat) (bs : List Byte) (bad : Bool) (h : k < bs.length) :
    (s.store loc bs bad).byte (loc + k) = bs[k] := get_writeMem_in _ _ _ _ h

theorem State.byte_store_out (s : State) (loc a : Nat) (bs : List Byte) (bad : Bool) (h : a < loc ∨ loc + bs.length ≤ a) :
    (s.store loc bs bad).byte a = s.byte a := by
  rcases h with h | h
  · exact get_writeMem_before _ _ _ _ h
  · exact get_writeMem_after _ _ _ _ h

/-! ### Values of several bytes -/

@[simp] theorem length_bytesOf (n v : Nat) : (bytesOf n v).length = n := by
  induction n generalizing v with
  | zero => rfl
  | succ n ih => simp [bytesOf, ih]

theorem leNat_bytesOf (n v : Nat) : leNat (bytesOf n v) = v % 2 ^ (8 * n) := by
  induction n generalizing v with
  | zero => simp [bytesOf, leNat, Nat.mod_one]
  | succ n ih =>
    rw [bytesOf, leNat, ih, BitVec.toNat_ofNat, Nat.mul_succ, Nat.add_comm (8 * n) 8, Nat.pow_add]
    exact (Nat.mod_mul (x := v) (a := 2 ^ 8) (b := 2 ^ (8 * n))).symm

/-- The bytes of a range that a store has just written. -/
theorem State.bytesAt_store (s : State) (loc : Nat) (bs : List Byte) (bad : Bool) :
    (s.store loc bs bad).bytesAt loc bs.length = bs := by
  apply List.ext_getElem
  · simp [State.bytesAt]
  · intro i h1 h2
    simp only [State.bytesAt, List.getElem_map, List.getElem_range]
    exact State.byte_store_in s loc i bs bad h2

/-- Bytes of a range that a store does not touch. -/
theorem State.bytesAt_store_out (s : State) (loc l n : Nat) (bs : List Byte) (bad : Bool)
    (h : l + n ≤ loc ∨ loc + bs.length ≤ l) : (s.store loc bs bad).bytesAt l n = s.bytesAt l n := by
  unfold State.bytesAt
  apply List.map_congr_left
  intro i hi
  rw [List.mem_range] at hi
  exact State.byte_store_out s loc (l + i) bs bad (by omega)

/-- A value of n bytes reads back from where it was stored. -/
theorem State.readNat_store (s : State) (loc n v : Nat) (bad : Bool) :
    (s.store loc (bytesOf n v) bad).readNat loc n = v % 2 ^ (8 * n) := by
  have h := State.bytesAt_store s loc (bytesOf n v) bad
  rw [length_bytesOf] at h
  rw [State.readNat, h, leNat_bytesOf]

theorem State.readNat_store_out (s : State) (loc l n : Nat) (bs : List Byte) (bad : Bool)
    (h : l + n ≤ loc ∨ loc + bs.length ≤ l) : (s.store loc bs bad).readNat l n = s.readNat l n := by
  rw [State.readNat, State.bytesAt_store_out _ _ _ _ _ _ h, State.readNat]

/-! ### The canonical form -/

theorem Memory.wf_writeMem (m : List Host.Cell) (loc : Nat) (bs : List Byte) (h : Memory.wf m = true) :
    Memory.wf (writeMem m loc bs) = true := by
  induction bs generalizing m loc with
  | nil => exact h
  | cons b r ih => exact ih _ _ (Tab.wf_set 0 m loc b h)

theorem State.wf_store (s : State) (loc : Nat) (bs : List Byte) (bad : Bool) (h : Memory.wf s.mem = true) :
    Memory.wf (s.store loc bs bad).mem = true := Memory.wf_writeMem _ _ _ h

theorem State.wf_zeroSram (s : State) (t : Nat) (h : Memory.wf s.mem = true) : Memory.wf (s.zeroSram t).mem = true :=
  Tab.wf_filter 0 s.mem _ h

theorem State.wf_zeroAt (s : State) (p n : Nat) (h : Memory.wf s.mem = true) : Memory.wf (s.zeroAt p n).mem = true :=
  Tab.wf_filter 0 s.mem _ h

theorem State.wf_unpowered (s : State) (h : Memory.wf s.mem = true) : Memory.wf s.unpowered.mem = true :=
  Tab.wf_filter 0 s.mem _ h

theorem State.wf_storeMarked (s : State) (loc : Nat) (bs : List PByte) (h : Memory.wf s.mem = true) :
    Memory.wf (s.storeMarked loc bs).mem = true := by
  induction bs generalizing s loc with
  | nil => exact h
  | cons x r ih => exact ih _ _ (State.wf_store s loc [x.1] x.2 h)

theorem State.wf_reset : Memory.wf State.reset.mem = true := rfl

end Sys2Proof.Machine
end

