-- ==== Sys2Proof/Laws/PerInstr.lean ====
section
/-! SUPPORT. PerInstr.lean: the family RoundTrip: a well-formed instruction that has a word decodes from the word that encodes it. -/

namespace Sys2Proof.Laws.RoundTrip

/-- Decoding the word of a well-formed instruction gives the instruction. -/
def Statement (i : Instr) : Prop := i.isEvent = false → i.wf = true → decode (encode i) = some i

theorem add (g : Guard) (d : BitVec 5) (a : BitVec 5) (b : BitVec 5) : Statement (.add g d a b) := fun _ hw =>
  decode_of_raw _ _ (raw_add g d a b _ (congrArg (0x04000000 + · + d.toNat * 131072 + a.toNat * 4096 + b.toNat * 128) (guard_enc g))) hw

theorem sub (g : Guard) (d : BitVec 5) (a : BitVec 5) (b : BitVec 5) : Statement (.sub g d a b) := fun _ hw =>
  decode_of_raw _ _ (raw_sub g d a b _ (congrArg (0x04000001 + · + d.toNat * 131072 + a.toNat * 4096 + b.toNat * 128) (guard_enc g))) hw

theorem mul (g : Guard) (d : BitVec 5) (a : BitVec 5) (b : BitVec 5) : Statement (.mul g d a b) := fun _ hw =>
  decode_of_raw _ _ (raw_mul g d a b _ (congrArg (0x04000002 + · + d.toNat * 131072 + a.toNat * 4096 + b.toNat * 128) (guard_enc g))) hw

theorem mulh (g : Guard) (d : BitVec 5) (a : BitVec 5) (b : BitVec 5) : Statement (.mulh g d a b) := fun _ hw =>
  decode_of_raw _ _ (raw_mulh g d a b _ (congrArg (0x04000003 + · + d.toNat * 131072 + a.toNat * 4096 + b.toNat * 128) (guard_enc g))) hw

theorem mulhu (g : Guard) (d : BitVec 5) (a : BitVec 5) (b : BitVec 5) : Statement (.mulhu g d a b) := fun _ hw =>
  decode_of_raw _ _ (raw_mulhu g d a b _ (congrArg (0x04000004 + · + d.toNat * 131072 + a.toNat * 4096 + b.toNat * 128) (guard_enc g))) hw

theorem div (g : Guard) (d : BitVec 5) (a : BitVec 5) (b : BitVec 5) : Statement (.div g d a b) := fun _ hw =>
  decode_of_raw _ _ (raw_div g d a b _ (congrArg (0x04000005 + · + d.toNat * 131072 + a.toNat * 4096 + b.toNat * 128) (guard_enc g))) hw

theorem divu (g : Guard) (d : BitVec 5) (a : BitVec 5) (b : BitVec 5) : Statement (.divu g d a b) := fun _ hw =>
  decode_of_raw _ _ (raw_divu g d a b _ (congrArg (0x04000006 + · + d.toNat * 131072 + a.toNat * 4096 + b.toNat * 128) (guard_enc g))) hw

theorem rem (g : Guard) (d : BitVec 5) (a : BitVec 5) (b : BitVec 5) : Statement (.rem g d a b) := fun _ hw =>
  decode_of_raw _ _ (raw_rem g d a b _ (congrArg (0x04000007 + · + d.toNat * 131072 + a.toNat * 4096 + b.toNat * 128) (guard_enc g))) hw

theorem remu (g : Guard) (d : BitVec 5) (a : BitVec 5) (b : BitVec 5) : Statement (.remu g d a b) := fun _ hw =>
  decode_of_raw _ _ (raw_remu g d a b _ (congrArg (0x04000008 + · + d.toNat * 131072 + a.toNat * 4096 + b.toNat * 128) (guard_enc g))) hw

theorem andS (g : Guard) (d : BitVec 5) (a : BitVec 5) (b : BitVec 5) : Statement (.andS g d a b) := fun _ hw =>
  decode_of_raw _ _ (raw_andS g d a b _ (congrArg (0x04000009 + · + d.toNat * 131072 + a.toNat * 4096 + b.toNat * 128) (guard_enc g))) hw

theorem orS (g : Guard) (d : BitVec 5) (a : BitVec 5) (b : BitVec 5) : Statement (.orS g d a b) := fun _ hw =>
  decode_of_raw _ _ (raw_orS g d a b _ (congrArg (0x0400000A + · + d.toNat * 131072 + a.toNat * 4096 + b.toNat * 128) (guard_enc g))) hw

theorem xorS (g : Guard) (d : BitVec 5) (a : BitVec 5) (b : BitVec 5) : Statement (.xorS g d a b) := fun _ hw =>
  decode_of_raw _ _ (raw_xorS g d a b _ (congrArg (0x0400000B + · + d.toNat * 131072 + a.toNat * 4096 + b.toNat * 128) (guard_enc g))) hw

theorem andn (g : Guard) (d : BitVec 5) (a : BitVec 5) (b : BitVec 5) : Statement (.andn g d a b) := fun _ hw =>
  decode_of_raw _ _ (raw_andn g d a b _ (congrArg (0x0400000C + · + d.toNat * 131072 + a.toNat * 4096 + b.toNat * 128) (guard_enc g))) hw

theorem shl (g : Guard) (d : BitVec 5) (a : BitVec 5) (b : BitVec 5) : Statement (.shl g d a b) := fun _ hw =>
  decode_of_raw _ _ (raw_shl g d a b _ (congrArg (0x0400000D + · + d.toNat * 131072 + a.toNat * 4096 + b.toNat * 128) (guard_enc g))) hw

theorem shr (g : Guard) (d : BitVec 5) (a : BitVec 5) (b : BitVec 5) : Statement (.shr g d a b) := fun _ hw =>
  decode_of_raw _ _ (raw_shr g d a b _ (congrArg (0x0400000E + · + d.toNat * 131072 + a.toNat * 4096 + b.toNat * 128) (guard_enc g))) hw

theorem sar (g : Guard) (d : BitVec 5) (a : BitVec 5) (b : BitVec 5) : Statement (.sar g d a b) := fun _ hw =>
  decode_of_raw _ _ (raw_sar g d a b _ (congrArg (0x0400000F + · + d.toNat * 131072 + a.toNat * 4096 + b.toNat * 128) (guard_enc g))) hw

theorem rotr (g : Guard) (d : BitVec 5) (a : BitVec 5) (b : BitVec 5) : Statement (.rotr g d a b) := fun _ hw =>
  decode_of_raw _ _ (raw_rotr g d a b _ (congrArg (0x04000010 + · + d.toNat * 131072 + a.toNat * 4096 + b.toNat * 128) (guard_enc g))) hw

theorem minS (g : Guard) (d : BitVec 5) (a : BitVec 5) (b : BitVec 5) : Statement (.minS g d a b) := fun _ hw =>
  decode_of_raw _ _ (raw_minS g d a b _ (congrArg (0x04000011 + · + d.toNat * 131072 + a.toNat * 4096 + b.toNat * 128) (guard_enc g))) hw

theorem maxS (g : Guard) (d : BitVec 5) (a : BitVec 5) (b : BitVec 5) : Statement (.maxS g d a b) := fun _ hw =>
  decode_of_raw _ _ (raw_maxS g d a b _ (congrArg (0x04000012 + · + d.toNat * 131072 + a.toNat * 4096 + b.toNat * 128) (guard_enc g))) hw

theorem minu (g : Guard) (d : BitVec 5) (a : BitVec 5) (b : BitVec 5) : Statement (.minu g d a b) := fun _ hw =>
  decode_of_raw _ _ (raw_minu g d a b _ (congrArg (0x04000013 + · + d.toNat * 131072 + a.toNat * 4096 + b.toNat * 128) (guard_enc g))) hw

theorem maxu (g : Guard) (d : BitVec 5) (a : BitVec 5) (b : BitVec 5) : Statement (.maxu g d a b) := fun _ hw =>
  decode_of_raw _ _ (raw_maxu g d a b _ (congrArg (0x04000014 + · + d.toNat * 131072 + a.toNat * 4096 + b.toNat * 128) (guard_enc g))) hw

theorem clz (g : Guard) (d : BitVec 5) (a : BitVec 5) : Statement (.clz g d a) := fun _ hw =>
  decode_of_raw _ _ (raw_clz g d a _ (congrArg (0x04000015 + · + d.toNat * 131072 + a.toNat * 4096) (guard_enc g))) hw

theorem ctz (g : Guard) (d : BitVec 5) (a : BitVec 5) : Statement (.ctz g d a) := fun _ hw =>
  decode_of_raw _ _ (raw_ctz g d a _ (congrArg (0x04000016 + · + d.toNat * 131072 + a.toNat * 4096) (guard_enc g))) hw

theorem popc (g : Guard) (d : BitVec 5) (a : BitVec 5) : Statement (.popc g d a) := fun _ hw =>
  decode_of_raw _ _ (raw_popc g d a _ (congrArg (0x04000017 + · + d.toNat * 131072 + a.toNat * 4096) (guard_enc g))) hw

theorem sextb (g : Guard) (d : BitVec 5) (a : BitVec 5) : Statement (.sextb g d a) := fun _ hw =>
  decode_of_raw _ _ (raw_sextb g d a _ (congrArg (0x04000018 + · + d.toNat * 131072 + a.toNat * 4096) (guard_enc g))) hw

theorem sexth (g : Guard) (d : BitVec 5) (a : BitVec 5) : Statement (.sexth g d a) := fun _ hw =>
  decode_of_raw _ _ (raw_sexth g d a _ (congrArg (0x04000019 + · + d.toNat * 131072 + a.toNat * 4096) (guard_enc g))) hw

theorem sextw (g : Guard) (d : BitVec 5) (a : BitVec 5) : Statement (.sextw g d a) := fun _ hw =>
  decode_of_raw _ _ (raw_sextw g d a _ (congrArg (0x0400001A + · + d.toNat * 131072 + a.toNat * 4096) (guard_enc g))) hw

theorem zextb (g : Guard) (d : BitVec 5) (a : BitVec 5) : Statement (.zextb g d a) := fun _ hw =>
  decode_of_raw _ _ (raw_zextb g d a _ (congrArg (0x0400001B + · + d.toNat * 131072 + a.toNat * 4096) (guard_enc g))) hw

theorem zexth (g : Guard) (d : BitVec 5) (a : BitVec 5) : Statement (.zexth g d a) := fun _ hw =>
  decode_of_raw _ _ (raw_zexth g d a _ (congrArg (0x0400001C + · + d.toNat * 131072 + a.toNat * 4096) (guard_enc g))) hw

theorem zextw (g : Guard) (d : BitVec 5) (a : BitVec 5) : Statement (.zextw g d a) := fun _ hw =>
  decode_of_raw _ _ (raw_zextw g d a _ (congrArg (0x0400001D + · + d.toNat * 131072 + a.toNat * 4096) (guard_enc g))) hw

theorem sel (g : Guard) (d : BitVec 5) (a : BitVec 5) (b : BitVec 5) : Statement (.sel g d a b) := fun _ hw =>
  decode_of_raw _ _ (raw_sel g d a b _ (congrArg (0x0400001E + · + d.toNat * 131072 + a.toNat * 4096 + b.toNat * 128) (guard_enc g))) hw

theorem addi (g : Guard) (d : BitVec 5) (a : BitVec 5) (i : BitVec 12) : Statement (.addi g d a i) := fun _ hw =>
  decode_of_raw _ _ (raw_addi g d a i _ (congrArg (0x08000000 + · + d.toNat * 131072 + a.toNat * 4096 + i.toNat * 1) (guard_enc g))) hw

theorem andi (g : Guard) (d : BitVec 5) (a : BitVec 5) (i : BitVec 12) : Statement (.andi g d a i) := fun _ hw =>
  decode_of_raw _ _ (raw_andi g d a i _ (congrArg (0x0C000000 + · + d.toNat * 131072 + a.toNat * 4096 + i.toNat * 1) (guard_enc g))) hw

theorem ori (g : Guard) (d : BitVec 5) (a : BitVec 5) (i : BitVec 12) : Statement (.ori g d a i) := fun _ hw =>
  decode_of_raw _ _ (raw_ori g d a i _ (congrArg (0x10000000 + · + d.toNat * 131072 + a.toNat * 4096 + i.toNat * 1) (guard_enc g))) hw

theorem xori (g : Guard) (d : BitVec 5) (a : BitVec 5) (i : BitVec 12) : Statement (.xori g d a i) := fun _ hw =>
  decode_of_raw _ _ (raw_xori g d a i _ (congrArg (0x14000000 + · + d.toNat * 131072 + a.toNat * 4096 + i.toNat * 1) (guard_enc g))) hw

theorem shli (g : Guard) (d : BitVec 5) (a : BitVec 5) (m : BitVec 6) : Statement (.shli g d a m) := fun _ hw =>
  decode_of_raw _ _ (raw_shli g d a m _ (congrArg (0x18000000 + · + d.toNat * 131072 + a.toNat * 4096 + m.toNat * 1) (guard_enc g))) hw

theorem shri (g : Guard) (d : BitVec 5) (a : BitVec 5) (m : BitVec 6) : Statement (.shri g d a m) := fun _ hw =>
  decode_of_raw _ _ (raw_shri g d a m _ (congrArg (0x18000400 + · + d.toNat * 131072 + a.toNat * 4096 + m.toNat * 1) (guard_enc g))) hw

theorem sari (g : Guard) (d : BitVec 5) (a : BitVec 5) (m : BitVec 6) : Statement (.sari g d a m) := fun _ hw =>
  decode_of_raw _ _ (raw_sari g d a m _ (congrArg (0x18000800 + · + d.toNat * 131072 + a.toNat * 4096 + m.toNat * 1) (guard_enc g))) hw

theorem rotri (g : Guard) (d : BitVec 5) (a : BitVec 5) (m : BitVec 6) : Statement (.rotri g d a m) := fun _ hw =>
  decode_of_raw _ _ (raw_rotri g d a m _ (congrArg (0x18000C00 + · + d.toNat * 131072 + a.toNat * 4096 + m.toNat * 1) (guard_enc g))) hw

theorem lih (d : BitVec 5) (i : BitVec 21) : Statement (.lih d i) := fun _ hw =>
  decode_of_raw _ _ (raw_lih d i _ rfl) hw

theorem apc (d : BitVec 5) (i : BitVec 21) : Statement (.apc d i) := fun _ hw =>
  decode_of_raw _ _ (raw_apc d i _ rfl) hw

theorem cmp (g : Guard) (q : BitVec 3) (a : BitVec 5) (b : BitVec 5) (c : SCond) : Statement (.cmp g q a b c) := fun _ hw =>
  decode_of_raw _ _ (raw_cmp g q a b c _ (congrArg (0x24000000 + · + q.toNat * 524288 + a.toNat * 4096 + b.toNat * 128 + c.code * 16) (guard_enc g))) hw

theorem cmpi (g : Guard) (q : BitVec 3) (c : SCond) (a : BitVec 5) (i : BitVec 11) : Statement (.cmpi g q c a i) := fun _ hw =>
  decode_of_raw _ _ (raw_cmpi g q c a i _ (congrArg (0x28000000 + · + q.toNat * 524288 + c.code * 65536 + a.toNat * 2048 + i.toNat * 1) (guard_enc g))) hw

theorem pand (g : Guard) (q : BitVec 3) (x : BitVec 3) (y : BitVec 3) : Statement (.pand g q x y) := fun _ hw =>
  decode_of_raw _ _ (raw_pand g q x y _ (congrArg (0x2C000000 + · + q.toNat * 524288 + x.toNat * 65536 + y.toNat * 8192) (guard_enc g))) hw

theorem por (g : Guard) (q : BitVec 3) (x : BitVec 3) (y : BitVec 3) : Statement (.por g q x y) := fun _ hw =>
  decode_of_raw _ _ (raw_por g q x y _ (congrArg (0x2C000001 + · + q.toNat * 524288 + x.toNat * 65536 + y.toNat * 8192) (guard_enc g))) hw

theorem pxor (g : Guard) (q : BitVec 3) (x : BitVec 3) (y : BitVec 3) : Statement (.pxor g q x y) := fun _ hw =>
  decode_of_raw _ _ (raw_pxor g q x y _ (congrArg (0x2C000002 + · + q.toNat * 524288 + x.toNat * 65536 + y.toNat * 8192) (guard_enc g))) hw

theorem pandn (g : Guard) (q : BitVec 3) (x : BitVec 3) (y : BitVec 3) : Statement (.pandn g q x y) := fun _ hw =>
  decode_of_raw _ _ (raw_pandn g q x y _ (congrArg (0x2C000003 + · + q.toNat * 524288 + x.toNat * 65536 + y.toNat * 8192) (guard_enc g))) hw

theorem pnot (g : Guard) (q : BitVec 3) (x : BitVec 3) : Statement (.pnot g q x) := fun _ hw =>
  decode_of_raw _ _ (raw_pnot g q x _ (congrArg (0x2C000004 + · + q.toNat * 524288 + x.toNat * 65536) (guard_enc g))) hw

theorem pmov (g : Guard) (q : BitVec 3) (x : BitVec 3) : Statement (.pmov g q x) := fun _ hw =>
  decode_of_raw _ _ (raw_pmov g q x _ (congrArg (0x2C000005 + · + q.toNat * 524288 + x.toNat * 65536) (guard_enc g))) hw

theorem pset (g : Guard) (q : BitVec 3) : Statement (.pset g q) := fun _ hw =>
  decode_of_raw _ _ (raw_pset g q _ (congrArg (0x2C000006 + · + q.toNat * 524288) (guard_enc g))) hw

theorem pbr (t : BitVec 2) (i : BitVec 24) : Statement (.pbr t i) := fun _ hw =>
  decode_of_raw _ _ (raw_pbr t i _ rfl) hw

theorem br (g : Guard) (t : BitVec 2) : Statement (.br g t) := fun _ hw =>
  decode_of_raw _ _ (raw_br g t _ (congrArg (0x34000000 + · + t.toNat * 1048576) (guard_enc g))) hw

theorem brl (g : Guard) (t : BitVec 2) : Statement (.brl g t) := fun _ hw =>
  decode_of_raw _ _ (raw_brl g t _ (congrArg (0x34080000 + · + t.toNat * 1048576) (guard_enc g))) hw

theorem pbrr (g : Guard) (t : BitVec 2) (a : BitVec 5) : Statement (.pbrr g t a) := fun _ hw =>
  decode_of_raw _ _ (raw_pbrr g t a _ (congrArg (0x38000000 + · + t.toNat * 131072 + a.toNat * 4096) (guard_enc g))) hw

theorem nop (g : Guard) : Statement (.nop g) := fun _ hw =>
  decode_of_raw _ _ (raw_nop g _ (congrArg (0x3C000000 + ·) (guard_enc g))) hw

theorem mfs (g : Guard) (d : BitVec 5) (s : BitVec 10) : Statement (.mfs g d s) := fun _ hw =>
  decode_of_raw _ _ (raw_mfs g d s _ (congrArg (0x3C000001 + · + d.toNat * 131072 + s.toNat * 128) (guard_enc g))) hw

theorem mts (g : Guard) (d : BitVec 5) (s : BitVec 10) : Statement (.mts g d s) := fun _ hw =>
  decode_of_raw _ _ (raw_mts g d s _ (congrArg (0x3C000002 + · + d.toNat * 131072 + s.toNat * 128) (guard_enc g))) hw

theorem trap (g : Guard) (a : BitVec 5) : Statement (.trap g a) := fun _ hw =>
  decode_of_raw _ _ (raw_trap g a _ (congrArg (0x3C000003 + · + a.toNat * 4096) (guard_enc g))) hw

theorem rte (g : Guard) : Statement (.rte g) := fun _ hw =>
  decode_of_raw _ _ (raw_rte g _ (congrArg (0x3C000004 + ·) (guard_enc g))) hw

theorem yield (g : Guard) : Statement (.yield g) := fun _ hw =>
  decode_of_raw _ _ (raw_yield g _ (congrArg (0x3C000005 + ·) (guard_enc g))) hw

theorem tfence (g : Guard) : Statement (.tfence g) := fun _ hw =>
  decode_of_raw _ _ (raw_tfence g _ (congrArg (0x3C000006 + ·) (guard_enc g))) hw

theorem drain (g : Guard) : Statement (.drain g) := fun _ hw =>
  decode_of_raw _ _ (raw_drain g _ (congrArg (0x3C000007 + ·) (guard_enc g))) hw

theorem twait (g : Guard) (d : BitVec 5) (e : Eng) : Statement (.twait g d e) := fun _ hw =>
  decode_of_raw _ _ (raw_twait g d e _ (congrArg (0x3C000008 + · + d.toNat * 131072 + e.code * 4096) (guard_enc g))) hw

theorem cvta (g : Guard) (d : BitVec 5) (a : BitVec 5) (b : Space) : Statement (.cvta g d a b) := fun _ hw =>
  decode_of_raw _ _ (raw_cvta g d a b _ (congrArg (0x3C000009 + · + d.toNat * 131072 + a.toNat * 4096 + b.code * 128) (guard_enc g))) hw

theorem isin (g : Guard) (d : BitVec 5) (a : BitVec 5) (b : Space) : Statement (.isin g d a b) := fun _ hw =>
  decode_of_raw _ _ (raw_isin g d a b _ (congrArg (0x3C00000A + · + d.toNat * 131072 + a.toNat * 4096 + b.code * 128) (guard_enc g))) hw

theorem halt (g : Guard) : Statement (.halt g) := fun _ hw =>
  decode_of_raw _ _ (raw_halt g _ (congrArg (0x3C00000B + ·) (guard_enc g))) hw

theorem rgnLoad (g : Guard) (d : BitVec 5) (a : BitVec 5) (b : BitVec 5) : Statement (.rgnLoad g d a b) := fun _ hw =>
  decode_of_raw _ _ (raw_rgnLoad g d a b _ (congrArg (0x64000000 + · + d.toNat * 131072 + a.toNat * 4096 + b.toNat * 128) (guard_enc g))) hw

theorem rgnStat (g : Guard) (d : BitVec 5) (a : BitVec 5) : Statement (.rgnStat g d a) := fun _ hw =>
  decode_of_raw _ _ (raw_rgnStat g d a _ (congrArg (0x64000001 + · + d.toNat * 131072 + a.toNat * 4096) (guard_enc g))) hw

theorem rgnBind (g : Guard) (d : BitVec 5) (a : BitVec 5) (b : BitVec 5) : Statement (.rgnBind g d a b) := fun _ hw =>
  decode_of_raw _ _ (raw_rgnBind g d a b _ (congrArg (0x64000002 + · + d.toNat * 131072 + a.toNat * 4096 + b.toNat * 128) (guard_enc g))) hw

theorem ldb (g : Guard) (d : BitVec 5) (a : BitVec 5) (i : BitVec 9) : Statement (.ldb g d a i) := fun _ hw =>
  decode_of_raw _ _ (raw_ldb g d a i _ (congrArg (0x40000000 + · + d.toNat * 131072 + a.toNat * 4096 + i.toNat * 1) (guard_enc g))) hw

theorem ldh (g : Guard) (d : BitVec 5) (a : BitVec 5) (i : BitVec 9) : Statement (.ldh g d a i) := fun _ hw =>
  decode_of_raw _ _ (raw_ldh g d a i _ (congrArg (0x40000200 + · + d.toNat * 131072 + a.toNat * 4096 + i.toNat * 1) (guard_enc g))) hw

theorem ldw (g : Guard) (d : BitVec 5) (a : BitVec 5) (i : BitVec 9) : Statement (.ldw g d a i) := fun _ hw =>
  decode_of_raw _ _ (raw_ldw g d a i _ (congrArg (0x40000400 + · + d.toNat * 131072 + a.toNat * 4096 + i.toNat * 1) (guard_enc g))) hw

theorem ldd (g : Guard) (d : BitVec 5) (a : BitVec 5) (i : BitVec 9) : Statement (.ldd g d a i) := fun _ hw =>
  decode_of_raw _ _ (raw_ldd g d a i _ (congrArg (0x40000600 + · + d.toNat * 131072 + a.toNat * 4096 + i.toNat * 1) (guard_enc g))) hw

theorem ldbu (g : Guard) (d : BitVec 5) (a : BitVec 5) (i : BitVec 9) : Statement (.ldbu g d a i) := fun _ hw =>
  decode_of_raw _ _ (raw_ldbu g d a i _ (congrArg (0x40000800 + · + d.toNat * 131072 + a.toNat * 4096 + i.toNat * 1) (guard_enc g))) hw

theorem ldhu (g : Guard) (d : BitVec 5) (a : BitVec 5) (i : BitVec 9) : Statement (.ldhu g d a i) := fun _ hw =>
  decode_of_raw _ _ (raw_ldhu g d a i _ (congrArg (0x40000A00 + · + d.toNat * 131072 + a.toNat * 4096 + i.toNat * 1) (guard_enc g))) hw

theorem ldwu (g : Guard) (d : BitVec 5) (a : BitVec 5) (i : BitVec 9) : Statement (.ldwu g d a i) := fun _ hw =>
  decode_of_raw _ _ (raw_ldwu g d a i _ (congrArg (0x40000C00 + · + d.toNat * 131072 + a.toNat * 4096 + i.toNat * 1) (guard_enc g))) hw

theorem stb (g : Guard) (d : BitVec 5) (a : BitVec 5) (i : BitVec 9) : Statement (.stb g d a i) := fun _ hw =>
  decode_of_raw _ _ (raw_stb g d a i _ (congrArg (0x44000000 + · + d.toNat * 131072 + a.toNat * 4096 + i.toNat * 1) (guard_enc g))) hw

theorem sth (g : Guard) (d : BitVec 5) (a : BitVec 5) (i : BitVec 9) : Statement (.sth g d a i) := fun _ hw =>
  decode_of_raw _ _ (raw_sth g d a i _ (congrArg (0x44000200 + · + d.toNat * 131072 + a.toNat * 4096 + i.toNat * 1) (guard_enc g))) hw

theorem stw (g : Guard) (d : BitVec 5) (a : BitVec 5) (i : BitVec 9) : Statement (.stw g d a i) := fun _ hw =>
  decode_of_raw _ _ (raw_stw g d a i _ (congrArg (0x44000400 + · + d.toNat * 131072 + a.toNat * 4096 + i.toNat * 1) (guard_enc g))) hw

theorem std (g : Guard) (d : BitVec 5) (a : BitVec 5) (i : BitVec 9) : Statement (.std g d a i) := fun _ hw =>
  decode_of_raw _ _ (raw_std g d a i _ (congrArg (0x44000600 + · + d.toNat * 131072 + a.toNat * 4096 + i.toNat * 1) (guard_enc g))) hw

theorem ldaW (g : Guard) (d : BitVec 5) (a : BitVec 5) (s : Scope) : Statement (.ldaW g d a s) := fun _ hw =>
  decode_of_raw _ _ (raw_ldaW g d a s _ (congrArg (0x48000000 + · + d.toNat * 131072 + a.toNat * 4096 + s.code * 64) (guard_enc g))) hw

theorem ldaD (g : Guard) (d : BitVec 5) (a : BitVec 5) (s : Scope) : Statement (.ldaD g d a s) := fun _ hw =>
  decode_of_raw _ _ (raw_ldaD g d a s _ (congrArg (0x48000200 + · + d.toNat * 131072 + a.toNat * 4096 + s.code * 64) (guard_enc g))) hw

theorem strW (g : Guard) (d : BitVec 5) (a : BitVec 5) (s : Scope) : Statement (.strW g d a s) := fun _ hw =>
  decode_of_raw _ _ (raw_strW g d a s _ (congrArg (0x48000400 + · + d.toNat * 131072 + a.toNat * 4096 + s.code * 64) (guard_enc g))) hw

theorem strD (g : Guard) (d : BitVec 5) (a : BitVec 5) (s : Scope) : Statement (.strD g d a s) := fun _ hw =>
  decode_of_raw _ _ (raw_strD g d a s _ (congrArg (0x48000600 + · + d.toNat * 131072 + a.toNat * 4096 + s.code * 64) (guard_enc g))) hw

theorem amoAdd (s : Scope) (o : Order) (d : BitVec 5) (a : BitVec 5) (b : BitVec 5) (w : Wd) : Statement (.amoAdd s o d a b w) := fun _ hw =>
  decode_of_raw _ _ (raw_amoAdd s o d a b w _ rfl) hw

theorem amoAnd (s : Scope) (o : Order) (d : BitVec 5) (a : BitVec 5) (b : BitVec 5) (w : Wd) : Statement (.amoAnd s o d a b w) := fun _ hw =>
  decode_of_raw _ _ (raw_amoAnd s o d a b w _ rfl) hw

theorem amoOr (s : Scope) (o : Order) (d : BitVec 5) (a : BitVec 5) (b : BitVec 5) (w : Wd) : Statement (.amoOr s o d a b w) := fun _ hw =>
  decode_of_raw _ _ (raw_amoOr s o d a b w _ rfl) hw

theorem amoXor (s : Scope) (o : Order) (d : BitVec 5) (a : BitVec 5) (b : BitVec 5) (w : Wd) : Statement (.amoXor s o d a b w) := fun _ hw =>
  decode_of_raw _ _ (raw_amoXor s o d a b w _ rfl) hw

theorem amoMin (s : Scope) (o : Order) (d : BitVec 5) (a : BitVec 5) (b : BitVec 5) (w : Wd) : Statement (.amoMin s o d a b w) := fun _ hw =>
  decode_of_raw _ _ (raw_amoMin s o d a b w _ rfl) hw

theorem amoMax (s : Scope) (o : Order) (d : BitVec 5) (a : BitVec 5) (b : BitVec 5) (w : Wd) : Statement (.amoMax s o d a b w) := fun _ hw =>
  decode_of_raw _ _ (raw_amoMax s o d a b w _ rfl) hw

theorem amoMinu (s : Scope) (o : Order) (d : BitVec 5) (a : BitVec 5) (b : BitVec 5) (w : Wd) : Statement (.amoMinu s o d a b w) := fun _ hw =>
  decode_of_raw _ _ (raw_amoMinu s o d a b w _ rfl) hw

theorem amoMaxu (s : Scope) (o : Order) (d : BitVec 5) (a : BitVec 5) (b : BitVec 5) (w : Wd) : Statement (.amoMaxu s o d a b w) := fun _ hw =>
  decode_of_raw _ _ (raw_amoMaxu s o d a b w _ rfl) hw

theorem amoSwp (s : Scope) (o : Order) (d : BitVec 5) (a : BitVec 5) (b : BitVec 5) (w : Wd) : Statement (.amoSwp s o d a b w) := fun _ hw =>
  decode_of_raw _ _ (raw_amoSwp s o d a b w _ rfl) hw

theorem amoCas (s : Scope) (o : Order) (d : BitVec 5) (a : BitVec 5) (b : BitVec 5) (w : Wd) : Statement (.amoCas s o d a b w) := fun _ hw =>
  decode_of_raw _ _ (raw_amoCas s o d a b w _ rfl) hw

theorem fence (g : Guard) (s : Scope) (k : FKind) : Statement (.fence g s k) := fun _ hw =>
  decode_of_raw _ _ (raw_fence g s k _ (congrArg (0x50000000 + · + s.code * 524288 + k.code * 131072) (guard_enc g))) hw

theorem sbar (g : Guard) (a : BitVec 5) : Statement (.sbar g a) := fun _ hw =>
  decode_of_raw _ _ (raw_sbar g a _ (congrArg (0x50000020 + · + a.toNat * 4096) (guard_enc g))) hw

theorem waitc (g : Guard) (s : Scope) (a : BitVec 5) (b : BitVec 5) : Statement (.waitc g s a b) := fun _ hw =>
  decode_of_raw _ _ (raw_waitc g s a b _ (congrArg (0x50000040 + · + s.code * 524288 + a.toNat * 4096 + b.toNat * 128) (guard_enc g))) hw

theorem tspawn (g : Guard) (d : BitVec 5) (a : BitVec 5) (b : BitVec 5) : Statement (.tspawn g d a b) := fun _ hw =>
  decode_of_raw _ _ (raw_tspawn g d a b _ (congrArg (0x54000000 + · + d.toNat * 131072 + a.toNat * 4096 + b.toNat * 128) (guard_enc g))) hw

theorem texit (g : Guard) : Statement (.texit g) := fun _ hw =>
  decode_of_raw _ _ (raw_texit g _ (congrArg (0x54000001 + ·) (guard_enc g))) hw

theorem exit (g : Guard) : Statement (.exit g) := fun _ hw =>
  decode_of_raw _ _ (raw_exit g _ (congrArg (0x54000002 + ·) (guard_enc g))) hw

theorem recv (g : Guard) (d : BitVec 5) (a : BitVec 5) : Statement (.recv g d a) := fun _ hw =>
  decode_of_raw _ _ (raw_recv g d a _ (congrArg (0x54000003 + · + d.toNat * 131072 + a.toNat * 4096) (guard_enc g))) hw

theorem send (g : Guard) (d : BitVec 5) (a : BitVec 5) (b : BitVec 5) : Statement (.send g d a b) := fun _ hw =>
  decode_of_raw _ _ (raw_send g d a b _ (congrArg (0x54000004 + · + d.toNat * 131072 + a.toNat * 4096 + b.toNat * 128) (guard_enc g))) hw

theorem launch (g : Guard) (d : BitVec 5) (a : BitVec 5) : Statement (.launch g d a) := fun _ hw =>
  decode_of_raw _ _ (raw_launch g d a _ (congrArg (0x54000005 + · + d.toNat * 131072 + a.toNat * 4096) (guard_enc g))) hw

theorem bind (g : Guard) (d : BitVec 5) (a : BitVec 5) : Statement (.bind g d a) := fun _ hw =>
  decode_of_raw _ _ (raw_bind g d a _ (congrArg (0x54000006 + · + d.toNat * 131072 + a.toNat * 4096) (guard_enc g))) hw

theorem dqpush (g : Guard) (d : BitVec 5) (a : BitVec 5) : Statement (.dqpush g d a) := fun _ hw =>
  decode_of_raw _ _ (raw_dqpush g d a _ (congrArg (0x58000000 + · + d.toNat * 131072 + a.toNat * 4096) (guard_enc g))) hw

theorem dqpop (g : Guard) (d : BitVec 5) : Statement (.dqpop g d) := fun _ hw =>
  decode_of_raw _ _ (raw_dqpop g d _ (congrArg (0x58000001 + · + d.toNat * 131072) (guard_enc g))) hw

theorem dqsteal (g : Guard) (d : BitVec 5) (a : BitVec 5) : Statement (.dqsteal g d a) := fun _ hw =>
  decode_of_raw _ _ (raw_dqsteal g d a _ (congrArg (0x58000002 + · + d.toNat * 131072 + a.toNat * 4096) (guard_enc g))) hw

theorem dqlen (g : Guard) (d : BitVec 5) : Statement (.dqlen g d) := fun _ hw =>
  decode_of_raw _ _ (raw_dqlen g d _ (congrArg (0x58000003 + · + d.toNat * 131072) (guard_enc g))) hw

theorem pld (g : Guard) (d : BitVec 5) (a : BitVec 5) (b : BitVec 5) (z : Size) : Statement (.pld g d a b z) := fun _ hw =>
  decode_of_raw _ _ (raw_pld g d a b z _ (congrArg (0x5C000000 + · + d.toNat * 131072 + a.toNat * 4096 + b.toNat * 128 + z.code * 32) (guard_enc g))) hw

theorem pst (g : Guard) (d : BitVec 5) (a : BitVec 5) (b : BitVec 5) (z : Size) : Statement (.pst g d a b z) := fun _ hw =>
  decode_of_raw _ _ (raw_pst g d a b z _ (congrArg (0x5C000008 + · + d.toNat * 131072 + a.toNat * 4096 + b.toNat * 128 + z.code * 32) (guard_enc g))) hw

theorem pldr (g : Guard) (d : BitVec 5) (a : BitVec 5) (b : BitVec 5) : Statement (.pldr g d a b) := fun _ hw =>
  decode_of_raw _ _ (raw_pldr g d a b _ (congrArg (0x5C000050 + · + d.toNat * 131072 + a.toNat * 4096 + b.toNat * 128) (guard_enc g))) hw

theorem pstr (g : Guard) (d : BitVec 5) (a : BitVec 5) (b : BitVec 5) : Statement (.pstr g d a b) := fun _ hw =>
  decode_of_raw _ _ (raw_pstr g d a b _ (congrArg (0x5C000058 + · + d.toNat * 131072 + a.toNat * 4096 + b.toNat * 128) (guard_enc g))) hw

theorem pnew (g : Guard) (d : BitVec 5) (a : BitVec 5) : Statement (.pnew g d a) := fun _ hw =>
  decode_of_raw _ _ (raw_pnew g d a _ (congrArg (0x60000000 + · + d.toNat * 131072 + a.toNat * 4096) (guard_enc g))) hw

theorem pfree (g : Guard) (a : BitVec 5) : Statement (.pfree g a) := fun _ hw =>
  decode_of_raw _ _ (raw_pfree g a _ (congrArg (0x60000001 + · + a.toNat * 4096) (guard_enc g))) hw

theorem plen (g : Guard) (d : BitVec 5) (a : BitVec 5) : Statement (.plen g d a) := fun _ hw =>
  decode_of_raw _ _ (raw_plen g d a _ (congrArg (0x60000002 + · + d.toNat * 131072 + a.toNat * 4096) (guard_enc g))) hw

theorem pstat (g : Guard) (d : BitVec 5) (a : BitVec 5) : Statement (.pstat g d a) := fun _ hw =>
  decode_of_raw _ _ (raw_pstat g d a _ (congrArg (0x60000003 + · + d.toNat * 131072 + a.toNat * 4096) (guard_enc g))) hw

theorem pmap (g : Guard) (d : BitVec 5) (a : BitVec 5) : Statement (.pmap g d a) := fun _ hw =>
  decode_of_raw _ _ (raw_pmap g d a _ (congrArg (0x60000004 + · + d.toNat * 131072 + a.toNat * 4096) (guard_enc g))) hw

theorem punmap (g : Guard) (a : BitVec 5) : Statement (.punmap g a) := fun _ hw =>
  decode_of_raw _ _ (raw_punmap g a _ (congrArg (0x60000005 + · + a.toNat * 4096) (guard_enc g))) hw

theorem post (d : BitVec 5) (a : BitVec 5) (b : BitVec 5) : Statement (.post d a b) := fun _ hw =>
  decode_of_raw _ _ (raw_post d a b _ rfl) hw

theorem precv (g : Guard) (d : BitVec 5) : Statement (.precv g d) := fun _ hw =>
  decode_of_raw _ _ (raw_precv g d _ (congrArg (0x60000007 + · + d.toNat * 131072) (guard_enc g))) hw

theorem vadd (d : BitVec 5) (a : BitVec 5) (b : BitVec 5) (m : BitVec 3) (t : Ty) : Statement (.vadd d a b m t) := fun _ hw =>
  decode_of_raw _ _ (raw_vadd d a b m t _ rfl) hw

theorem vsub (d : BitVec 5) (a : BitVec 5) (b : BitVec 5) (m : BitVec 3) (t : Ty) : Statement (.vsub d a b m t) := fun _ hw =>
  decode_of_raw _ _ (raw_vsub d a b m t _ rfl) hw

theorem vmul (d : BitVec 5) (a : BitVec 5) (b : BitVec 5) (m : BitVec 3) (t : Ty) : Statement (.vmul d a b m t) := fun _ hw =>
  decode_of_raw _ _ (raw_vmul d a b m t _ rfl) hw

theorem vmad (d : BitVec 5) (a : BitVec 5) (b : BitVec 5) (m : BitVec 3) (t : Ty) : Statement (.vmad d a b m t) := fun _ hw =>
  decode_of_raw _ _ (raw_vmad d a b m t _ rfl) hw

theorem vmsb (d : BitVec 5) (a : BitVec 5) (b : BitVec 5) (m : BitVec 3) (t : Ty) : Statement (.vmsb d a b m t) := fun _ hw =>
  decode_of_raw _ _ (raw_vmsb d a b m t _ rfl) hw

theorem vabs (d : BitVec 5) (a : BitVec 5) (m : BitVec 3) (t : Ty) : Statement (.vabs d a m t) := fun _ hw =>
  decode_of_raw _ _ (raw_vabs d a m t _ rfl) hw

theorem vneg (d : BitVec 5) (a : BitVec 5) (m : BitVec 3) (t : Ty) : Statement (.vneg d a m t) := fun _ hw =>
  decode_of_raw _ _ (raw_vneg d a m t _ rfl) hw

theorem vmin (d : BitVec 5) (a : BitVec 5) (b : BitVec 5) (m : BitVec 3) (t : Ty) : Statement (.vmin d a b m t) := fun _ hw =>
  decode_of_raw _ _ (raw_vmin d a b m t _ rfl) hw

theorem vmax (d : BitVec 5) (a : BitVec 5) (b : BitVec 5) (m : BitVec 3) (t : Ty) : Statement (.vmax d a b m t) := fun _ hw =>
  decode_of_raw _ _ (raw_vmax d a b m t _ rfl) hw

theorem vadds (d : BitVec 5) (a : BitVec 5) (b : BitVec 5) (m : BitVec 3) (t : Ty) : Statement (.vadds d a b m t) := fun _ hw =>
  decode_of_raw _ _ (raw_vadds d a b m t _ rfl) hw

theorem vsubs (d : BitVec 5) (a : BitVec 5) (b : BitVec 5) (m : BitVec 3) (t : Ty) : Statement (.vsubs d a b m t) := fun _ hw =>
  decode_of_raw _ _ (raw_vsubs d a b m t _ rfl) hw

theorem vmulhi (d : BitVec 5) (a : BitVec 5) (b : BitVec 5) (m : BitVec 3) (t : Ty) : Statement (.vmulhi d a b m t) := fun _ hw =>
  decode_of_raw _ _ (raw_vmulhi d a b m t _ rfl) hw

theorem vand (d : BitVec 5) (a : BitVec 5) (b : BitVec 5) (m : BitVec 3) (t : Ty) : Statement (.vand d a b m t) := fun _ hw =>
  decode_of_raw _ _ (raw_vand d a b m t _ rfl) hw

theorem vor (d : BitVec 5) (a : BitVec 5) (b : BitVec 5) (m : BitVec 3) (t : Ty) : Statement (.vor d a b m t) := fun _ hw =>
  decode_of_raw _ _ (raw_vor d a b m t _ rfl) hw

theorem vxor (d : BitVec 5) (a : BitVec 5) (b : BitVec 5) (m : BitVec 3) (t : Ty) : Statement (.vxor d a b m t) := fun _ hw =>
  decode_of_raw _ _ (raw_vxor d a b m t _ rfl) hw

theorem vnot (d : BitVec 5) (a : BitVec 5) (m : BitVec 3) (t : Ty) : Statement (.vnot d a m t) := fun _ hw =>
  decode_of_raw _ _ (raw_vnot d a m t _ rfl) hw

theorem vshl (d : BitVec 5) (a : BitVec 5) (b : BitVec 5) (m : BitVec 3) (t : Ty) : Statement (.vshl d a b m t) := fun _ hw =>
  decode_of_raw _ _ (raw_vshl d a b m t _ rfl) hw

theorem vshr (d : BitVec 5) (a : BitVec 5) (b : BitVec 5) (m : BitVec 3) (t : Ty) : Statement (.vshr d a b m t) := fun _ hw =>
  decode_of_raw _ _ (raw_vshr d a b m t _ rfl) hw

theorem vsar (d : BitVec 5) (a : BitVec 5) (b : BitVec 5) (m : BitVec 3) (t : Ty) : Statement (.vsar d a b m t) := fun _ hw =>
  decode_of_raw _ _ (raw_vsar d a b m t _ rfl) hw

theorem vclz (d : BitVec 5) (a : BitVec 5) (m : BitVec 3) (t : Ty) : Statement (.vclz d a m t) := fun _ hw =>
  decode_of_raw _ _ (raw_vclz d a m t _ rfl) hw

theorem vpopc (d : BitVec 5) (a : BitVec 5) (m : BitVec 3) (t : Ty) : Statement (.vpopc d a m t) := fun _ hw =>
  decode_of_raw _ _ (raw_vpopc d a m t _ rfl) hw

theorem vcmp (d : BitVec 3) (a : BitVec 5) (b : BitVec 5) (m : BitVec 3) (c : VCond) (t : Ty) : Statement (.vcmp d a b m c t) := fun _ hw =>
  decode_of_raw _ _ (raw_vcmp d a b m c t _ rfl) hw

theorem vcvt (d : BitVec 5) (a : BitVec 5) (u : Ty) (m : BitVec 3) (s : BitVec 1) (r : Rnd) (t : Ty) : Statement (.vcvt d a u m s r t) := fun _ hw =>
  decode_of_raw _ _ (raw_vcvt d a u m s r t _ rfl) hw

theorem vrcp (d : BitVec 5) (a : BitVec 5) (m : BitVec 3) (t : Ty) : Statement (.vrcp d a m t) := fun _ hw =>
  decode_of_raw _ _ (raw_vrcp d a m t _ rfl) hw

theorem vrsq (d : BitVec 5) (a : BitVec 5) (m : BitVec 3) (t : Ty) : Statement (.vrsq d a m t) := fun _ hw =>
  decode_of_raw _ _ (raw_vrsq d a m t _ rfl) hw

theorem vsqrt (d : BitVec 5) (a : BitVec 5) (m : BitVec 3) (t : Ty) : Statement (.vsqrt d a m t) := fun _ hw =>
  decode_of_raw _ _ (raw_vsqrt d a m t _ rfl) hw

theorem vexp2 (d : BitVec 5) (a : BitVec 5) (m : BitVec 3) (t : Ty) : Statement (.vexp2 d a m t) := fun _ hw =>
  decode_of_raw _ _ (raw_vexp2 d a m t _ rfl) hw

theorem vlog2 (d : BitVec 5) (a : BitVec 5) (m : BitVec 3) (t : Ty) : Statement (.vlog2 d a m t) := fun _ hw =>
  decode_of_raw _ _ (raw_vlog2 d a m t _ rfl) hw

theorem vtanh (d : BitVec 5) (a : BitVec 5) (m : BitVec 3) (t : Ty) : Statement (.vtanh d a m t) := fun _ hw =>
  decode_of_raw _ _ (raw_vtanh d a m t _ rfl) hw

theorem vsin (d : BitVec 5) (a : BitVec 5) (m : BitVec 3) (t : Ty) : Statement (.vsin d a m t) := fun _ hw =>
  decode_of_raw _ _ (raw_vsin d a m t _ rfl) hw

theorem vcos (d : BitVec 5) (a : BitVec 5) (m : BitVec 3) (t : Ty) : Statement (.vcos d a m t) := fun _ hw =>
  decode_of_raw _ _ (raw_vcos d a m t _ rfl) hw

theorem vredadd (d : BitVec 5) (a : BitVec 5) (m : BitVec 3) (t : Ty) : Statement (.vredadd d a m t) := fun _ hw =>
  decode_of_raw _ _ (raw_vredadd d a m t _ rfl) hw

theorem vredmax (d : BitVec 5) (a : BitVec 5) (m : BitVec 3) (t : Ty) : Statement (.vredmax d a m t) := fun _ hw =>
  decode_of_raw _ _ (raw_vredmax d a m t _ rfl) hw

theorem vredmin (d : BitVec 5) (a : BitVec 5) (m : BitVec 3) (t : Ty) : Statement (.vredmin d a m t) := fun _ hw =>
  decode_of_raw _ _ (raw_vredmin d a m t _ rfl) hw

theorem vredor (d : BitVec 5) (a : BitVec 5) (m : BitVec 3) (t : Ty) : Statement (.vredor d a m t) := fun _ hw =>
  decode_of_raw _ _ (raw_vredor d a m t _ rfl) hw

theorem vredand (d : BitVec 5) (a : BitVec 5) (m : BitVec 3) (t : Ty) : Statement (.vredand d a m t) := fun _ hw =>
  decode_of_raw _ _ (raw_vredand d a m t _ rfl) hw

theorem vscan (d : BitVec 5) (a : BitVec 5) (m : BitVec 3) (t : Ty) : Statement (.vscan d a m t) := fun _ hw =>
  decode_of_raw _ _ (raw_vscan d a m t _ rfl) hw

theorem vperm (d : BitVec 5) (a : BitVec 5) (b : BitVec 5) (m : BitVec 3) (t : Ty) : Statement (.vperm d a b m t) := fun _ hw =>
  decode_of_raw _ _ (raw_vperm d a b m t _ rfl) hw

theorem vbcast (d : BitVec 5) (a : BitVec 5) (m : BitVec 3) (t : Ty) : Statement (.vbcast d a m t) := fun _ hw =>
  decode_of_raw _ _ (raw_vbcast d a m t _ rfl) hw

theorem viota (d : BitVec 5) (m : BitVec 3) (t : Ty) : Statement (.viota d m t) := fun _ hw =>
  decode_of_raw _ _ (raw_viota d m t _ rfl) hw

theorem vslide (d : BitVec 5) (a : BitVec 5) (b : BitVec 5) (m : BitVec 3) (t : Ty) : Statement (.vslide d a b m t) := fun _ hw =>
  decode_of_raw _ _ (raw_vslide d a b m t _ rfl) hw

theorem vsel (d : BitVec 5) (a : BitVec 5) (b : BitVec 5) (m : BitVec 3) (t : Ty) : Statement (.vsel d a b m t) := fun _ hw =>
  decode_of_raw _ _ (raw_vsel d a b m t _ rfl) hw

theorem vmovs (d : BitVec 5) (a : BitVec 5) (b : BitVec 5) (t : Ty) : Statement (.vmovs d a b t) := fun _ hw =>
  decode_of_raw _ _ (raw_vmovs d a b t _ rfl) hw

theorem vext (d : BitVec 5) (a : BitVec 5) (b : BitVec 5) (t : Ty) : Statement (.vext d a b t) := fun _ hw =>
  decode_of_raw _ _ (raw_vext d a b t _ rfl) hw

theorem vcmul (d : BitVec 5) (a : BitVec 5) (b : BitVec 5) (m : BitVec 3) (t : Ty) : Statement (.vcmul d a b m t) := fun _ hw =>
  decode_of_raw _ _ (raw_vcmul d a b m t _ rfl) hw

theorem vconj (d : BitVec 5) (a : BitVec 5) (m : BitVec 3) (t : Ty) : Statement (.vconj d a m t) := fun _ hw =>
  decode_of_raw _ _ (raw_vconj d a m t _ rfl) hw

theorem mand (d : BitVec 3) (a : BitVec 3) (b : BitVec 3) (t : Ty) : Statement (.mand d a b t) := fun _ hw =>
  decode_of_raw _ _ (raw_mand d a b t _ rfl) hw

theorem mor (d : BitVec 3) (a : BitVec 3) (b : BitVec 3) (t : Ty) : Statement (.mor d a b t) := fun _ hw =>
  decode_of_raw _ _ (raw_mor d a b t _ rfl) hw

theorem mxor (d : BitVec 3) (a : BitVec 3) (b : BitVec 3) (t : Ty) : Statement (.mxor d a b t) := fun _ hw =>
  decode_of_raw _ _ (raw_mxor d a b t _ rfl) hw

theorem mnot (d : BitVec 3) (a : BitVec 3) (t : Ty) : Statement (.mnot d a t) := fun _ hw =>
  decode_of_raw _ _ (raw_mnot d a t _ rfl) hw

theorem mpop (d : BitVec 5) (a : BitVec 3) (m : BitVec 3) (t : Ty) : Statement (.mpop d a m t) := fun _ hw =>
  decode_of_raw _ _ (raw_mpop d a m t _ rfl) hw

theorem vany (d : BitVec 3) (a : BitVec 3) (m : BitVec 3) (t : Ty) : Statement (.vany d a m t) := fun _ hw =>
  decode_of_raw _ _ (raw_vany d a m t _ rfl) hw

theorem vall (d : BitVec 3) (a : BitVec 3) (m : BitVec 3) (t : Ty) : Statement (.vall d a m t) := fun _ hw =>
  decode_of_raw _ _ (raw_vall d a m t _ rfl) hw

theorem vld (v : BitVec 5) (a : BitVec 5) (m : BitVec 3) (t : Ty) : Statement (.vld v a m t) := fun _ hw =>
  decode_of_raw _ _ (raw_vld v a m t _ rfl) hw

theorem vlds (v : BitVec 5) (a : BitVec 5) (x : BitVec 5) (m : BitVec 3) (t : Ty) : Statement (.vlds v a x m t) := fun _ hw =>
  decode_of_raw _ _ (raw_vlds v a x m t _ rfl) hw

theorem vgath (v : BitVec 5) (a : BitVec 5) (x : BitVec 5) (m : BitVec 3) (t : Ty) : Statement (.vgath v a x m t) := fun _ hw =>
  decode_of_raw _ _ (raw_vgath v a x m t _ rfl) hw

theorem vst (v : BitVec 5) (a : BitVec 5) (m : BitVec 3) (t : Ty) : Statement (.vst v a m t) := fun _ hw =>
  decode_of_raw _ _ (raw_vst v a m t _ rfl) hw

theorem vsts (v : BitVec 5) (a : BitVec 5) (x : BitVec 5) (m : BitVec 3) (t : Ty) : Statement (.vsts v a x m t) := fun _ hw =>
  decode_of_raw _ _ (raw_vsts v a x m t _ rfl) hw

theorem vscat (v : BitVec 5) (a : BitVec 5) (x : BitVec 5) (m : BitVec 3) (t : Ty) : Statement (.vscat v a x m t) := fun _ hw =>
  decode_of_raw _ _ (raw_vscat v a x m t _ rfl) hw

theorem vamoAdd (v : BitVec 5) (i : BitVec 5) (a : BitVec 5) (m : BitVec 3) (s : Scope) (w : Wd) : Statement (.vamoAdd v i a m s w) := fun _ hw =>
  decode_of_raw _ _ (raw_vamoAdd v i a m s w _ rfl) hw

theorem vamoOr (v : BitVec 5) (i : BitVec 5) (a : BitVec 5) (m : BitVec 3) (s : Scope) (w : Wd) : Statement (.vamoOr v i a m s w) := fun _ hw =>
  decode_of_raw _ _ (raw_vamoOr v i a m s w _ rfl) hw

theorem vamoAnd (v : BitVec 5) (i : BitVec 5) (a : BitVec 5) (m : BitVec 3) (s : Scope) (w : Wd) : Statement (.vamoAnd v i a m s w) := fun _ hw =>
  decode_of_raw _ _ (raw_vamoAnd v i a m s w _ rfl) hw

theorem vamoXor (v : BitVec 5) (i : BitVec 5) (a : BitVec 5) (m : BitVec 3) (s : Scope) (w : Wd) : Statement (.vamoXor v i a m s w) := fun _ hw =>
  decode_of_raw _ _ (raw_vamoXor v i a m s w _ rfl) hw

theorem vamoMin (v : BitVec 5) (i : BitVec 5) (a : BitVec 5) (m : BitVec 3) (s : Scope) (w : Wd) : Statement (.vamoMin v i a m s w) := fun _ hw =>
  decode_of_raw _ _ (raw_vamoMin v i a m s w _ rfl) hw

theorem vamoMax (v : BitVec 5) (i : BitVec 5) (a : BitVec 5) (m : BitVec 3) (s : Scope) (w : Wd) : Statement (.vamoMax v i a m s w) := fun _ hw =>
  decode_of_raw _ _ (raw_vamoMax v i a m s w _ rfl) hw

theorem vpop (v : BitVec 5) (b : BitVec 4) : Statement (.vpop v b) := fun _ hw =>
  decode_of_raw _ _ (raw_vpop v b _ rfl) hw

theorem vpush (v : BitVec 5) (b : BitVec 4) : Statement (.vpush v b) := fun _ hw =>
  decode_of_raw _ _ (raw_vpush v b _ rfl) hw

theorem vpeek (v : BitVec 5) (b : BitVec 4) : Statement (.vpeek v b) := fun _ hw =>
  decode_of_raw _ _ (raw_vpeek v b _ rfl) hw

theorem mldw (a : BitVec 5) (t : Ty) (y : BitVec 4) (p : BitVec 1) : Statement (.mldw a t y p) := fun _ hw =>
  decode_of_raw _ _ (raw_mldw a t y p _ rfl) hw

theorem mswp : Statement (.mswp) := fun _ hw =>
  decode_of_raw _ _ (raw_mswp _ rfl) hw

theorem mtag (a : BitVec 5) : Statement (.mtag a) := fun _ hw =>
  decode_of_raw _ _ (raw_mtag a _ rfl) hw

theorem mmul (e : BitVec 4) (b : BitVec 5) (x : BitVec 4) (t : Ty) (r : BitVec 2) (p : BitVec 1) : Statement (.mmul e b x t r p) := fun _ hw =>
  decode_of_raw _ _ (raw_mmul e b x t r p _ rfl) hw

theorem mmulz (e : BitVec 4) (b : BitVec 5) (x : BitVec 4) (t : Ty) (r : BitVec 2) (p : BitVec 1) : Statement (.mmulz e b x t r p) := fun _ hw =>
  decode_of_raw _ _ (raw_mmulz e b x t r p _ rfl) hw

theorem mrel (x : BitVec 4) : Statement (.mrel x) := fun _ hw =>
  decode_of_raw _ _ (raw_mrel x _ rfl) hw

theorem mzero (x : BitVec 4) (k : AKind) : Statement (.mzero x k) := fun _ hw =>
  decode_of_raw _ _ (raw_mzero x k _ rfl) hw

theorem mstat (d : BitVec 5) (x : BitVec 4) (p : BitVec 1) : Statement (.mstat d x p) := fun _ hw =>
  decode_of_raw _ _ (raw_mstat d x p _ rfl) hw

theorem mlda (e : BitVec 4) (b : BitVec 5) (x : BitVec 4) (k : AKind) : Statement (.mlda e b x k) := fun _ hw =>
  decode_of_raw _ _ (raw_mlda e b x k _ rfl) hw

theorem mrd (o : BitVec 1) (e : BitVec 4) (b : BitVec 5) (x : BitVec 4) (t : Ty) (r : Rnd) : Statement (.mrd o e b x t r) := fun _ hw =>
  decode_of_raw _ _ (raw_mrd o e b x t r _ rfl) hw

theorem mrds (o : BitVec 1) (e : BitVec 4) (b : BitVec 5) (x : BitVec 4) (t : Ty) (r : Rnd) : Statement (.mrds o e b x t r) := fun _ hw =>
  decode_of_raw _ _ (raw_mrds o e b x t r _ rfl) hw

theorem sbdef (e : BitVec 4) (a : BitVec 5) (b : BitVec 5) : Statement (.sbdef e a b) := fun _ hw =>
  decode_of_raw _ _ (raw_sbdef e a b _ rfl) hw

theorem stdef (e : BitVec 3) (a : BitVec 5) (b : BitVec 5) : Statement (.stdef e a b) := fun _ hw =>
  decode_of_raw _ _ (raw_stdef e a b _ rfl) hw

theorem stdim (e : BitVec 3) (a : BitVec 5) (b : BitVec 5) : Statement (.stdim e a b) := fun _ hw =>
  decode_of_raw _ _ (raw_stdim e a b _ rfl) hw

theorem stpos (e : BitVec 3) (a : BitVec 5) : Statement (.stpos e a) := fun _ hw =>
  decode_of_raw _ _ (raw_stpos e a _ rfl) hw

theorem strst (e : BitVec 3) : Statement (.strst e) := fun _ hw =>
  decode_of_raw _ _ (raw_strst e _ rfl) hw

theorem copy (s : BitVec 5) (d : BitVec 5) (a : BitVec 5) (b : BitVec 5) : Statement (.copy s d a b) := fun _ hw =>
  decode_of_raw _ _ (raw_copy s d a b _ rfl) hw

theorem copym (s : BitVec 5) (d : BitVec 4) (a : BitVec 5) (b : BitVec 5) : Statement (.copym s d a b) := fun _ hw =>
  decode_of_raw _ _ (raw_copym s d a b _ rfl) hw

theorem cqnt (s : BitVec 5) (d : BitVec 5) (a : BitVec 5) (b : BitVec 5) : Statement (.cqnt s d a b) := fun _ hw =>
  decode_of_raw _ _ (raw_cqnt s d a b _ rfl) hw

theorem cexp (s : BitVec 5) (d : BitVec 5) (a : BitVec 5) (b : BitVec 5) : Statement (.cexp s d a b) := fun _ hw =>
  decode_of_raw _ _ (raw_cexp s d a b _ rfl) hw

theorem ccvt (s : BitVec 5) (d : BitVec 5) (a : BitVec 5) (b : BitVec 5) : Statement (.ccvt s d a b) := fun _ hw =>
  decode_of_raw _ _ (raw_ccvt s d a b _ rfl) hw

theorem cfill (d : BitVec 5) (a : BitVec 5) (b : BitVec 5) : Statement (.cfill d a b) := fun _ hw =>
  decode_of_raw _ _ (raw_cfill d a b _ rfl) hw

theorem rld (a : BitVec 5) (b : BitVec 5) (c : BitVec 5) (s : Scope) : Statement (.rld a b c s) := fun _ hw =>
  decode_of_raw _ _ (raw_rld a b c s _ rfl) hw

theorem rst (a : BitVec 5) (b : BitVec 5) (c : BitVec 5) (s : Scope) : Statement (.rst a b c s) := fun _ hw =>
  decode_of_raw _ _ (raw_rst a b c s _ rfl) hw

theorem ramo (a : BitVec 5) (b : BitVec 5) (c : BitVec 5) (s : Scope) (f : BitVec 3) : Statement (.ramo a b c s f) := fun _ hw =>
  decode_of_raw _ _ (raw_ramo a b c s f _ rfl) hw

theorem rfence (s : Scope) : Statement (.rfence s) := fun _ hw =>
  decode_of_raw _ _ (raw_rfence s _ rfl) hw

theorem lcnt (a : BitVec 5) : Statement (.lcnt a) := fun _ hw =>
  decode_of_raw _ _ (raw_lcnt a _ rfl) hw

theorem leaseAsk (a : BitVec 5) (b : BitVec 5) (c : BitVec 5) : Statement (.leaseAsk a b c) := fun _ hw =>
  decode_of_raw _ _ (raw_leaseAsk a b c _ rfl) hw

theorem leaseGive (a : BitVec 5) (b : BitVec 5) : Statement (.leaseGive a b) := fun _ hw =>
  decode_of_raw _ _ (raw_leaseGive a b _ rfl) hw

theorem leaseStat (a : BitVec 5) (b : BitVec 5) : Statement (.leaseStat a b) := fun _ hw =>
  decode_of_raw _ _ (raw_leaseStat a b _ rfl) hw

theorem fctl (a : BitVec 5) (b : BitVec 5) : Statement (.fctl a b) := fun _ hw =>
  decode_of_raw _ _ (raw_fctl a b _ rfl) hw

theorem fstat (a : BitVec 5) (b : BitVec 5) : Statement (.fstat a b) := fun _ hw =>
  decode_of_raw _ _ (raw_fstat a b _ rfl) hw

theorem dep (g : Guard) (x : BitVec 7) (y : BitVec 7) (z : BitVec 7) : Statement (.dep g x y z) := fun _ hw =>
  decode_of_raw _ _ (raw_dep g x y z _ (congrArg (0xF8000000 + · + x.toNat * 16384 + y.toNat * 128 + z.toNat * 1) (guard_enc g))) hw

theorem vwinWrite (v : Word) : Statement (.vwinWrite v) := fun h => Bool.noConfusion h

theorem srseedWrite (v : Word) : Statement (.srseedWrite v) := fun h => Bool.noConfusion h

theorem rmodeWrite (v : Word) : Statement (.rmodeWrite v) := fun h => Bool.noConfusion h

theorem leaseqRead (d : BitVec 5) : Statement (.leaseqRead d) := fun h => Bool.noConfusion h

theorem registerWrite (r : MReg) (v : Word) : Statement (.registerWrite r v) := fun h => Bool.noConfusion h

theorem sequencerResultLanding (tile task k : Nat) : Statement (.sequencerResultLanding tile task k) := fun h => Bool.noConfusion h

theorem engineQueueHeadIssue (tile : Nat) (e : Eng) (budget : Nat) : Statement (.engineQueueHeadIssue tile e budget) := fun h => Bool.noConfusion h

theorem engineFaultDelivery (tile : Nat) : Statement (.engineFaultDelivery tile) := fun h => Bool.noConfusion h

theorem arrayRowExit (tile : Nat) : Statement (.arrayRowExit tile) := fun h => Bool.noConfusion h

theorem planeLoadComplete (tile plane : Nat) : Statement (.planeLoadComplete tile plane) := fun h => Bool.noConfusion h

theorem streamBufferFire (tile : Nat) (e : Eng) (k : Nat) : Statement (.streamBufferFire tile e k) := fun h => Bool.noConfusion h

theorem copyPieceLand (tile : Nat) : Statement (.copyPieceLand tile) := fun h => Bool.noConfusion h

theorem copyCounterAdd (tile : Nat) : Statement (.copyCounterAdd tile) := fun h => Bool.noConfusion h

theorem copymFollowOnFill (tile : Nat) : Statement (.copymFollowOnFill tile) := fun h => Bool.noConfusion h

theorem remoteRequestArrival (k : Nat) : Statement (.remoteRequestArrival k) := fun h => Bool.noConfusion h

theorem remoteResponseLanding (k : Nat) (ans : PeerAns) : Statement (.remoteResponseLanding k ans) := fun h => Bool.noConfusion h

theorem writeAckLanding (k : Nat) (ans : PeerAns) : Statement (.writeAckLanding k ans) := fun h => Bool.noConfusion h

theorem rstCounterMessage (k : Nat) : Statement (.rstCounterMessage k) := fun h => Bool.noConfusion h

theorem crossPackageRequest (q : PeerReq) : Statement (.crossPackageRequest q) := fun h => Bool.noConfusion h

theorem sendArrival (k : Nat) : Statement (.sendArrival k) := fun h => Bool.noConfusion h

theorem dqstealArrival (k : Nat) : Statement (.dqstealArrival k) := fun h => Bool.noConfusion h

theorem waitcWake (loc : Nat) : Statement (.waitcWake loc) := fun h => Bool.noConfusion h

theorem flitOutOfRectangle (tile ctx : Nat) : Statement (.flitOutOfRectangle tile ctx) := fun h => Bool.noConfusion h

theorem parcelOffer (o : Offer) : Statement (.parcelOffer o) := fun h => Bool.noConfusion h

theorem parcelLastByteLands (o : Offer) (bytes : List PByte) : Statement (.parcelLastByteLands o bytes) := fun h => Bool.noConfusion h

theorem parcelAcknowledgement (o : Offer) : Statement (.parcelAcknowledgement o) := fun h => Bool.noConfusion h

theorem hostSubmissionIntake (ctx queue : Nat) : Statement (.hostSubmissionIntake ctx queue) := fun h => Bool.noConfusion h

theorem castOn (part : Nat) : Statement (.castOn part) := fun h => Bool.noConfusion h

theorem stitchDispatch (part : Nat) : Statement (.stitchDispatch part) := fun h => Bool.noConfusion h

theorem stitchStart (tile : Nat) : Statement (.stitchStart tile) := fun h => Bool.noConfusion h

theorem nodeComplete (part slot node : Nat) : Statement (.nodeComplete part slot node) := fun h => Bool.noConfusion h

theorem graphComplete (part slot : Nat) : Statement (.graphComplete part slot) := fun h => Bool.noConfusion h

theorem widthChange (part slot : Nat) : Statement (.widthChange part slot) := fun h => Bool.noConfusion h

theorem nodeWatchdogExpiry (part slot node : Nat) : Statement (.nodeWatchdogExpiry part slot node) := fun h => Bool.noConfusion h

theorem sliceEnd (part : Nat) : Statement (.sliceEnd part) := fun h => Bool.noConfusion h

theorem bindOffTokenHop (part : Nat) : Statement (.bindOffTokenHop part) := fun h => Bool.noConfusion h

theorem tileSwitch (tile : Nat) : Statement (.tileSwitch tile) := fun h => Bool.noConfusion h

theorem graceExpiry (part : Nat) : Statement (.graceExpiry part) := fun h => Bool.noConfusion h

theorem contextResume (ctx : Nat) : Statement (.contextResume ctx) := fun h => Bool.noConfusion h

theorem hangWatchdogExpiry (ctx : Nat) : Statement (.hangWatchdogExpiry ctx) := fun h => Bool.noConfusion h

theorem lateFlagRaise (ctx tile task : Nat) (f : BitVec 8) : Statement (.lateFlagRaise ctx tile task f) := fun h => Bool.noConfusion h

theorem partitionCreate (num : Nat) (v : Word) : Statement (.partitionCreate num v) := fun h => Bool.noConfusion h

theorem partitionResize (num : Nat) (v : Word) : Statement (.partitionResize num v) := fun h => Bool.noConfusion h

theorem partitionDelete (num : Nat) : Statement (.partitionDelete num) := fun h => Bool.noConfusion h

theorem widthCapWrite (num cap : Nat) : Statement (.widthCapWrite num cap) := fun h => Bool.noConfusion h

theorem vfEnable (n : Nat) : Statement (.vfEnable n) := fun h => Bool.noConfusion h

theorem contextBind (n : Nat) (rec : CtxRec) : Statement (.contextBind n rec) := fun h => Bool.noConfusion h

theorem contextUnbind (n : Nat) : Statement (.contextUnbind n) := fun h => Bool.noConfusion h

theorem scheduleEntryWrite (num idx : Nat) (v : BitVec 32) : Statement (.scheduleEntryWrite num idx v) := fun h => Bool.noConfusion h

theorem shootdownRequest (ctx lo hi : Nat) : Statement (.shootdownRequest ctx lo hi) := fun h => Bool.noConfusion h

theorem forcedPreemptRequest (ctx : Nat) : Statement (.forcedPreemptRequest ctx) := fun h => Bool.noConfusion h

theorem contextRemoveRequest (ctx : Nat) : Statement (.contextRemoveRequest ctx) := fun h => Bool.noConfusion h

theorem functionLevelReset (n : Nat) : Statement (.functionLevelReset n) := fun h => Bool.noConfusion h

theorem submissionDoorbellWrite (n q : Nat) (prod : BitVec 32) : Statement (.submissionDoorbellWrite n q prod) := fun h => Bool.noConfusion h

theorem consumerDoorbellWrite (n : Nat) (events : Bool) (cons : BitVec 32) : Statement (.consumerDoorbellWrite n events cons) := fun h => Bool.noConfusion h

theorem queueConfigWrite (n q : Nat) (isBase : Bool) (v : Word) : Statement (.queueConfigWrite n q isBase v) := fun h => Bool.noConfusion h

theorem msixTestWrite (n vec : Nat) : Statement (.msixTestWrite n vec) := fun h => Bool.noConfusion h

theorem attestationRequest (nonce : BitVec 512) : Statement (.attestationRequest nonce) := fun h => Bool.noConfusion h

theorem supervisorImageInstall (num slot : Nat) (image sig : List Byte) : Statement (.supervisorImageInstall num slot image sig) := fun h => Bool.noConfusion h

theorem keySlotInstall (slot : Nat) (key sig : List Byte) : Statement (.keySlotInstall slot key sig) := fun h => Bool.noConfusion h

theorem keySlotRevoke (slot : Nat) : Statement (.keySlotRevoke slot) := fun h => Bool.noConfusion h

theorem regionVerifyDone (v : VerifyEnd) : Statement (.regionVerifyDone v) := fun h => Bool.noConfusion h

theorem regionQuiesced (region : Nat) : Statement (.regionQuiesced region) := fun h => Bool.noConfusion h

theorem regionProgramDone (region : Nat) : Statement (.regionProgramDone region) := fun h => Bool.noConfusion h

theorem portBindingApply (region port : Nat) : Statement (.portBindingApply region port) := fun h => Bool.noConfusion h

theorem sidebandDelivery (region port : Nat) : Statement (.sidebandDelivery region port) := fun h => Bool.noConfusion h

theorem podBringUp (id : BitVec 8) (members : List Nat) : Statement (.podBringUp id members) := fun h => Bool.noConfusion h

theorem revokeCycle (offers : List FarOffer) (dark : CycleLosses) : Statement (.revokeCycle offers dark) := fun h => Bool.noConfusion h

theorem laneRetuneDone (peer : Nat) (r : RetuneEnd) : Statement (.laneRetuneDone peer r) := fun h => Bool.noConfusion h

theorem lossOfLight (peer : Nat) (l : LossSeen) : Statement (.lossOfLight peer l) := fun h => Bool.noConfusion h

theorem elsFailure (e : ModuleLoss) : Statement (.elsFailure e) := fun h => Bool.noConfusion h

theorem farEndLossReport (peer : Nat) (l : LossSeen) : Statement (.farEndLossReport peer l) := fun h => Bool.noConfusion h

theorem elsRelit (e : ModuleLit) : Statement (.elsRelit e) := fun h => Bool.noConfusion h

theorem flitReceive (peer : Nat) (seq : BitVec 24) (crcOk : Bool) (l : FlitLine) : Statement (.flitReceive peer seq crcOk l) := fun h => Bool.noConfusion h

theorem linkAckTimer (peer : Nat) : Statement (.linkAckTimer peer) := fun h => Bool.noConfusion h

theorem linkAckReceive (peer : Nat) (ack : LinkAck) : Statement (.linkAckReceive peer ack) := fun h => Bool.noConfusion h

theorem replayTimeout (peer : Nat) : Statement (.replayTimeout peer) := fun h => Bool.noConfusion h

theorem peerTimeout (ctx peer : Nat) : Statement (.peerTimeout ctx peer) := fun h => Bool.noConfusion h

theorem ethFrameReceive (port : Nat) (frame : EthFrame) : Statement (.ethFrameReceive port frame) := fun h => Bool.noConfusion h

theorem glueClassifyAnswer (port flow : Nat) : Statement (.glueClassifyAnswer port flow) := fun h => Bool.noConfusion h

theorem glueClassifyTimeout (port : Nat) : Statement (.glueClassifyTimeout port) := fun h => Bool.noConfusion h

theorem pauseRenewal (port flow : Nat) : Statement (.pauseRenewal port flow) := fun h => Bool.noConfusion h

theorem glueWrite (port : Nat) (v : Word) : Statement (.glueWrite port v) := fun h => Bool.noConfusion h

theorem clkplanWrite (v : Word) : Statement (.clkplanWrite v) := fun h => Bool.noConfusion h

theorem clockGlideStep : Statement (.clockGlideStep) := fun h => Bool.noConfusion h

theorem spurListWrite (n : Nat) (v : Word) : Statement (.spurListWrite n v) := fun h => Bool.noConfusion h

theorem thermcfgWrite (v : Word) : Statement (.thermcfgWrite v) := fun h => Bool.noConfusion h

theorem powerWindow (watts : Nat) : Statement (.powerWindow watts) := fun h => Bool.noConfusion h

theorem qosRefill (port : Nat) : Statement (.qosRefill port) := fun h => Bool.noConfusion h

theorem weightRefreshWindow (phase : Nat) : Statement (.weightRefreshWindow phase) := fun h => Bool.noConfusion h

theorem thermalWarn (temp sensor : Nat) : Statement (.thermalWarn temp sensor) := fun h => Bool.noConfusion h

theorem thermalThrottle (temp sensor : Nat) : Statement (.thermalThrottle temp sensor) := fun h => Bool.noConfusion h

theorem throttleClear : Statement (.throttleClear) := fun h => Bool.noConfusion h

theorem thermalHalt (temp sensor : Nat) : Statement (.thermalHalt temp sensor) := fun h => Bool.noConfusion h

theorem thermalHaltClear : Statement (.thermalHaltClear) := fun h => Bool.noConfusion h

theorem thermalCut (temp sensor : Nat) : Statement (.thermalCut temp sensor) := fun h => Bool.noConfusion h

theorem droopDetect (block : Nat) : Statement (.droopDetect block) := fun h => Bool.noConfusion h

theorem droopStretchEnd (block : Nat) : Statement (.droopStretchEnd block) := fun h => Bool.noConfusion h

theorem blockIdle (block : Nat) : Statement (.blockIdle block) := fun h => Bool.noConfusion h

theorem blockHoldExpiry (block : Nat) : Statement (.blockHoldExpiry block) := fun h => Bool.noConfusion h

theorem blockWakeRequest (block : Nat) : Statement (.blockWakeRequest block) := fun h => Bool.noConfusion h

theorem blockWakeGrant : Statement (.blockWakeGrant) := fun h => Bool.noConfusion h

theorem blockWakeComplete (block : Nat) : Statement (.blockWakeComplete block) := fun h => Bool.noConfusion h

theorem eccCorrection (loc : Nat) (uncorrectable : Bool) : Statement (.eccCorrection loc uncorrectable) := fun h => Bool.noConfusion h

theorem hbmRowRepair (row : Nat) : Statement (.hbmRowRepair row) := fun h => Bool.noConfusion h

theorem l2TagParityError (slice way : Nat) : Statement (.l2TagParityError slice way) := fun h => Bool.noConfusion h

theorem powerUp (fw : Firmware) : Statement (.powerUp fw) := fun h => Bool.noConfusion h

theorem frameCrossing (region port : Nat) (beat : Beat) : Statement (.frameCrossing region port beat) := fun h => Bool.noConfusion h

theorem parcelOfferAnswer (o : Offer) (status : Nat) : Statement (.parcelOfferAnswer o status) := fun h => Bool.noConfusion h

theorem forcedSaveDone (ctx : Nat) : Statement (.forcedSaveDone ctx) := fun h => Bool.noConfusion h

theorem vfDisable (n : Nat) : Statement (.vfDisable n) := fun h => Bool.noConfusion h

theorem thermWarnClear : Statement (.thermWarnClear) := fun h => Bool.noConfusion h

theorem supplyFault : Statement (.supplyFault) := fun h => Bool.noConfusion h

end Sys2Proof.Laws.RoundTrip
end

