-- ==== Sys2Proof/Laws/Pieces.lean ====
section
/-! SUPPORT. Pieces.lean: what a slice port that admits a request, a range over two pages, the pieces of a record, and the bytes that
a C word holds ahead of its progress point can do. -/

namespace Sys2Proof.Machine

/-! ### Requests at a slice port (R282) -/

/-- A request that is admitted changes what a bucket or a pool holds, and nothing else. -/
theorem State.admitted_rest {s t : State} {c p loc n : Nat} (h : s.admitted c p loc n = .ok t) :
    { t with ctxs := s.ctxs, parts := s.parts } = s := by
  simp only [State.admitted] at h
  split at h
  · cases h; rfl
  split at h
  · cases h; rfl
  split at h
  · cases h; rfl
  · cases h

theorem State.admitted_mem {s t : State} {c p loc n : Nat} (h : s.admitted c p loc n = .ok t) : t.mem = s.mem :=
  by have e := congrArg State.mem (State.admitted_rest h); exact e
theorem State.admitted_byte {s t : State} {c p loc n : Nat} (h : s.admitted c p loc n = .ok t) (a : Nat) : t.byte a = s.byte a := by
  simp only [State.byte, State.admitted_mem h]
theorem State.admitted_tiles {s t : State} {c p loc n : Nat} (h : s.admitted c p loc n = .ok t) : t.tiles = s.tiles :=
  by have e := congrArg State.tiles (State.admitted_rest h); exact e
theorem State.admitted_poison {s t : State} {c p loc n : Nat} (h : s.admitted c p loc n = .ok t) : t.poison = s.poison :=
  by have e := congrArg State.poison (State.admitted_rest h); exact e

/-- What no slice port holds is always admitted. -/
theorem State.admitted_sram (s : State) (c p loc n : Nat) (h : 2 ^ 40 ≤ loc) : s.admitted c p loc n = .ok s := by
  simp only [State.admitted, if_pos h]

/-! ### A range over two pages (R11) -/

/-- A range inside one page of 4 KiB is translated by its first byte. -/
theorem State.translateSpan_inside (s : State) (c : Nat) (va : Word) (n : Nat) (k : AccKind) (lv : Level) (die : Nat)
    (h : n ≤ 4096 - va.toNat % 4096) : s.translateSpan c va n k lv die = s.translate c va k lv die := by
  simp only [State.translateSpan, if_pos h]
  cases s.translate c va k lv die <;> rfl

/-- A range that translates begins where its first byte does. -/
theorem State.translateSpan_first {s : State} {c : Nat} {va : Word} {n : Nat} {k : AccKind} {lv : Level} {die pa : Nat}
    (h : s.translateSpan c va n k lv die = .ok pa) : s.translate c va k lv die = .ok pa := by
  simp only [State.translateSpan] at h
  cases ht : s.translate c va k lv die with
  | error e => rw [ht] at h; cases h
  | ok q =>
    rw [ht] at h
    simp only [bind, Except.bind] at h
    split at h
    · exact h
    · split at h
      · cases h
      · split at h
        · exact h
        · cases h

/-! ### The pieces of a record (R200, R246) -/

/-- With enough pieces allowed, exactly `lim` bytes are read. -/
theorem State.readPieces_length {w : Who} {a : Word} (n : Nat) : ∀ {s t : State} {lim : Nat} {got bs : List Byte},
    lim = 0 ∨ lim + got.length % 64 ≤ 64 * n → s.readPieces w a n lim got = .ok (t, bs) → bs.length = got.length + lim := by
  induction n with
  | zero =>
    intro s t lim got bs hn h
    simp only [State.readPieces] at h
    cases h
    omega
  | succ n ih =>
    intro s t lim got bs hn h
    simp only [State.readPieces] at h
    split at h
    · cases h; omega
    · simp only [bind, Except.bind] at h
      split at h
      · cases h
      · split at h
        · cases h
        · split at h
          · cases h
          · have := ih (by simp only [List.length_append, State.bytesAt, List.length_map, List.length_range]; omega) h
            simp only [List.length_append, State.bytesAt, List.length_map, List.length_range] at this
            omega

/-! ### What a C word holds ahead of its progress point (R224, R275) -/

/-- A buffer that is no source of the C word at the head is as it was. -/
theorem Tile.passAhead_other (t : Tile) (n : Nat) (h : ∀ x r, t.cq = x :: r → sourceOf x.word ≠ 16 + n) : t.passAhead n = t := by
  simp only [Tile.passAhead]
  split
  · rename_i x r b hq hb
    rw [if_neg (fun hc => h x r hq hc.1)]
  · rfl

/-- A C word that holds nothing ahead of CP is as it was. -/
theorem Tile.passAhead_none (t : Tile) (n : Nat) (h : ∀ x r, t.cq = x :: r → x.inb.length ≤ x.own) : t.passAhead n = t := by
  simp only [Tile.passAhead]
  split
  · rename_i x r b hq hb
    rw [if_neg (fun hc => absurd hc.2 (Nat.not_lt.mpr (h x r hq)))]
  · rfl

/-- A word that has passed nothing leaves its source buffer as it is. -/
theorem Tile.giveBack_own (u : Tile) (x : Entry) (src : Nat) (h : x.own = 0) :
    u.giveBack x src = (u, { x with inb := [], raw := [] }) := by
  simp only [Tile.giveBack, h, bne_self_eq_false, Bool.and_false, Bool.false_eq_true, if_false, List.take_zero]

/-! ### The lease agent's adds (R235, R395) -/

@[simp] theorem State.leaseAdd_none (s : State) (h : s.pod.adds = []) : s.leaseAdd = .next s := by simp only [State.leaseAdd, h]

end Sys2Proof.Machine
end

