-- ==== Sys2Proof/Laws/Services.lean ====
section
/-! SUPPORT. Services.lean: what the BARs of a function, the supply voltage and the counts of corrected errors can do. -/

namespace Sys2Proof.Machine

/-! ### BARs (R434) -/

theorem State.barWrite_unlisted (s : State) (n off : Nat) (v : Word) (h : barReg n off = none) :
    s.barWrite n 0 off v = .next s := by simp [State.barWrite, h]

theorem State.barRead_unlisted (s : State) (n off : Nat) (h : barReg n off = none) : s.barRead n 0 off = 0 := by
  simp [State.barRead, h]

theorem State.barRead_config (s : State) (n off q : Nat) (hn : n ≠ pf) (h : barReg n off = some (.config q true)) :
    s.barRead n 0 off = ((s.ctxAt n).vf.ring q).base := by simp [State.barRead, h, hn]

theorem State.barWrite_stat (s : State) (n off : Nat) (v : Word) (h : barReg n off = some .stat) :
    s.barWrite n 0 off v = .next s := by simp [State.barWrite, h]

/-! ### Power (R418) -/

@[simp] theorem Power.supply_fact (p : Power) (old : Nat) : (p.supply old).fact = p.fact := rfl
@[simp] theorem Power.supply_freq (p : Power) (old : Nat) : (p.supply old).freq = p.freq := rfl
@[simp] theorem Power.supply_goal (p : Power) (old : Nat) : (p.supply old).goal = p.goal := rfl
@[simp] theorem Power.supply_throttled (p : Power) (old : Nat) : (p.supply old).throttled = p.throttled := rfl

/-- The supply carries both the clock that was and the clock that is. -/
theorem Power.supply_carries (p : Power) (old : Nat) :
    millivolts old ≤ (p.supply old).mv ∧ millivolts p.fact ≤ (p.supply old).mv := by
  simp only [Power.supply]; omega

@[simp] theorem State.setFact_fact (s : State) (f : Nat) : (s.setFact f).power.fact = f := rfl
@[simp] theorem State.setFact_mem (s : State) (f : Nat) : (s.setFact f).mem = s.mem := rfl
@[simp] theorem State.setFact_tiles (s : State) (f : Nat) : (s.setFact f).tiles = s.tiles := rfl

/-! ### Corrected errors (R442) -/

@[simp] theorem Mgmt.correct_repairs (m : Mgmt) (row ns : Nat) : (m.correct row ns).repairs = m.repairs := rfl
@[simp] theorem Mgmt.correct_log (m : Mgmt) (row ns : Nat) : (m.correct row ns).log = m.log := rfl

/-- A row below its sixteenth error of the hour is not scheduled by one more. -/
theorem Mgmt.correct_scheduled (m : Mgmt) (row ns : Nat)
    (h : ((m.corrected.get [] row).filter fun t => decide (ns < t + 3600000000000)).length < 15) :
    (m.correct row ns).scheduled = m.scheduled := by
  simp only [Mgmt.correct, List.length_append, List.length_singleton]
  rw [if_neg (by omega)]

end Sys2Proof.Machine
end

