-- ==== Sys2Proof/Tests/Slice0.lean ====
section
/-! SUPPORT. Slice0.lean: tests. Words written out from the spec's encodings and the word each stands for; an ill-formed term
for each check of WellFormed; a state and operands that meet the hypotheses of each statement, clause by clause, mostly with
what the clause then says of that state. -/

namespace Sys2Proof.Tests

set_option Elab.async false

open Sys2Proof.Machine Sys2Proof.Claims

/-! ### Helpers -/

/-- The unguarded guard, and a task at SUPERVISOR level. -/
def g0 : Guard := ⟨false, 0⟩
def task0 : Task := { live := true, level := .supervisor, pc := 0x1000 }
def tile0 : Tile := { ctx := some 1, part := some 0, tasks := (Vector.replicate 4 {}).set 0 task0, trap := { tvec := 0x2000 } }

/-- Context 1 runs on partition 0, which is the block of tiles (0, 0) to (1, 1). -/
def s0 : State :=
  { State.reset with
    tiles := [(0, tile0)]
    ctxs := [(1, { exists_ := true, resumed := true, record := { part := 0 } })]
    parts := [(0, { desc := 0x03E8FFFF00080000, now := some 1 })] }

/-- `s0` with its task, its tile, its context or its partition changed. -/
def me (f : Task → Task) : State := s0.updMe f
def own (f : Tile → Tile) : State := s0.updTile 0 f
def ctx (f : Ctx → Ctx) : State := s0.updCtx 1 f
def part (f : Part → Part) : State := s0.updPart 0 f

/-- Two scalar registers of the task. -/
def regs (x y : Word) : State := me fun t => (t.sset 4 x).sset 5 y

/-- The outcome is a next state of which `p` holds. -/
def goes (o : Out) (p : State → Bool) : Bool :=
  match o with
  | .next t => p t
  | _ => false

/-- The outcome leaves the state as it is. -/
def stays (o : Out) (s : State) : Bool := goes o fun t => t == s

/-- The result of an operation. -/
def gives {α : Type} [BEq α] (r : Res α) (x : α) : Bool :=
  match r with
  | .ok y => y == x
  | _ => false

/-- The trap that the tile has taken. -/
def took (t : State) (c : Cause) (a : Word) : Bool :=
  t.cur.trap.busy && t.cur.trap.tcause == c.code && t.cur.trap.taddr == a && t.me.pc == 0x2000

/-- The premises of `Managed`. -/
def managed (s : State) : Bool := s.power.on && s.mgmt.firmware

/-! ### Decoding: the words that the spec's sections give as examples -/

theorem test_decode_registers : decode 0x04064280 = some (.add g0 3 4 5) ∧ decode 0x06D29081 = some (.sub ⟨true, 3⟩ 9 9 1) ∧
    decode 0x0486429E = some (.sel ⟨false, 2⟩ 3 4 5) ∧ decode 0x180C7805 = some (.sari g0 6 7 5) ∧
    decode 0x282217FD = some (.cmpi g0 4 .lt 2 0x7FD) := by decide +kernel
theorem test_decode_control : decode 0x3C000000 = some (.nop g0) ∧ decode 0x34300000 = some (.br g0 3) ∧
    decode 0x34280000 = some (.brl g0 2) ∧ decode 0x3807F000 = some (.pbrr g0 3 31) ∧ decode 0x3C061008 = some (.twait g0 3 .m) ∧
    decode 0x3C000006 = some (.tfence g0) ∧ decode 0x3C000007 = some (.drain g0) := by decide +kernel
theorem test_decode_system : decode 0x3C080081 = some (.mfs g0 4 1) ∧ decode 0x3C081182 = some (.mts g0 4 0x23) ∧
    decode 0x3C082201 = some (.mfs g0 4 0x44) := by decide +kernel
theorem test_decode_memory : decode 0x40064402 = some (.ldw g0 3 4 2) ∧ decode 0x440A67FE = some (.std g0 5 6 0x1FE) ∧
    decode 0x480A4300 = some (.ldaD g0 5 4 .package) ∧ decode 0x502A0000 = some (.fence g0 .pod .rel) ∧
    decode 0x50003020 = some (.sbar g0 3) ∧ decode 0x502042C0 = some (.waitc g0 .package 4 5) := by decide +kernel
theorem test_decode_atomics : decode 0x4EE63A26 = some (.amoCas .pod .acqRel 6 7 8 .d64) ∧
    decode 0x4E406382 = some (.amoAdd .package .release 0 12 14 .d64) := by decide +kernel
theorem test_decode_tasks : decode 0x54064280 = some (.tspawn g0 3 4 5) := by decide +kernel
theorem test_decode_parcels : decode 0x5C154AE8 = some (.pst g0 10 20 21 .d64) ∧ decode 0x5C134AD0 = some (.pldr g0 9 20 21) ∧
    decode 0x602D4004 = some (.pmap g0 22 20) ∧ decode 0x60074A86 = some (.post 3 20 21) := by decide +kernel
theorem test_decode_vector : decode 0x80210804 = some (.vadd 1 1 1 0 .i32) ∧ decode 0x88432046 = some (.vcmp 2 3 4 0 .gt .f32) ∧
    decode 0x88221826 = some (.vcmp 1 2 3 0 .lt .f32) ∧ decode 0x8C413089 = some (.vcvt 2 1 .f32 0 1 .rne .e4m3) ∧
    decode 0x99242864 = some (.vext 9 4 5 .i32) ∧ decode 0xA02A0004 = some (.vld 1 10 0 .i32) ∧
    decode 0xA8855130 = some (.vamoOr 4 5 10 1 .package .w32) ∧ decode 0xAC640000 = some (.vpop 3 2) ∧
    decode 0xAC6A0010 = some (.vpush 3 5) := by decide +kernel
theorem test_decode_matrix : decode 0xC00C06F8 = some (.mldw 12 .cb4 15 0) ∧ decode 0xC0200000 = some .mswp ∧
    decode 0xC0450000 = some (.mtag 5) ∧ decode 0xC4014948 = some (.mmul 1 9 2 .e4m3 0 0) ∧
    decode 0xC421494A = some (.mmulz 1 9 2 .e4m3 1 0) ∧ decode 0xC8000100 = some (.mrel 2) ∧
    decode 0xC8200100 = some (.mzero 2 .f32) ∧ decode 0xC8440081 = some (.mstat 4 1 1) ∧
    decode 0xC8644980 = some (.mlda 4 9 3 .f32) ∧ decode 0xCC164948 = some (.mrd 1 6 9 2 .e4m3 .rne) ∧
    decode 0xCC265080 = some (.mrds 0 6 10 1 .i8 .rne) := by decide +kernel
theorem test_decode_copy : decode 0xD8008D2A = some (.sbdef 1 20 21) ∧ decode 0xD820152A = some (.stdef 2 20 21) ∧
    decode 0xD840110A = some (.stdim 2 4 5) ∧ decode 0xD8601100 = some (.stpos 2 4) ∧ decode 0xD8801000 = some (.strst 2) ∧
    decode 0xDC028940 = some (.copy 2 17 5 0) ∧ decode 0xDC208940 = some (.copym 0 1 5 0) ∧
    decode 0xE001998E = some (.cqnt 1 19 6 7) ∧ decode 0xE033118E = some (.cexp 19 2 6 7) ∧
    decode 0xE060118E = some (.cfill 2 6 7) := by decide +kernel
theorem test_decode_link : decode 0xE88D0000 = some (.lcnt 13) ∧ decode 0xE80A5B20 = some (.rld 10 11 12 .package) ∧
    decode 0xE82A5B28 = some (.rst 10 11 12 .pod) ∧ decode 0xE84A5B2F = some (.ramo 10 11 12 .pod 7) ∧
    decode 0xE8600028 = some (.rfence .pod) := by decide +kernel
theorem test_decode_fabric : decode 0xF0042800 = some (.fctl 4 5) ∧ decode 0xF0242800 = some (.fstat 4 5) ∧
    decode 0xDC114158 = some (.copy 17 8 5 12) ∧ decode 0xDC0A915A = some (.copy 10 18 5 13) := by decide +kernel
theorem test_decode_prefix : decode 0xF8D04100 = some (.dep ⟨false, 3⟩ 0x41 2 0) := by decide +kernel
theorem test_decode_illegal : decode 0x06064280 = none ∧ decode 0x3C00000C = none ∧ decode 0xDC0C8000 = none ∧
    decode 0x241017B1 = none := by decide +kernel

/-! ### Well-formedness: an ill-formed term for each check -/

/-- R68: a guard that no word may have. -/
def gBad : Guard := ⟨true, 0⟩
theorem test_illFormed_guard : (Instr.add gBad 1 2 3).wf = false ∧ (Instr.nop gBad).wf = false ∧
    (Instr.dep gBad 0 0 0).wf = false := by decide
/-- R94-R96: p0 is no destination. -/
theorem test_illFormed_p0 : (Instr.cmp g0 0 1 2 .eq).wf = false ∧ (Instr.pset g0 0).wf = false ∧
    (Instr.vany 0 1 0 .i8).wf = false := by decide
/-- R81, R79: a special register that is not assigned, and a write of one that is read-only. -/
theorem test_illFormed_sreg : (Instr.mfs g0 1 0x3FF).wf = false ∧ (Instr.mts g0 1 0x001).wf = false := by decide
theorem test_illFormed_twait : (Instr.twait g0 0 .v).wf = false := by decide
theorem test_illFormed_cvta : (Instr.cvta g0 1 2 .global).wf = false := by decide
/-- R168: the types of the vector words. -/
theorem test_illFormed_types : (Instr.vmul 1 2 3 0 .ci8).wf = false ∧ (Instr.vmulhi 1 2 3 0 .f32).wf = false ∧
    (Instr.vrcp 1 2 0 .i32).wf = false ∧ (Instr.vcmul 1 2 3 0 .f32).wf = false ∧ (Instr.vperm 1 2 3 0 .i8).wf = false ∧
    (Instr.vbcast 1 2 0 .cb4).wf = false ∧ (Instr.vlds 1 2 3 0 .i4).wf = false ∧ (Instr.vcmp 1 2 3 0 .lt .ci8).wf = false ∧
    (Instr.vcvt 1 2 .ci8 0 0 .rne .f32).wf = false := by decide
theorem test_illFormed_gather : (Instr.vgath 1 2 1 0 .i32).wf = false := by decide
/-- R192, R201: weight and activation formats, the depth of CB4, the rounding of an integer product. -/
theorem test_illFormed_matrix : (Instr.mldw 1 .i16 0 0).wf = false ∧ (Instr.mldw 1 .cb4 3 0).wf = false ∧
    (Instr.mmul 1 2 3 .cb4 0 0).wf = false ∧ (Instr.mmul 1 2 3 .i8 1 0).wf = false ∧ (Instr.mstat 1 2 1).wf = false ∧
    (Instr.mrd 0 1 2 3 .cb4 .rne).wf = false := by decide
/-- R214: endpoints. -/
theorem test_illFormed_endpoints : (Instr.copy 12 16 0 0).wf = false ∧ (Instr.copy 16 10 0 0).wf = false ∧
    (Instr.cqnt 10 16 0 0).wf = false ∧ (Instr.cfill 12 0 0).wf = false := by decide

/-! ### The step, the file of registers, arithmetic, branches -/

theorem test_stepRunsDecoded : (let s := State.reset.withFetchWord 32 0x04064280
    let c := s.chosen
    s.agenda == [] && s.power.on && c.delivery.isNone && c.canIssue && gives (c.fetch c.me.pc) 0x04064280 && s.cur.liveTasks == [0] &&
    (goes (step s) fun t => t.me.pc == 4) && (let u := State.reset.withFetchWord 32 0x06064280
      gives (u.chosen.fetch u.chosen.me.pc) 0x06064280 && decode 0x06064280 == none)) = true := by decide +kernel
/-- R340: of two live tasks the first ready one after the one that issued last is chosen, and one that waits for a register is
passed over. -/
theorem test_chosen : (let s := ((s0.store 0x300000 (bytesOf 4 0x04064280)).updCtx 1 fun x => { x with
      tlb := [⟨1, 0x1000, 0x1000, 0x300000, 8⟩] }).updTile 0 fun t => { t with tasks := t.tasks.map fun _ => task0, last := 1 }
    let w := s.updTile 0 fun t => { t with tasks := t.tasks.set 2 (task0.smark 4) }
    s.chosen.task == 2 && w.chosen.task == 3) = true := by decide +kernel
theorem test_placedWord : (Instr.add g0 3 4 5).isEvent = false ∧ (Instr.add g0 3 4 5).wf = true := by decide
theorem test_encoded : (let i := Instr.vadd 1 2 3 0 .i8; let j := Instr.vadd 1 2 3 0 .i8
    !i.isEvent && i.wf && decide (encode i = encode j)) = true := by decide +kernel
theorem test_everyBitIsRead : decode 0x04064280 = some (.add g0 3 4 5) ∧ encode (.add g0 3 4 5) = 0x04064280 ∧
    0xFC000000 / 2 ^ 26 % 64 = 0x3F ∧ decode 0xFC000000 = none := by decide +kernel
theorem test_inv : Inv s0 ∧ ∃ t, step (State.reset.withFetchWord 32 0x3C000000) = .next t := by
  refine ⟨⟨rfl, rfl⟩, ?_⟩
  have h : goes (step (State.reset.withFetchWord 32 0x3C000000)) (fun _ => true) = true := by decide +kernel
  revert h
  cases step (State.reset.withFetchWord 32 0x3C000000) <;> simp [goes]
theorem test_memory : (let s := s0.store 0x100 (bytesOf 8 0x1122334455667788)
    s.byte 0x100 == 0x88 && s.byte 0x107 == 0x11 && s.byte 0x108 == 0 && s.byte 0xFF == 0 &&
    s.readNat 0x100 8 == 0x1122334455667788) = true := by decide +kernel

/-- A word with its operands in s4 and s5 issues and leaves its result in s3. -/
def result (w : Instr) (b : Board) (x y r : Word) : Bool :=
  issues (regs x y) w g0 b && goes (exec w (regs x y)) fun t => t.getS 3 == r && t.me.pc == 0x1004 && t.getS 4 == x
def two : Board := { src := [4, 5], dst := [3] }
def one : Board := { src := [4], dst := [3] }

theorem test_arithmetic : (result (.add g0 3 4 5) two (-1) 2 1 && result (.sub g0 3 4 5) two 0 1 (-1) &&
    result (.andn g0 3 4 5) two 0xFF 0x0F 0xF0 && result (.sar g0 3 4 5) two (-8) 65 (-4) &&
    result (.rotr g0 3 4 5) two 1 1 0x8000000000000000 && result (.minS g0 3 4 5) two (-1) 1 (-1) &&
    result (.minu g0 3 4 5) two (-1) 1 1) = true := by decide +kernel
theorem test_immediates : (result (.addi g0 3 4 0xFFF) one 0 0 (-1) && result (.andi g0 3 4 0xFFF) one (-1) 0 0xFFF &&
    result (.sextb g0 3 4) one 0x80 0 0xFFFFFFFFFFFFFF80 && result (.zexth g0 3 4) one (-1) 0 0xFFFF &&
    result (.sari g0 3 4 63) one (-1) 0 (-1)) = true := by decide +kernel
theorem test_bitCounts : (result (.clz g0 3 4) one 0 0 64 && result (.clz g0 3 4) one 1 0 63 && result (.ctz g0 3 4) one 8 0 3 &&
    result (.popc g0 3 4) one (-1) 0 64) = true := by decide +kernel

/-- A multiply or divide issues, and its result is on its way to s3. -/
def inFlight (w : Instr) (x y r : Word) : Bool :=
  issues (regs x y) w g0 two && goes (exec w (regs x y)) fun t => t.me.sPending 3 && t.me.landings == [⟨3, r, []⟩]
theorem test_divide : (inFlight (.mul g0 3 4 5) 3 5 15 && inFlight (.mulh g0 3 4 5) (-1) 1 (-1) &&
    inFlight (.div g0 3 4 5) (-7) 2 (-3) && inFlight (.rem g0 3 4 5) (-7) 2 (-1) && inFlight (.div g0 3 4 5) 7 0 (-1) &&
    inFlight (.rem g0 3 4 5) 7 0 7 && inFlight (.divu g0 3 4 5) (-1) 0 (-1) &&
    inFlight (.div g0 3 4 5) 0x8000000000000000 (-1) 0x8000000000000000) = true := by decide +kernel
theorem test_resultLands : (let s := me fun t => { t.smark 3 with landings := [⟨3, 7, []⟩] }
    ((s.tileAt 0).taskAt 0).landings[0]? == some ⟨3, 7, []⟩ &&
    goes (exec (.sequencerResultLanding 0 0 1) s) fun t => t.getS 3 == 7 && !t.me.sPending 3 && t.me.landings == []) = true := by
  decide +kernel

theorem test_constants : (issues s0 (.lih 3 0x1FFFFF) always { dst := [3] } &&
    (goes (exec (.lih 3 0x1FFFFF) s0) fun t => t.getS 3 == 0xFFFFFFFFFFFFF000) &&
    issues s0 (.apc 3 0x1FFFFF) always { dst := [3] } && (goes (exec (.apc 3 0x1FFFFF) s0) fun t => t.getS 3 == 0xFFC) &&
    issues (regs 1 2) (.sel ⟨false, 2⟩ 3 4 5) always { src := [5], psrc := [2], dst := [3] } &&
    (goes (exec (.sel ⟨false, 2⟩ 3 4 5) (regs 1 2)) fun t => t.getS 3 == 2) &&
    result (.cvta g0 3 4 .block) one 0x8000000000000040 0 0x8010000000000040 && result (.isin g0 3 4 .loc) one 0x8000000000000040 0 1) =
    true := by decide +kernel
theorem test_compares : (let s := regs (-1) 1
    issues s (.cmp g0 1 4 5 .lt) g0 { src := [4, 5], pdst := [1] } && (goes (exec (.cmp g0 1 4 5 .lt) s) fun t => t.getP 1) &&
    (goes (exec (.cmp g0 1 4 5 .ltu) s) fun t => !t.getP 1) && issues s (.cmpi g0 1 .eq 4 0x7FF) g0 { src := [4], pdst := [1] } &&
    goes (exec (.cmpi g0 1 .eq 4 0x7FF) s) fun t => t.getP 1) = true := by decide +kernel
theorem test_predicates : (let s := me fun t => t.pset 2 true
    issues s (.pandn g0 1 2 3) g0 { psrc := [2, 3], pdst := [1] } && (goes (exec (.pandn g0 1 2 3) s) fun t => t.getP 1) &&
    issues s (.pset g0 1) g0 { psrc := [], pdst := [1] } && goes (exec (.pnot g0 1 2) s) fun t => !t.getP 1) = true := by
  decide +kernel
theorem test_falseGuard : (let s := regs 1 2; let w := Instr.add ⟨false, 1⟩ 3 4 5
    s.canIssue && w.wf && !(s.me.slot.isSome && w.branchClass) && !(privilegedWord w && s.me.level == .user) && !s.me.pPending 1 &&
    !s.me.guard ⟨false, 1⟩ && goes (exec w s) fun t => t.getS 3 == 0 && t.me.pc == 0x1004) = true := by decide +kernel

/-- A word whose place, form and guard are in order waits while a register of its board is pending. -/
def waitsFor (s : State) (w : Instr) (b : Board) : Bool :=
  s.canIssue && w.wf && !s.me.pPending 0 && s.me.guard g0 && b.blocked s.me &&
    goes (exec w s) fun t => t.me.pc == 0x1000 && t.getS 3 == 0 && t.agenda != []
theorem test_pendingWaits : (let s := me fun t => t.smark 4
    let d := me fun t => t.smark 3
    let q := me fun t => t.pmark 2
    s.me.slot == none && waitsFor s (.add g0 3 4 5) two && waitsFor s (.pldr g0 3 5 4) two && waitsFor s (.ldd g0 3 4 1) one &&
    waitsFor s (.recv g0 3 4) one && waitsFor s (.std g0 4 5 0) { src := [5, 4] } && waitsFor s (.pst g0 4 5 6 .w32) { src := [5, 6, 4] } &&
    waitsFor s (.trap g0 4) { src := [4] } && waitsFor s (.cmp g0 1 5 4 .lt) { src := [5, 4], pdst := [1] } &&
    waitsFor s (.amoAdd .pod .relaxed 3 4 5 .d64) two && waitsFor s (.amoCas .pod .relaxed 4 5 6 .d64) { src := [5, 6, 4], dst := [4] } &&
    waitsFor s (.waitc g0 .tile 4 5) { src := [4, 5] } && waitsFor s (.tspawn g0 3 4 5) { src := [4, 5, 7], dst := [3] } &&
    waitsFor s (.sel g0 3 4 5) { src := [4], psrc := [0], dst := [3] } && waitsFor s (.cmpi g0 1 .eq 4 0) { src := [4], pdst := [1] } &&
    waitsFor d (.mfs g0 3 0x021) { dst := [3] } && waitsFor d (.lih 3 1) { dst := [3] } && waitsFor q (.pand g0 1 0 2) { psrc := [0, 2], pdst := [1] } &&
    waitsFor q (.pmov g0 1 2) { psrc := [2], pdst := [1] } && waitsFor q (.pset g0 2) { pdst := [2] }) = true := by decide +kernel
theorem test_pendingBranch : (let q := me fun t => t.pmark 2
    let l := me fun t => t.smark 31
    let b := fun (g : Guard) => ({ psrc := [g.p] } : Board)
    q.canIssue && (b ⟨false, 2⟩).blocked q.me && (goes (exec (.br ⟨false, 2⟩ 1) q) fun t => t.me.pc == 0x1000 && t.me.slot == none) &&
    l.me.guard g0 && goes (exec (.brl g0 1) l) fun t => t.me.pc == 0x1000 && t.me.slot == none) = true := by decide +kernel

theorem test_preparedTargets : (issues s0 (.pbr 3 0xFFFFFF) always {} && (goes (exec (.pbr 3 0xFFFFFF) s0) fun t => t.me.b[3] == 0xFFC) &&
    issues (regs 0x3000 0) (.pbrr g0 1 4) g0 { src := [4] } && (goes (exec (.pbrr g0 1 4) (regs 0x3000 0)) fun t => t.me.b[1] == 0x3000) &&
    issues (regs 0x3002 0) (.pbrr g0 1 4) g0 { src := [4] } &&
    goes (exec (.pbrr g0 1 4) (regs 0x3002 0)) fun t => took t .misaligned 0x3002 && t.me.b[1] == 0) = true := by decide +kernel
theorem test_branches : (let s := me fun t => { t with b := t.b.set 2 0x3000 }
    issues s (.br g0 2) always { psrc := [0] } && (goes (exec (.br g0 2) s) fun t => t.me.slot == some ⟨1, true, 0x3000⟩ && t.me.pc == 0x1004) &&
    issues s (.brl g0 2) always { psrc := [0], dst := [31] } && (goes (exec (.brl g0 2) s) fun t => t.getS 31 == 0x100C) &&
    issues s (.brl ⟨false, 1⟩ 2) always { psrc := [1], dst := [] } &&
    goes (exec (.brl ⟨false, 1⟩ 2) s) fun t => t.getS 31 == 0 && t.me.slot == some ⟨1, false, 0x3000⟩) = true := by decide +kernel
theorem test_delaySlots : (let t : Task := { task0 with slot := some ⟨2, true, 0x3000⟩ }
    (t.advance 1).pc == 0x3000 && (t.advance 1).slot == none &&
    ({ task0 with slot := some ⟨1, false, 0x3000⟩ } : Task).advance 2 == { task0 with pc := 0x1008 } &&
    (({ task0 with slot := some ⟨1, true, 0⟩ } : Task).advance 1).slot == some ⟨2, true, 0⟩ && (task0.advance 1).pc == 0x1004) = true := by
  decide +kernel

/-! ### Traps, returns, special registers, waits -/

/-- A task in the second slot of a taken branch; a task at USER level; a trap that task 1 holds. -/
def inSlot : State := me fun t => { t with slot := some ⟨2, true, 0x3000⟩ }
def user : State := me fun t => { t with level := .user }
def held (k : BitVec 2) : TrapRegs := { tvec := 0x2000, busy := true, holder := k, tpc := 0x1008, tdsl := 5, tdtgt := 0x3000 }
def busyBy (k : BitVec 2) : State := own fun t => { t with trap := held k }

/-- `Takes` as a test. -/
def takes (s : State) : Bool := !s.cur.trap.busy && !s.cur.mustWait s.task && s.cur.trap.tvec != 0

theorem test_trapEntry : (takes inSlot && (let u := inSlot.issueTrap ⟨.misaligned, 0x33, .write, 2⟩ 0x1000
    took u .misaligned 0x33 && u.cur.trap.tpc == 0x1000 && u.cur.trap.tdsl == 6 && u.cur.trap.tdtgt == 0x3000 &&
    u.cur.trap.kind == 1 && u.cur.trap.level == 2 && u.me.slot == none)) = true := by decide +kernel
theorem test_trapWord : (takes (regs 7 0) && issues (regs 7 0) (.trap g0 4) g0 { src := [4] } &&
    (goes (exec (.trap g0 4) (regs 7 0)) fun t => took t .software 7 && t.cur.trap.tpc == 0x1004) &&
    s0.canIssue && g0.wf && s0.me.slot == none && (⟨false, 1⟩ : Guard).wf && !s0.me.pPending 1 && !s0.me.guard ⟨false, 1⟩ &&
    (goes (exec (.trap ⟨false, 1⟩ 4) s0) fun t => t.me.pc == 0x1004 && !t.cur.trap.busy) && inSlot.canIssue && inSlot.me.slot.isSome &&
    goes (exec (.trap g0 4) inSlot) fun t => took t .delaySlot 0) = true := by decide +kernel
theorem test_trapWhileBusy : ((busyBy 0).cur.trap.busy && (busyBy 0).cur.trap.holder.toNat == (busyBy 0).task &&
    ((busyBy 0).issueTrap ⟨.software, 0, .read, 0⟩ 0x1000).cur.trap.sticky == 4 && (busyBy 1).cur.trap.holder.toNat != (busyBy 1).task &&
    ((busyBy 1).issueTrap ⟨.software, 0, .read, 0⟩ 0x1000).me.pc == 0x1000) = true := by decide +kernel
/-- With TVEC 0 a trap ends the context under code 5; poisoned data does so under code 6, at a load, an atomic and an LDA. -/
theorem test_fatalTraps : (let z := own fun t => { t with trap := {} }
    let bad := fun (a : Access) => { (me fun t => { t.smark 3 with stream := [a] }) with poison := [sramLoc 0 3] }
    let l : Access := { op := .load 4 true, loc := sramLoc 0 0, dst := 3, bars := [] }
    let m : Access := { op := .amo 0 .w32 1 0, loc := sramLoc 0 0, dst := 3, bars := [] }
    let finished := fun (t : State) (n : Byte) => (t.tileAt 0).ctx == none && (t.tileAt 0).trap.sticky == n
    let due := fun (s : State) => (s.me.stream.map fun a => a.sent) == [false] && !elsewhere 0 (sramLoc 0 0) && (s.admitAt 0 (sramLoc 0 0) 4).isOk &&
      s.poisoned (sramLoc 0 0) 4
    let a := { regs 0x8000000000000000 0 with poison := [sramLoc 0 3] }
    !z.cur.trap.busy && !z.cur.mustWait z.task && z.cur.trap.tvec == 0 && finished (z.issueTrap ⟨.software, 0, .read, 0⟩ 0x1000) 5 &&
    due (bad l) && (goes (exec (.sequencerResultLanding 0 0 0) (bad l)) fun t => finished t 6) && due (bad m) &&
    (goes (exec (.sequencerResultLanding 0 0 0) (bad m)) fun t => finished t 6) && issues a (.ldaW g0 3 4 .pod) g0 { src := [4], dst := [3] } &&
    gives (a.resolve a.who (a.getS 4) 4 .read) (sramLoc 0 0) && a.me.stream == [] && a.me.asked != .out && a.poisoned (sramLoc 0 0) 4 &&
    goes (exec (.ldaW g0 3 4 .pod) a) fun t => finished t 6) = true := by decide +kernel
theorem test_returnFromTrap : (issues (busyBy 0) (.rte g0) g0 {} && (goes (exec (.rte g0) (busyBy 0)) fun t => t.me.pc == 0x1008 &&
      t.me.level == .user && !t.cur.trap.busy && t.me.slot == some ⟨1, true, 0x3000⟩) &&
    issues s0 (.rte g0) g0 {} && goes (exec (.rte g0) s0) fun t => t.me.slot == none && t.me.pc == 0) = true := by decide +kernel
theorem test_trapThenReturn : (takes inSlot && (let u := inSlot.issueTrap ⟨.software, 0, .read, 0⟩ inSlot.me.pc
    let v := u.updTile u.tile fun t => t.rte u.task
    v.me.pc == 0x1000 && v.me.slot == inSlot.me.slot && !v.cur.trap.busy)) = true := by decide +kernel
theorem test_delaySlotRegister : (issues (regs (-1) 0) (.mts g0 4 0x104) g0 { src := [4] } &&
    (goes (exec (.mts g0 4 0x104) (regs (-1) 0)) fun t => t.sreg 0x104 == 7 &&
      goes (exec (.rte g0) t) fun u => u.me.slot == none) && issues (busyBy 1) (.mfs g0 3 0x104) g0 { dst := [3] } &&
    goes (exec (.mfs g0 3 0x104) (busyBy 1)) fun t => t.getS 3 == 5) = true := by decide +kernel
theorem test_privileged : (user.canIssue && (Instr.rte g0).wf && user.me.level == .user && user.me.slot == none &&
    (goes (exec (.rte g0) user) fun t => took t .privileged 0) && (Instr.mfs g0 3 0x040).wf &&
    (goes (exec (.mfs g0 3 0x040) user) fun t => took t .privileged 0) && (Instr.mts g0 3 0x053).wf &&
    (goes (exec (.mts g0 3 0x053) user) fun t => took t .privileged 0) &&
    goes (exec (.mfs g0 3 0x053) user) fun t => !t.cur.trap.busy) = true := by decide +kernel
theorem test_delaySlotTrap : (inSlot.canIssue && (Instr.exit g0).wf && inSlot.me.slot.isSome &&
    goes (exec (.exit g0) inSlot) fun t => took t .delaySlot 0) = true := by decide +kernel
theorem test_fenceTraps : (let s := me fun t => { t with flags := 6, fmask := 3 }
    issues s (.tfence g0) g0 {} && s.me.waiting == [] && s.me.flags &&& s.me.fmask != 0 &&
    (goes (exec (.tfence g0) s) fun t => took t .arith 2) && issues s0 (.twait g0 1 .v) g0 {} && s0.me.pushes .v < 1 &&
    goes (exec (.twait g0 1 .v) s0) fun t => took t .tokenRange 0) = true := by decide +kernel
theorem test_specialReads : (let s := own fun t => { t with stitch := 9, trap := { t.trap with scratch := t.trap.scratch.set 2 8 } }
    issues s (.mfs g0 3 0x011) g0 { dst := [3] } && (goes (exec (.mfs g0 3 0x011) s) fun t => t.getS 3 == 9) &&
    issues s (.mfs g0 3 0x102) g0 { dst := [3] } && goes (exec (.mfs g0 3 0x102) s) fun t => t.getS 3 == 8) = true := by decide +kernel
theorem test_specialWrites : (let s := regs (-1) 0
    issues s (.mts g0 4 0x044) g0 { src := [4] } && (goes (exec (.mts g0 4 0x044) s) fun t => t.sreg 0x044 == 0x00FF000000003FFC) &&
    issues s (.mts g0 4 0x040) g0 { src := [4] } && (goes (exec (.mts g0 4 0x040) s) fun t => t.sreg 0x040 == 0xFFFFFFFFFFFFFFFC) &&
    issues s (.mts g0 4 0x023) g0 { src := [4] } && goes (exec (.mts g0 4 0x023) s) fun t => t.sreg 0x023 == 0) = true := by
  decide +kernel
/-- Every number of the two lists: one tile in block 0x11 on die 0, part 0, context 1, package 2 of the pod of 2 and 9. -/
theorem test_moreReads : (let s := { (ctx fun x => { x with dead := (1 : BitVec 256) <<< 9, badchunk := 0x40 }) with pkg := 2, clock := 7, pod := { s0.pod with members := [2, 9, 66] } }
    let w := s.updTile 0 fun t => { t with win0 := some 0, node := some (0, 5) }
    let is := fun (s : State) n v => issues s (.mfs g0 3 (BitVec.ofNat 10 n)) g0 { dst := [3] } && goes (exec (.mfs g0 3 (BitVec.ofNat 10 n)) s) fun t => t.getS 3 == v
    is s 0x002 0 && is s 0x003 0 && is s 0x005 0 && is s 0x006 1 && is w 0x010 5 && is s 0x020 7 && is s 0x030 0x30 && is w 0x030 0x21 &&
    is (busyBy 1) 0x044 2 && is s 0x070 (BitVec.ofNat 64 (96 * 2 ^ 48 + 80000)) && is s 0x060 0x40 && is s 0x050 (~~~4) && is s 0x051 (~~~4)) = true := by
  decide +kernel
theorem test_moreWrites : (let s := regs (-1) 0
    let p := { s with pkg := 2, pod := { s.pod with members := [2, 9, 66] } }
    let off := p.updMe fun t => t.sset 4 0
    let w := regs 3 0
    let held := w.updTile 0 fun t => { t with win0 := some 1 }
    let back := (regs 0 0).updTile 0 fun t => { t with win1 := some 0 }
    let go := fun (s : State) n => issues s (.mts g0 4 n) g0 { src := [4] }
    go s 0x024 && !(s.cur.words.any (·.draws)) && !(s.cur.rows.any fun r => r.rm == 5) && (goes (exec (.mts g0 4 0x024) s) fun t => t.sreg 0x024 == -1 && t.cur.gv == seedGen (-1) genV) &&
    go w 0x030 && w.cur.winOf 0 == 0 && (goes (exec (.mts g0 4 0x030) w) fun t => t.cur.win0 == some 0 && t.cur.win1 == none) && go held 0x030 &&
    (goes (exec (.mts g0 4 0x030) held) fun t => t.cur.win1 == some 0 && t.cur.win0 == some 1) && go back 0x030 && back.cur.winOf 0 == 2 && back.cur.vq == [] &&
    (goes (exec (.mts g0 4 0x030) back) fun t => t.cur.winOf 0 == 0) && go p 0x050 && p.pkts == [] && p.transits == [] &&
    (goes (exec (.mts g0 4 0x050) p) fun t => (t.ctxAt 1).dead == (1 : BitVec 256) <<< 9) && go p 0x051 &&
    (goes (exec (.mts g0 4 0x051) p) fun t => (t.ctxAt 1).dead == (1 : BitVec 256) <<< 66) && go off 0x050 &&
    goes (exec (.mts g0 4 0x050) off) fun t => (t.ctxAt 1).dead == 0) = true := by decide +kernel
theorem test_registerActions : (!(s0.cur.words.any (·.draws)) && !(s0.cur.rows.any fun r => r.rm == 5) &&
    (goes (exec (.srseedWrite 5) s0) fun t => t.cur.seed == 5 && t.cur.gv != s0.cur.gv) && s0.cur.winOf 0 == 0 && s0.cur.win0.isNone &&
    (goes (exec (.vwinWrite 1) s0) fun t => t.cur.win0 == some 0) && s0.cur.win1.isNone &&
    (goes (exec (.vwinWrite 2) s0) fun t => t.cur.win1 == some 0 && t.cur.winOf 0 != 0 && t.cur.vq == [] &&
      goes (exec (.vwinWrite 0) t) fun u => u.cur.winOf 0 == 0) &&
    (let s := ctx fun x => { x with leaseq := [5, 6] }
     (s.ctxAt (s.cur.ctx.getD 0)).leaseq == [5, 6] &&
     goes (exec (.leaseqRead 3) s) fun t => t.getS 3 == 0x8000000000000005 && (t.ctxAt 1).leaseq == [6])) = true := by decide +kernel
theorem test_nop : (s0.canIssue && g0.wf && !s0.me.pPending 0 && (goes (exec (.nop g0) s0) fun t => t.me.pc == 0x1004) &&
    (let s := me fun t => t.pmark 1
     s.canIssue && s.me.pPending 1 && goes (exec (.nop ⟨false, 1⟩) s) fun t => t.me.pc == 0x1000)) = true := by decide +kernel
theorem test_waitsThatAreOver : (issues s0 (.tfence g0) g0 {} && s0.me.waiting == [] && issues s0 (.drain g0) g0 {} && s0.myWords == [] &&
    (goes (exec (.drain g0) s0) fun t => t.me.pc == 0x1004) && (let s := me fun t => t.takeToken .v
      issues s (.twait g0 1 .v) g0 {} && s.me.pushes .v == 1 && s.me.waiting == [⟨.v, 0⟩] &&
      issues { s with tiles := (s.updMe fun t => { t with waiting := [] }).tiles } (.twait g0 1 .v) g0 {}) &&
    issues s0 (.fence g0 .pod .rel) g0 {} && s0.me.stream == [] && (goes (exec (.fence g0 .pod .rel) s0) fun t => t.me.pc == 0x1004) &&
    (let w := me fun t => { t with stream := [{ op := .store [1], loc := sramLoc 0 0, dst := 0, bars := [] }] }
     (goes (exec (.fence g0 .pod .acq) w) fun t => t.me.pc == 0x1004) && goes (exec (.fence g0 .pod .rel) w) fun t => t.me.pc == 0x1000) &&
    issues s0 (.yield g0) g0 {} && goes (exec (.yield g0) s0) fun t => t.me.pc == 0x1004 && t.me.yielding == 0) = true := by decide +kernel
theorem test_halt : (issues s0 (.halt g0) g0 {} && s0.cur.quiet && goes (exec (.halt g0) s0) fun t => t.cur.halted &&
    (t.partAt 0).out == [0] && !t.canIssue) = true := by decide +kernel

/-! ### Memory of a task -/

/-- `s4` at 16 bytes into LOCAL memory. -/
def locals : State := regs 0x8000000000000010 0xFFFFFFFFFFFFFFF0

theorem test_loads : (issues locals (.ldh g0 3 4 1) g0 { src := [4], dst := [3] } &&
    gives (locals.resolve locals.who (locals.getS 4 + (1 : BitVec 9).signExtend 64 * 2) 2 .read) (sramLoc 0 0x12) &&
    goes (exec (.ldh g0 3 4 1) locals) fun t => t.me.sPending 3 && (t.me.stream.map Access.loc) == [sramLoc 0 0x12]) = true := by
  decide +kernel
theorem test_stores : (issues locals (.std g0 5 4 1) g0 { src := [4, 5] } && !escapes (locals.getS 5) &&
    gives (locals.resolve locals.who (locals.getS 4 + (1 : BitVec 9).signExtend 64 * 8) 8 .write) (sramLoc 0 0x18) &&
    (goes (exec (.std g0 5 4 1) locals) fun t => t.me.stream.map Access.op == [.store (bytesOf 8 0xFFFFFFFFFFFFFFF0)]) &&
    (let s := regs 0x8000000000000010 0x8040000000000000
     issues s (.std g0 5 4 1) g0 { src := [4, 5] } && escapes (s.getS 5) &&
     goes (exec (.std g0 5 4 1) s) fun t => took t .parcelEscape 0x8000000000000018)) = true := by decide +kernel
theorem test_accessTraps : (let s := regs 0x8000000000000011 0
    issues s (.ldh g0 3 4 0) g0 { src := [4], dst := [3] } && issues s (.sth g0 5 4 0) g0 { src := [4, 5] } &&
    (match s.resolve s.who 0x8000000000000011 2 .write with
      | .error (.trap x) => x == ⟨.misaligned, 0x8000000000000011, .write, 0⟩
      | _ => false) && goes (exec (.ldh g0 3 4 0) s) fun t => took t .misaligned 0x8000000000000011) = true := by decide +kernel
theorem test_accessPerforms : (let a : Access := { op := .store [7, 8], loc := sramLoc 0 0, dst := 0, bars := [] }
    let l : Access := { op := .load 2 true, loc := sramLoc 0 0, dst := 3, bars := [] }
    let s := me fun t => { t.smark 3 with stream := [a, l] }
    ((s.tileAt 0).taskAt 0).stream == a :: [l] && !a.sent && !(s.tileAt 0).barred a.bars && !elsewhere 0 a.loc && (s.admitAt 0 a.loc 2).isOk &&
    goes (exec (.sequencerResultLanding 0 0 0) s) fun t => t.byte (sramLoc 0 1) == 8 && t.me.stream == [l] && !t.poisoned l.loc 2 &&
      goes (exec (.sequencerResultLanding 0 0 0) t) fun u => u.getS 3 == 0x0807 && !u.me.sPending 3 && u.me.stream == []) = true := by
  decide +kernel
/-- `AtOnce` as a test. -/
def atOnce (s : State) (loc n : Nat) : Bool :=
  s.me.stream == [] && !s.cur.barred s.me.bars && !elsewhere s.tile loc && (s.admitAt s.tile loc n).isOk && !s.poisoned loc n &&
    s.me.asked != .out

theorem test_acquire : (let s := locals.store (sramLoc 0 0x10) (bytesOf 4 0x80000000)
    issues s (.ldaW g0 3 4 .pod) g0 { src := [4], dst := [3] } && gives (s.resolve s.who (s.getS 4) 4 .read) (sramLoc 0 0x10) &&
    atOnce s (sramLoc 0 0x10) 4 && (goes (exec (.ldaW g0 3 4 .pod) s) fun t => t.getS 3 == 0xFFFFFFFF80000000) &&
    (let u := regs 0x8010000000400010 0
     issues u (.ldaD g0 3 4 .pod) g0 { src := [4], dst := [3] } && gives (u.resolve u.who (u.getS 4) 8 .read) (sramLoc 256 0x10) &&
     elsewhere 0 (sramLoc 256 0x10) && u.me.asked == .no && u.bufferFree 0 &&
     goes (exec (.ldaD g0 3 4 .pod) u) fun t => t.me.asked == .out && t.pkts == [.req 0 0 (.load 8 true) (sramLoc 256 0x10) (.held 3) 1256 [] []]) &&
    issues s (.strD g0 5 4 .pod) g0 { src := [4, 5] } && goes (exec (.strD g0 5 4 .pod) s) fun t => t.me.stream.length == 1) = true := by
  decide +kernel
theorem test_amo : (let s := locals.store (sramLoc 0 0x10) (bytesOf 8 20)
    let b : Board := { src := [4, 5], dst := [3] }
    issues s (.amoAdd .pod .relaxed 3 4 5 .d64) always b && gives (s.resolve s.who (s.getS 4) 8 .amo) (sramLoc 0 0x10) &&
    atOnce s (sramLoc 0 0x10) 8 && !escapes 4 &&
    (goes (exec (.amoAdd .pod .relaxed 3 4 5 .d64) s) fun t => t.readNat (sramLoc 0 0x10) 8 == 4 && t.getS 3 == 20) &&
    issues s (.amoCas .pod .acquire 3 4 5 .w32) always { src := [4, 5, 3], dst := [3] } &&
    (goes (exec (.amoCas .pod .acquire 3 4 5 .w32) s) fun t => t.readNat (sramLoc 0 0x10) 8 == 20 && t.getS 3 == 20) &&
    issues s (.amoCas .pod .release 3 4 5 .w32) always { src := [4, 5, 3], dst := [3] } && s.me.asked != .out &&
    (goes (exec (.amoCas .pod .release 3 4 5 .w32) s) fun t => t.me.sPending 3 && t.me.stream.map Access.op == [.amo 9 .w32 (s.getS 5) (s.getS 3)]) &&
    issues s (.amoMax .pod .release 3 4 5 .w32) always b && gives (s.resolve s.who (s.getS 4) 4 .amo) (sramLoc 0 0x10) &&
    goes (exec (.amoMax .pod .release 3 4 5 .w32) s) fun t => t.me.sPending 3 && t.me.stream.length == 1) = true := by decide +kernel
theorem test_counters : (let s := (regs 0x8000000000000010 5).store (sramLoc 0 0x10) (bytesOf 8 5)
    let u := s.store (sramLoc 0 0x10) (bytesOf 8 4)
    let b : Board := { src := [4, 5] }
    issues s (.sbar g0 4) g0 { src := [4] } && issues s (.waitc g0 .tile 4 5) g0 b && gives (s.resolve s.who (s.getS 4) 8 .read) (sramLoc 0 0x10) &&
    spaceOf (s.getS 4) != 0x803 && spaceOf (s.getS 4) != 0x804 && atOnce s (sramLoc 0 0x10) 8 &&
    (goes (exec (.waitc g0 .tile 4 5) s) fun t => t.me.pc == 0x1004) && issues u (.waitc g0 .tile 4 5) g0 b &&
    goes (exec (.waitc g0 .tile 4 5) u) fun t => t.me.sleep == some (sramLoc 0 0x10) && t.me.pc == 0x1000 &&
      t.me.seen == 4 && t.watch == [(sramLoc 0 0x10, false)] && (goes (exec (.waitcWake (sramLoc 0 0x10)) t) fun v => v.me.sleep.isSome) &&
      (t.store (sramLoc 0 0x18) [5]).watch == t.watch && (goes (exec (.waitcWake (sramLoc 0 0x10)) (t.store (sramLoc 0 0x17) [0])) fun v => v.me.sleep == none) &&
      goes (exec (.waitcWake (sramLoc 0 0x10)) (t.store (sramLoc 0 0x10) [5])) fun v => v.me.sleep == none) = true := by decide +kernel
theorem test_checks : (let r := fun (a : Word) n k => s0.resolve s0.who a n k
    let bad := fun (x : Res Nat) (c : Cause) => match x with
      | .error (.trap i) => i.cause == c
      | _ => false
    gives (r 0x80000000002FFFFF 1 .read) (sramLoc 0 0x2FFFFF) && bad (r 0x8000000000300000 1 .read) .apertureMiss &&
    gives (r 0x8010000000400000 8 .write) (sramLoc (tileInBlock 0 1) 0) && bad (r 0x8010000001000000 8 .read) .apertureMiss &&
    bad (r 0x8030000000000000 8 .write) .apertureMiss && bad (r 0x8040000000000000 8 .read) .apertureMiss &&
    bad (r 0x8050000000000000 8 .read) .apertureMiss && bad (r 0xFEF0000000000000 8 .read) .apertureMiss &&
    gives (r 0x8020000040400010 8 .read) (sramLoc (tileKey 1 1) 0x10) && bad (r 0x8020000080000000 8 .read) .apertureMiss &&
    bad (r 0x8020000000300000 8 .read) .apertureMiss && bad (r 0x8020004000000000 8 .read) .apertureMiss) = true := by decide +kernel
/-- R11: four bytes of a parcel whose base is no multiple of 4 reach into the next page, which is checked too. -/
theorem test_acrossPages : (let s := fun (l : List Tlb) => ctx fun x => { x with tlb := l }
    let a : Tlb := ⟨0, 0x40000000, 0x1000, 0x200000, 6⟩
    let one := fun l => (s l).translateSpan 1 0x40000FFE 4 .read .supervisor 0
    gives (one [a, ⟨1, 0x40001000, 0x1000, 0x201000, 6⟩]) 0x200FFE &&
    (match one [a, ⟨1, 0x40001000, 0x1000, 0x203000, 6⟩], one [a, ⟨1, 0x40001000, 0x1000, 0x201000, 0⟩] with
      | .error .hole, .error (.trap _) => true
      | _, _ => false) && gives ((s [a]).translateSpan 1 0x40000FFC 4 .read .supervisor 0) 0x200FFC) = true := by decide +kernel
/-- A WEIGHT share of 64 bytes at 0x100 of die 0; a window over 20 bytes at 0x40000000, where a page of 2 MiB lies. -/
theorem test_windowChecks : (let s := ((ctx fun x => { x with tlb := [⟨0, 0x40000000, 0x200000, 0x200000, 6⟩] }).updPart 0 fun p =>
      { p with shares := [(0, { base := 0x100, size := 64 })] }).updTile 0 fun t => { t with windows := [(3, ⟨256, 0x40000000, 20⟩)] }
    let r := fun (a : Word) n k => s.resolve s.who a n k
    let bad := fun (x : Res Nat) (c : Cause) => match x with
      | .error (.trap i) => i.cause == c
      | _ => false
    gives (r 0x8030000000000038 8 .read) (weightLoc 0 0x138) && bad (r 0x8030000000000040 8 .read) .apertureMiss &&
    bad (r 0x8030000000000038 8 .write) .weightStoreWrite && bad (r 0x8030000000000040 8 .amo) .apertureMiss &&
    gives (r 0x8040000030000010 4 .write) 0x200010 && bad (r 0x8040000030000014 4 .write) .parcelEscape &&
    bad (r 0x8040000020000000 4 .write) .apertureMiss && bad (r 0x8040000100000000 8 .read) .apertureMiss && s.me.level == .supervisor &&
    gives (r 0x40000018 8 .read) 0x200018 && (let u := s.updCtx 1 fun x => { x with tlb := [⟨0, 0x40000000, 0x200000, 0x200000, 4⟩] }
      bad (u.resolve u.who 0x40000018 8 .read) .pageProtection)) = true := by decide +kernel
theorem test_walk : (let s := (s0.store 0x2000 (bytesOf 8 0x3001)).store 0x3008 (bytesOf 8 0x8F)
    gives (s.pte (0x2000 + 8 * bits (0x1000 : Word).toNat 21 9)) 0x3001 && gives (s.pte 0x3008) 0x8F && gives (s.pte 0x4000) 0 &&
    permits 0x4F .read .supervisor && !permits 0x4F .read .user) = true := by decide +kernel
/-- Leaves at each level, the last entry of a group of 16 among them; entry 16 of the table at 0x3000 has another address than its group. -/
def leaves : State := (((s0.store 0x2000 (bytesOf 8 0x40001B)).store 0x2008 (bytesOf 8 0x40101B)).store 0x2010 (bytesOf 8 0x40011B)).store 0x3000
  ((List.range 16).flatMap fun j => bytesOf 8 (0x100033 + 4096 * j)) |>.store 0x3080 (bytesOf 8 0x200033)
theorem test_leaves : (let w := fun (va : Word) n t => leaves.walkFrom va .read n t
    let bad := fun (x : Res (Leaf × Nat)) (c : Cause) n => match x with
      | .error (.trap i) => i.cause == c && i.level == n
      | _ => false
    gives (leaves.pte 0x2000) 0x40001B && gives (w 0x5000 2 0x2000) (⟨2 ^ 21, 0x400000, 0x1B⟩, 2) && bad (w 0x200000 2 0x2000) .pageReservedBit 2 &&
    bad (w 0x400000 2 0x2000) .pageReservedBit 2 && bad (w 0 3 0x2000) .pageReservedBit 3 && gives (leaves.pte 0x3078) 0x10F033 &&
    gives (w 0xF000 1 0x3000) (⟨2 ^ 16, 0x100000, 0x33⟩, 1) && bad (w 0x10000 1 0x3000) .pageReservedBit 1) = true := by decide +kernel

/-! ### Tasks, channels, the deque, parcels -/

theorem test_taskSpawn : (let s := (regs 0x3000 9).updMe fun t => { t.sset 7 8 with rmode := 2 }
    let b : Board := { src := [4, 5, 7], dst := [3] }
    issues s (.tspawn g0 3 4 5) g0 b && s.cur.freeSlot == some 1 && s.task == 0 &&
    (goes (exec (.tspawn g0 3 4 5) s) fun t => t.getS 3 == 1 && (t.cur.taskAt 1).pc == 0x3000 && (t.cur.taskAt 1).sget 1 == 9 &&
      (t.cur.taskAt 1).sget 7 == 8 && (t.cur.taskAt 1).sget 4 == 0 && (t.cur.taskAt 1).rmode == 2) &&
    issues (regs 0x3002 9) (.tspawn g0 3 4 5) g0 b && (goes (exec (.tspawn g0 3 4 5) (regs 0x3002 9)) fun t => took t .misaligned 0x3002) &&
    (let f := s.updTile 0 fun t => { t with tasks := t.tasks.map fun x => { x with live := true } }
     issues f (.tspawn g0 3 4 5) g0 b && f.cur.freeSlot == none && goes (exec (.tspawn g0 3 4 5) f) fun t => t.getS 3 == 0)) = true := by
  decide +kernel
theorem test_taskEnd : (let s := (me fun t => { t with flags := 5 }).updTile 0 fun t =>
      { t with win0 := some 0, chans := [(2, { bound := some 0 })] }
    issues s (.exit g0) g0 {} && issues s (.texit g0) g0 {} && s.myWords == [] && s.me.waiting == [] &&
    goes (exec (.exit g0) s) fun t => !t.me.live && t.cur.win0 == none && (t.cur.chan 2).bound == none && (t.ctxAt 1).sticky == 5) = true := by
  decide +kernel
theorem test_bind : (let c := fun (x : Chan) (v : Word) => (regs v 0).updTile 0 fun t => t.setChan 2 x
    let w := Instr.bind g0 3 4
    let go := fun s => issues s w g0 { src := [4], dst := [3] }
    go (c {} 2) && (goes (exec w (c {} 2)) fun t => (t.cur.chan 2).bound == some 0 && t.getS 3 == 0) &&
    go (c { bound := some 0 } 0x12) && (goes (exec w (c { bound := some 0 } 0x12)) fun t => (t.cur.chan 2).bound == none) &&
    go (c { bound := some 1 } 2) && go (c {} 0x12) && goes (exec w (c {} 0x12)) fun t => t.getS 3 == 1) = true := by decide +kernel
theorem test_recv : (let c := fun (x : Chan) => (regs 2 0).updTile 0 fun t => t.setChan 2 x
    let w := Instr.recv g0 3 4
    let go := fun s => issues s w g0 { src := [4], dst := [3] }
    go (c {}) && (goes (exec w (c {})) fun t => took t .portUnbound 2) && go (c ⟨some 0, [7, 8]⟩) &&
    goes (exec w (c ⟨some 0, [7, 8]⟩)) fun t => t.getS 3 == 7 && (t.cur.chan 2).fifo == [8]) = true := by decide +kernel
theorem test_send : (let w := Instr.send g0 3 4 5
    let go := fun s => issues s w g0 { src := [4, 5], dst := [3] }
    let near := regs 0x20101 7
    go near && !escapes 7 && near.reaches 0x101 && (goes (exec w near) fun t => t.me.sPending 3 && t.pkts == [.send 0 0 3 0x101 2 7]) &&
    go (regs 0x20202 7) && !(regs 0x20202 7).reaches 0x202 && (goes (exec w (regs 0x20202 7)) fun t => t.getS 3 == 2) &&
    go (regs 0x100001 7) && (regs 1 0x8040000000000000 |> fun s => go s && escapes (s.getS 5) &&
      goes (exec w s) fun t => took t .parcelEscape 1)) = true := by decide +kernel
theorem test_sendArrival : (let p := fun (x : Chan) => { (s0.updTile 1 fun t => t.setChan 2 x) with pkts := [.send 0 0 3 1 2 7] }
    (goes (exec (.sendArrival 0) (p ⟨some 1, [5]⟩)) fun t => ((t.tileAt 1).chan 2).fifo == [5, 7] && t.pkts == [] && t.getS 3 == 0) &&
    (goes (exec (.sendArrival 0) (p {})) fun t => t.getS 3 == 3) &&
    goes (exec (.sendArrival 0) (p ⟨some 1, List.replicate 8 0⟩)) fun t => t.getS 3 == 1) = true := by decide +kernel
theorem test_deque : (let q := fun (l : List Word) (v : Word) => (regs v 0).updTile 0 fun t => { t with deque := l }
    let b : Board := { src := [4], dst := [3] }
    let full := q (List.replicate 64 1) 5
    issues (q [6] 5) (.dqpush g0 3 4) g0 b && (goes (exec (.dqpush g0 3 4) (q [6] 5)) fun t => t.cur.deque == [6, 5]) &&
    issues (q [] (-1)) (.dqpush g0 3 4) g0 b && (goes (exec (.dqpush g0 3 4) (q [] (-1))) fun t => t.getS 3 == 2) &&
    issues full (.dqpush g0 3 4) g0 b && (goes (exec (.dqpush g0 3 4) full) fun t => t.getS 3 == 1) &&
    issues (q [6, 7] 5) (.dqpop g0 3) g0 { dst := [3] } && (goes (exec (.dqpop g0 3) (q [6, 7] 5)) fun t => t.getS 3 == 7 && t.cur.deque == [6]) &&
    (goes (exec (.dqpop g0 3) (q [] 5)) fun t => t.getS 3 == -1) && (goes (exec (.dqlen g0 3) (q [6, 7] 5)) fun t => t.getS 3 == 2) &&
    issues (q [6, 7] 0) (.dqsteal g0 3 4) g0 b && (q [6, 7] 0).reaches 0 && (goes (exec (.dqsteal g0 3 4) (q [6, 7] 0)) fun t => t.getS 3 == 6) &&
    issues (q [] 1) (.dqsteal g0 3 4) g0 b && (q [] 1).reaches 1 &&
    (goes (exec (.dqsteal g0 3 4) (q [] 1)) fun t => t.pkts == [.steal 0 0 3 1]) &&
    goes (exec (.dqstealArrival 0) { (s0.updTile 1 fun t => { t with deque := [8, 9] }) with pkts := [.steal 0 0 3 1] }) fun t =>
      (t.tileAt 1).deque == [9] && t.getS 3 == 8) = true := by decide +kernel

/-- Where clauses meet: all ones on a full deque; a steal of an empty deque, here and at another tile, and of a tile out of reach; a full
channel that nobody has bound. -/
theorem test_emptyAndFull : (let q := fun (l : List Word) (v : Word) => (regs v 0).updTile 0 fun t => { t with deque := l }
    let b : Board := { src := [4], dst := [3] }
    let w := Instr.dqsteal g0 3 4
    let f := q (List.replicate 64 1) (-1)
    let far := { s0 with pkts := [.steal 0 0 3 1] }
    let ch := { (s0.updTile 1 fun t => t.setChan 2 ⟨none, List.replicate 8 0⟩) with pkts := [.send 0 0 3 1 2 7] }
    issues f (.dqpush g0 3 4) g0 b && (goes (exec (.dqpush g0 3 4) f) fun t => t.getS 3 == 2 && t.cur.deque == f.cur.deque) &&
    issues (q [] 0) w g0 b && (q [] 0).reaches 0 && (goes (exec w (q [] 0)) fun t => t.getS 3 == -1) && issues (q [] 0x909) w g0 b &&
    !(q [] 0x909).reaches 0x909 && (goes (exec w (q [] 0x909)) fun t => t.getS 3 == -1 && t.pkts == []) && far.inOrder 0 0 1 &&
    (far.tileAt 1).deque == [] && (goes (exec (.dqstealArrival 0) far) fun t => t.getS 3 == -1 && t.pkts == []) && ch.inOrder 0 0 1 &&
    goes (exec (.sendArrival 0) ch) fun t => t.getS 3 == 3 && ((t.tileAt 1).chan 2).fifo == List.replicate 8 0) = true := by decide +kernel

/-- The context of `s0` has a directory at 1 MiB, a heap of one 2 MiB page at 1 GiB that the ports of its first four 4 KiB keep, and parcel 256 of 64 bytes in slot 1. -/
def heapCtx : State := ctx fun x => { x with
  record := { x.record with pdir := 0x100000, heap := 0x40000000, heaplen := 0x200000 }
  tlb := (List.range 4).map fun port => ⟨port, 0x40000000, 0x200000, 0x200000, 6⟩ }
def par0 : Par := { slot := 1, handle := 256, base := 0x40000000, len := 64, state := 1 }
def withPar (p : Par) (x y : Word) : State :=
  ({ heapCtx with serial := 2 }.putPar 1 p).updMe fun t => ((t.sset 4 256).sset 5 x).sset 3 y

theorem test_parcelAccess : (let s := withPar par0 8 7
    issues s (.pld g0 6 4 5 .w32) g0 { src := [4, 5], dst := [6] } && gives (s.parcelEntry (s.getS 4) (s.getS 5) 4 .read false) par0 && gives (s.parcelLoc par0 (s.getS 5) 4 .read) 0x200008 &&
    (goes (exec (.pld g0 6 4 5 .w32) s) fun t => t.me.stream.map Access.loc == [0x200008] && t.me.sPending 6) &&
    issues s (.pst g0 3 4 5 .d64) g0 { src := [4, 5, 3] } && gives (s.parcelEntry (s.getS 4) (s.getS 5) 8 .write false) par0 && gives (s.parcelLoc par0 (s.getS 5) 8 .write) 0x200008 &&
    (goes (exec (.pst g0 3 4 5 .d64) s) fun t => t.me.stream.map Access.op == [.store (bytesOf 8 7)]) &&
    issues s (.pldr g0 6 4 5) g0 { src := [4, 5], dst := [6] } && atOnce s 0x200008 4 && s.readNat 0x200008 4 == 0 &&
    (goes (exec (.pldr g0 6 4 5) s) fun t => t.getS 6 == 0 && t.me.pc == 0x1004) &&
    (let u := s.store 0x200008 [64, 0, 0, 0]
     issues u (.pldr g0 6 4 5) g0 { src := [4, 5], dst := [6] } && u.readNat 0x200008 4 == 64 &&
     goes (exec (.pldr g0 6 4 5) u) fun t => took t .parcelEscape 64) &&
    issues s (.pstr g0 3 4 5) g0 { src := [4, 5, 3] } && gives (s.parcelEntry (s.getS 4) (s.getS 5) 4 .write false) par0 && gives (s.parcelLoc par0 (s.getS 5) 4 .write) 0x200008 &&
    (goes (exec (.pstr g0 3 4 5) s) fun t => t.me.stream.map Access.op == [.store (bytesOf 4 7)]) &&
    (let v := withPar par0 8 64
     issues v (.pstr g0 3 4 5) g0 { src := [4, 5, 3] } && gives (v.parcelEntry (v.getS 4) (v.getS 5) 4 .write false) par0 && gives (v.parcelLoc par0 (v.getS 5) 4 .write) 0x200008 &&
     goes (exec (.pstr g0 3 4 5) v) fun t => took t .parcelEscape 64)) = true := by decide +kernel
theorem test_parcelQueries : (let s := withPar { par0 with maps := 2 } 8 7
    let u := s.updMe fun t => t.sset 4 512
    let b : Board := { src := [4], dst := [3] }
    s.par 1 256 == some { par0 with maps := 2 } && u.par 1 512 == none &&
    issues s (.plen g0 3 4) g0 b && (goes (exec (.plen g0 3 4) s) fun t => t.getS 3 == 64) && (goes (exec (.plen g0 3 4) u) fun t => t.getS 3 == 0) &&
    issues s (.pstat g0 3 4) g0 b && (goes (exec (.pstat g0 3 4) s) fun t => t.getS 3 == 0x201) &&
    issues u (.pfree g0 4) g0 { src := [4] } && (goes (exec (.pfree g0 4) u) fun t => took t .parcelAbsent 512) &&
    (goes (exec (.pfree g0 4) s) fun t => took t .parcelPinned 256) && issues s (.pnew g0 3 4) g0 b &&
    (let v := s.updMe fun t => t.sset 4 65
     issues v (.pnew g0 3 4) g0 b && goes (exec (.pnew g0 3 4) v) fun t => t.me.landings == [⟨3, 1, []⟩])) = true := by decide +kernel
theorem test_parcelChanges : (let s := withPar par0 8 7
    let b : Board := { src := [4], dst := [3] }
    s.par 1 256 == some par0 && issues s (.pfree g0 4) g0 { src := [4] } && (goes (exec (.pfree g0 4) s) fun t => t.par 1 256 == none) &&
    issues s (.pmap g0 3 4) g0 b && s.cur.freeWindow == some 0 && (goes (exec (.pmap g0 3 4) s) fun t =>
      t.getS 3 == 0x8040000000000000 && t.par 1 256 == some { par0 with maps := 1 } &&
      gives (t.resolve t.who 0x8040000000000010 8 .read) 0x200010 && (let u := t.updMe fun x => x.sset 4 0x8040000000000000
        issues u (.punmap g0 4) g0 { src := [4] } && goes (exec (.punmap g0 4) u) fun v => v.par 1 256 == some par0)) &&
    issues s (.precv g0 3) g0 { dst := [3] } && (s.ctxAt 1).arrivals == [] &&
    (let a := (withPar { par0 with state := 4 } 8 7).updCtx 1 fun x => { x with arrivals := [256, 512] }
     issues a (.precv g0 3) g0 { dst := [3] } && (a.ctxAt 1).arrivals == [256, 512] &&
     goes (exec (.precv g0 3) a) fun t => t.getS 3 == 256 && (t.ctxAt 1).arrivals == [512] && t.par 1 256 == some par0)) = true := by
  decide +kernel

/-- A heap with room for one parcel of 64 bytes has one place for it. -/
def oneRoom : State := (heapCtx.updCtx 1 fun x => { x with record := { x.record with heaplen := 64 } }).updMe fun t => t.sset 4 64
theorem test_parcelNew : (issues oneRoom (.pnew g0 3 4) g0 { src := [4], dst := [3] } && oneRoom.newHandle == 256 &&
    oneRoom.dirFree 1 oneRoom.newHandle == some 1 &&
    oneRoom.serial < 2 ^ 40 && gives (oneRoom.physical 1 .write .supervisor 0 (piecesOf 0x40000000 64)) [(0x200000, 64)]) = true := by decide +kernel
theorem test_heapRoom : oneRoom.heapRoom 1 64 oneRoom.newHandle = some 0x40000000 := by
  have h : oneRoom.extents 1 = [] := by decide +kernel
  have l : (oneRoom.ctxAt 1).record.heap = 0x40000000 := by decide +kernel
  have n : (oneRoom.ctxAt 1).record.heaplen = 64 := by decide +kernel
  simp [State.heapRoom, h, l, n, gapsFrom]

/-! ### Engine words -/

/-- The task holds vector window 0; an entry of the task at the head of a queue. -/
def vec (x y : Word) : State := (regs x y).updTile 0 fun t => { t with win0 := some 0 }
def entry (e : Eng) (w : Instr) : Entry := { uid := 0, task := 0, tok := some ⟨e, 0⟩, word := w }
def waitingFor (e : Eng) (s : State) : State := s.updMe fun t => t.takeToken e
def head (e : Eng) (x : Entry) (s : State) : State := (waitingFor e s).updTile 0 fun t => t.setQueue e (x :: t.queue e)

/-- The premises of `MayPush` and of `AtHead`. -/
def hasRoom (s : State) (e : Eng) : Bool :=
  decide ((s.cur.queue e).length < Config.queueEntries) && (s.cur.nextPusher e).all fun k => k == s.task
def mayPush (s : State) (w : Instr) (e : Eng) : Bool := issues s w always {} && !s.me.pushBlocked w && hasRoom s e
def atHead (s : State) (e : Eng) (x : Entry) : Bool :=
  s.running 0 && (s.tileAt 0).queue e == [x] && !x.faulted && !x.held && x.deps == [] && x.guard == always &&
    !(s.tileAt 0).behindBar x

theorem test_vectorPush : ((vec 5 6).cur.winOf (vec 5 6).task == 1 && mayPush (vec 5 6) (.vld 3 4 0 .i32) .v &&
    mayPush (vec 5 6) (.vpop 3 1) .v && (goes (exec (.vld 3 4 0 .i32) (vec 5 6)) fun t => t.cur.vq.map Entry.a == [5] && t.me.pc == 0x1004) &&
    (goes (exec (.mpop 3 1 0 .i8) (vec 5 6)) fun t => t.me.sPending 3) && s0.cur.winOf s0.task == 0 &&
    issues s0 (.vadd 1 2 3 0 .f32) always {} && (goes (exec (.vadd 1 2 3 0 .f32) s0) fun t => took t .vwinNone 0) &&
    [Instr.vst 1 2 0 .i8, .vscat 1 2 3 0 .i32, .vamoMax 1 2 3 0 .pod .w32, .mand 1 2 0 .i8, .vpush 1 2, .vext 1 2 3 .i8, .viota 1 0 .i32].all fun w =>
      issues s0 w always {} && goes (exec w s0) fun t => took t .vwinNone 0) = true := by decide +kernel
theorem test_enginePush : (mayPush (regs 5 6) (.mldw 4 .i8 3 1) .m && mayPush (regs 5 6) (.mmul 2 4 1 .i8 0 0) .m &&
    (goes (exec (.mldw 4 .i8 3 1) (regs 5 6)) fun t => t.cur.mq.map Entry.a == [5] && t.me.waiting == [⟨.m, 0⟩]) &&
    mayPush (regs 5 6) (.cfill 3 4 5) .c && (goes (exec (.cfill 3 4 5) (regs 5 6)) fun t => t.cur.cq.length == 1) &&
    mayPush (regs 5 6) (.rld 3 4 5 .pod) .l && goes (exec (.rld 3 4 5 .pod) (regs 5 6)) fun t => t.cur.lq.map Entry.word == [.rld 3 4 5 .pod]) = true := by
  decide +kernel
theorem test_post : (let s := withPar par0 0 7
    mayPush s (.post 6 4 5) .l && s.par 1 256 == some par0 && !s.deadBit 1 0 &&
    goes (exec (.post 6 4 5) s) fun t => t.par 1 256 == some { par0 with state := 2 } && t.cur.lq.length == 1) = true := by decide +kernel

/-- Code at 0x1000 in a page that the context may execute. -/
def code (w : Nat) : State :=
  ((regs 5 6).updCtx 1 fun x => { x with tlb := [⟨1, 0x1000, 0x1000, 0x6000, 10⟩] }).store 0x6004 (bytesOf 4 w)
def mmulWord : Nat := encode (.mmul 2 4 1 .i8 0 0)
theorem test_copym : (let s := code mmulWord
    mayPush s (.copym 3 2 4 5) .c && gives (s.fetch (s.me.pc + 4)) mmulWord && decode mmulWord == some (.mmul 2 4 1 .i8 0 0) &&
    followOn 2 (.mmul 2 4 1 .i8 0 0) && s.me.slot == none && !s.me.pushBlocked (.mmul 2 4 1 .i8 0 0) && hasRoom s .m &&
    goes (exec (.copym 3 2 4 5) s) fun t => t.me.pc == 0x1008 && t.cur.cq.length == 1 && t.cur.mq.map Entry.held == [true]) = true := by
  decide +kernel
theorem test_dep : (let s := code mmulWord
    let v := waitingFor .c s
    let d := Instr.dep g0 0x41 0 0
    issues v d always {} && gives (v.fetch (v.me.pc + 4)) mmulWord && !copymBits mmulWord && (Instr.mmul 2 4 1 .i8 0 0).engine? == some .m &&
    gives (v.needWindow .m) () && !v.me.pushBlocked (.mmul 2 4 1 .i8 0 0) && hasRoom v .m && gives (v.tokens [0x41, 0, 0]) [⟨.c, 0⟩] &&
    (goes (exec d v) fun t => t.cur.mq.map Entry.deps == [[⟨.c, 0⟩]] && t.me.pc == 0x1008) && issues s d always {} &&
    (match s.tokens [0x41, 0, 0] with
      | .error (.trap i) => i == ⟨.tokenRange, 0, .read, 0⟩
      | _ => false) && (goes (exec d s) fun t => took t .tokenRange 0) &&
    (let n := code (encode (.nop g0))
     issues n d always {} && (Instr.nop g0).engine? == none && goes (exec d n) fun t => took t .illegalEncoding 0)) = true := by decide +kernel
theorem test_discard : (let x := { entry .m (.mtag 4) with guard := ⟨false, 2⟩, a := 9 }
    let s := head .m x s0
    s.running 0 && (s.tileAt 0).mq == [x] && !(s.me.pPending 2) && !s.me.guard ⟨false, 2⟩ && s.me.waiting == [⟨.m, 0⟩] &&
    goes (exec (.engineQueueHeadIssue 0 .m 1) s) fun t => t.cur.mq == [] && t.cur.rtag == 0 && t.me.waiting == []) = true := by
  decide +kernel

/-- v1, v2, v3 begin with 7, 5 and -3. -/
def vregs : State := own fun t => { t with vs := [(1, 7), (2, 5), (3, 0xFFFFFFFD)] }
def vone (w : Instr) (v : Nat) : Bool :=
  let s := head .v (entry .v w) vregs
  atHead s .v (entry .v w) && goes (exec (.engineQueueHeadIssue 0 .v 1) s) fun t =>
    elem 32 (t.cur.vget 0 1).toNat 0 == v && t.cur.vget 0 2 == 5 && t.me.waiting == []
theorem test_vectorIntegers : (vone (.vadd 1 2 3 0 .i32) 2 && vone (.vsub 1 2 3 0 .i32) 8 && vone (.vmul 1 2 3 0 .i32) 0xFFFFFFF1 &&
    vone (.vmad 1 2 3 0 .i32) 0xFFFFFFF8 && vone (.vmsb 1 2 3 0 .i32) 22 && vone (.vabs 1 3 0 .i32) 3 && vone (.vneg 1 2 0 .i32) 0xFFFFFFFB &&
    vone (.vmin 1 2 3 0 .i32) 0xFFFFFFFD && vone (.vmax 1 2 3 0 .i32) 5 && vone (.vmulhi 1 2 3 0 .i32) 0xFFFFFFFF) = true := by
  decide +kernel
theorem test_vectorWords : (let w := fun i => (vMemOf ⟨vregs.tileAt 0, 0, modeOf 0⟩ 0 0 i).isNone && (vCompute ⟨vregs.tileAt 0, 0, modeOf 0⟩ 0 0 i).isSome
    w (.vand 1 2 3 0 .i32) && w (.vcmp 1 2 3 0 .lt .i32) && w (.mpop 4 1 0 .i32) && w (.vany 1 1 0 .i32) && w (.vadd 1 2 3 0 .f32)) = true := by
  decide +kernel
/-- 1.0 / 3 in F32 is inexact: bit 4 of FLAGS joins bit 0 that was there. -/
theorem test_vectorFlags : (let s := (own fun t => { t with vs := [(2, 0x7FC00001), (3, 0x7F800001)] }).updMe fun t => { t with flags := 2 }
    let x := entry .v (.vadd 1 2 3 0 .f32)
    let u := head .v x s
    match vCompute ⟨u.tileAt 0, 0, modeOf 0⟩ 0 0 x.word with
    | some r => atHead u .v x && (vMemOf ⟨u.tileAt 0, 0, modeOf 0⟩ 0 0 x.word).isNone && r.flags != 0 &&
        goes (exec (.engineQueueHeadIssue 0 .v 1) u) fun t => t.me.flags == (2 ||| r.flags) && t.me.flags != 2
    | none => false) = true := by decide +kernel
theorem test_nan : ((Ty.f32).isFlt && (valOf .f32 0x7FC00001).isNan && (vAddSub .f32 .rne false 0x7FC00001 0x3F800000 0).x == nanOf .f32 &&
    (vMul .bf16 .rz 0x7F81 0x3F80 0).x == nanOf .bf16) = true := by decide +kernel
/-- The first 32 bits of v1 after a word at the head of V; p1 and s6 take what MPOP, VANY, VALL and VEXT give. -/
def vrun (x : Entry) (p : State → Bool) : Bool :=
  let s := head .v x vregs
  atHead s .v x && goes (exec (.engineQueueHeadIssue 0 .v 1) s) p
def vlow (x : Entry) (v : Nat) : Bool := vrun x fun t => elem 32 (t.cur.vget 0 1).toNat 0 == v
theorem test_vectorBits : (vone (.vand 1 2 3 0 .i32) 5 && vone (.vor 1 2 3 0 .i32) 0xFFFFFFFD && vone (.vxor 1 2 3 0 .i32) 0xFFFFFFF8 &&
    vone (.vnot 1 2 0 .i32) 0xFFFFFFFA && vone (.vshl 1 2 3 0 .i32) 0xA0000000 && vone (.vshr 1 3 2 0 .i32) 0x07FFFFFF &&
    vone (.vsar 1 3 2 0 .i32) 0xFFFFFFFF && vone (.vclz 1 2 0 .i32) 29 && vone (.vclz 1 4 0 .i32) 32 && vone (.vpopc 1 3 0 .i32) 31) = true := by
  decide +kernel
theorem test_vectorReductions : (vone (.vredadd 1 2 0 .i32) 5 && vone (.vredor 1 3 0 .i32) 0xFFFFFFFD && vone (.vredand 1 3 0 .i32) 0 &&
    vone (.vredmax 1 3 0 .i32) 0 && vone (.vredmin 1 3 0 .i32) 0xFFFFFFFD && vone (.vredmax 1 2 1 .i32) 0x80000000 &&
    vone (.vredmin 1 2 1 .i32) 0x7FFFFFFF && vone (.vscan 1 3 0 .i32) 0xFFFFFFFD && vone (.viota 1 0 .i32) 0 &&
    (vrun (entry .v (.vcmp 1 3 2 0 .lt .i32)) fun t => (t.cur.mget 0 1).getLsbD 0 && !(t.cur.mget 0 1).getLsbD 1) &&
    vrun (entry .v (.vcmp 0 3 2 0 .gt .i32)) fun t => (t.cur.mget 0 0).getLsbD 0) = true := by decide +kernel
theorem test_vectorPermutes : (vone (.vcvt 1 3 .i32 0 0 .rne .i8) 0xFD && vone (.vperm 1 2 3 0 .i32) 0 &&
    vlow { entry .v (.vbcast 1 5 0 .i32) with a := 0x123456789 } 0x23456789 && vlow { entry .v (.vslide 1 2 5 0 .i32) with b := 1 } 0 &&
    vone (.vsel 1 2 3 0 .i32) 5 && vlow { entry .v (.vmovs 1 5 6 .i32) with a := 9 } 9 && (vrun (entry .v (.vext 6 3 5 .i32)) fun t =>
      t.getS 6 == -3) && (vrun { entry .v (.vext 6 3 5 .i32) with b := 128 } fun t => t.getS 6 == 0) &&
    (vrun (entry .v (.mand 1 0 0 .i32)) fun t => (t.cur.mget 0 1).getLsbD 127 && !(t.cur.mget 0 1).getLsbD 128) &&
    (vrun (entry .v (.mpop 6 0 0 .i32)) fun t => t.getS 6 == 128) && (vrun (entry .v (.vany 1 0 0 .i32)) fun t => t.getP 1) &&
    (vrun (entry .v (.vall 1 1 0 .i32)) fun t => !t.getP 1) && vone (.vcmul 1 2 3 0 .ci8) 0xFBF1 && vone (.vconj 1 3 0 .ci8) 0x01FF01FD) = true := by
  decide +kernel
theorem test_vectorSpecials : (let s := head .v (entry .v (.vrcp 1 2 0 .f32)) (own fun t => { t with vs := [(2, 0x7FC00001)] })
    atHead s .v (entry .v (.vrcp 1 2 0 .f32)) && (valOf .f32 0x7FC00001).isNan &&
    goes (exec (.engineQueueHeadIssue 0 .v 1) s) fun t => elem 32 (t.cur.vget 0 1).toNat 0 == nanOf .f32) = true := by decide +kernel
theorem test_vectorElements : (let ld : VMem := ⟨.load, 4, false, 1, 0, 128, vContig 0x8000000000000040 32⟩
    let x := entry .v (.vld 1 4 0 .i32)
    let s := vregs.store (sramLoc 0 0x44) [9, 0, 0, 0]
    gives (s.resolve (s.whoOf 0 x) (ld.addr 1) 4 .read) (sramLoc 0 0x44) && !s.poisoned (sramLoc 0 0x44) 4 &&
    !elsewhere 0 (sramLoc 0 0x44) && (s.admitAt 0 (sramLoc 0 0x44) 4).isOk && (s.admitAt 0 (sramLoc 0 0x40) 4).isOk &&
    (match s.vElement 0 x ld 1 with
      | .ok (t, false) => t.cur.vget 0 1 == 0x900000007
      | _ => false) && gives (s.resolve (s.whoOf 0 x) (ld.addr 0) 4 .write) (sramLoc 0 0x40) &&
    (match s.vElement 0 x { ld with acc := .store } 0 with
      | .ok (t, false) => t.readNat (sramLoc 0 0x40) 4 == 7 && t.byte (sramLoc 0 0x44) == 9
      | _ => false) &&
    (let far : VMem := { ld with acc := .store, addr := vContig 0x8010000000400000 32 }
     gives (s.resolve (s.whoOf 0 x) (far.addr 0) 4 .write) (sramLoc 256 0) && elsewhere 0 (sramLoc 256 0) &&
     match s.vElement 0 x far 0 with
      | .ok (t, true) => t.pkts == [(s.reqPkt 0 0 (.store [7, 0, 0, 0]) (sramLoc 256 0) (.word 0 0)).2] && t.cur.outbound == 1
      | _ => false)) = true := by decide +kernel
theorem test_matrixStatus : (let m := fun (w : Instr) (a : Word) => head .m { entry .m w with a := a } (own fun t =>
      { t with plane1 := { st := 2, depth := 8 }, accs := [(3, ⟨1, false, .f32, 0, 5⟩)], slots := [(130, 9)] })
    let ok := fun w a => atHead (m w a) .m { entry .m w with a := a }
    ok .mswp 0 && (goes (exec (.engineQueueHeadIssue 0 .m 1) (m .mswp 0)) fun t => t.cur.plane0.depth == 8 && t.cur.plane1.st == 0) &&
    ok (.mtag 4) 0x12345 && (goes (exec (.engineQueueHeadIssue 0 .m 1) (m (.mtag 4) 0x12345)) fun t => t.cur.rtag == 0x2345) &&
    ok (.mrel 3) 0 && (goes (exec (.engineQueueHeadIssue 0 .m 1) (m (.mrel 3) 0)) fun t => t.cur.accs == [] && t.cur.mstat 3 false == 0x5C0000000) && ok (.mzero 3 .i32) 0 &&
    (goes (exec (.engineQueueHeadIssue 0 .m 1) (m (.mzero 3 .i32) 0)) fun t => t.cur.slotRow 1 2 == 0 && t.cur.accs == [(3, ⟨1, true, .i32, 0, 5⟩)]) &&
    ok (.mstat 6 3 0) 0 && goes (exec (.engineQueueHeadIssue 0 .m 1) (m (.mstat 6 3 0) 0)) fun t => t.getS 6 == 0x5B0100001) = true := by decide +kernel
/-- MZERO of a name that is not VALID: slot 1 is the lowest free one; with no free slot and no other task that could release one it
traps. MSTAT of a name that MREL freed, of one never bound, and of a plane. -/
theorem test_matrixUnbound : (let m := fun (u : Tile → Tile) (w : Instr) => head .m (entry .m w) (own u)
    let one := fun (t : Tile) => { t with accs := [(3, (⟨0, false, .f32, 1, 5⟩ : Acc))], accPast := [(4, ⟨.i32, 2, 9⟩)], slots := [(128, 9)], plane1 := { st := 2, fmt := .i8, depth := 72 } }
    let all := fun (t : Tile) => { t with accs := (List.range 12).map fun i => (i, (⟨i, false, .f32, 0, 0⟩ : Acc)) }
    let run := fun u w => exec (.engineQueueHeadIssue 0 .m 1) (m u w)
    let s := m all (.mzero 14 .i32)
    atHead (m one (.mzero 5 .i32)) .m (entry .m (.mzero 5 .i32)) && (goes (run one (.mzero 5 .i32)) fun t =>
      (t.cur.accs.find 5).map Acc.slot == some 1 && (t.cur.accs.find 5).map Acc.owner == some 0 && t.cur.slotRow 1 0 == 0 && t.cur.mq == []) &&
    atHead s .m (entry .m (.mzero 14 .i32)) && s.cur.accs.all (fun p => p.2.owner == 0) && (goes (run all (.mzero 14 .i32)) fun t =>
      (t.cur.faults.map fun f => f.info.cause) == [.accExhausted] && t.cur.accs == s.cur.accs) &&
    (goes (run one (.mstat 6 4 0)) fun t => t.getS 6 == 0x9B0090000) && (goes (run one (.mstat 6 5 0)) fun t => t.getS 6 == 0xB0000000) &&
    goes (run one (.mstat 6 1 1)) fun t => t.getS 6 == BitVec.ofNat 64 (0x2000 + Ty.i8.code * 2 ^ 8 + 72)) = true := by decide +kernel
/-- A plane of depth 72: the products of k = 0 to 63 saturate before those of k = 64 to 71 are added. -/
theorem test_deepRow : (let pl : Plane := { st := 2, fmt := .i8, depth := 72, bytes := (List.replicate 72 (List.replicate 128 2)).flatten }
    let v : Row := ⟨0, 1, 0, 7, List.replicate 64 1 ++ List.replicate 8 0xFF, .i8, 0, false, 0, none⟩
    let s := own fun t => { t with plane0 := pl, rows := [v], accs := [(1, ⟨0, true, .i32, 0, 0⟩)], slots := [(0, 0x7FFFFFFF)] }
    pairKind .i8 .i8 == some .i32 && (s.cur.plane 0).depth == 72 && goes (exec (.arrayRowExit 0) s) fun t => t.cur.rows == [] &&
      elem 32 (t.cur.slotRow 0 0).toNat 0 == 0x7FFFFFEF && elem 32 (t.cur.slotRow 0 0).toNat 1 == 112) = true := by decide +kernel
theorem test_rows : (let b : SBuf := ⟨.i8, 0, 1024, 0, 0, 64, 0⟩
    let pl : Plane := { st := 2, fmt := .i8, depth := 8, bytes := List.replicate 1024 2 }
    let x := entry .m (.mmulz 2 4 1 .i8 0 0)
    let s := (own fun t => { t with array := some x, plane0 := pl, sbs := [(2, b)], rtag := 7, accs := [(1, ⟨0, false, .i32, 0, 0⟩)] }).store
      (sramLoc 0 0) [3, 4]
    s.running 0 && (s.cur.plane 0).st == 2 && !s.cur.replayDue && rowBytesOf .i8 8 == 16 && b.canTake 16 && !s.sbPoisoned 0 b b.cp 16 &&
    goes (exec (.streamBufferFire 0 .m 0) s) fun t => t.cur.rtag == 8 && t.cur.rows.map Row.act == [[3, 4] ++ List.replicate 14 0] &&
      t.cur.rows.map Row.tag == [7] && (t.cur.sbs.find 2).map SBuf.cp == some 16 &&
      (t.cur.accs.find 1).map Acc.kind == some .i32 && goes (exec (.arrayRowExit 0) t) fun u => u.cur.rows == [] &&
        elem 32 (u.cur.slotRow 0 (rowFirst 0)).toNat 0 == 14 && (u.cur.accs.find 1).map Acc.lastTag == some 7) = true := by decide +kernel
/-- R134: a copy waits at its head for a word that its task's barrier names; R211: an MRD converts what it found at issue. -/
theorem test_barrierAtHead : (let y := { entry .c (.copy 16 17 3 4) with uid := 9 }
    let x := { entry .v (.vpop 1 2) with bars := [9] }
    let s := (head .v x s0).updTile 0 fun t => { t with cq := [y] }
    (s.tileAt 0).behindBar x && !(s.tileAt 0).behindBar { x with word := .vnot 1 2 0 .i32 } &&
    goes (exec (.engineQueueHeadIssue 0 .v 1) s) fun t => t.cur.vq == [x] && t.cur.faults == []) = true := by decide +kernel
theorem test_readout : (let x := { entry .m (.mrd 0 2 4 1 .i32 .rne) with b := 0x103 }
    let s := head .m x (own fun t => { t with accs := [(1, ⟨0, true, .i32, 0, 0⟩)], slots := [(3, 7)] })
    goes (exec (.engineQueueHeadIssue 0 .m 1) s) fun t => t.cur.conv.map Entry.acc == some (some ⟨some .i32, [7]⟩) &&
      (t.cur.conv.map fun e => (e.crossed 1).stage) == some 1 && (t.cur.conv.map fun e => (e.crossed 2).stage) == some 0) = true := by
  decide +kernel
theorem test_planeLoad : (let x := { entry .m (.mldw 4 .i8 0 0) with a := 0x8000000000000000 }
    let s := own fun t => { t with plane0 := { st := 1, load := some x } }
    s.running 0 && (s.cur.plane 0).load == some x && (match s.planeRead 0 x .i8 8 whole with
      | .ok (_, bs) => bs.length == 1024
      | _ => false) &&
    goes (exec (.planeLoadComplete 0 0) s) fun t => t.cur.plane0.st == 2 && t.cur.plane0.depth == 8 && t.cur.plane0.load == none) = true := by decide +kernel
/-- R198: the rows of an MLDA; R209, R210: an MRD whose type its kind does not admit, and the rows that an MRD and an MRDS convert. -/
theorem test_matrixRows : (let q : SBuf := ⟨.i32, 0, 1024, 0, 0x100, 512, 0⟩
    let x := { entry .m (.mlda 2 4 1 .i32) with b := 0x103 }
    let u := fun (k : AKind) (q : SBuf) => (own fun t => { t with accs := [(1, ⟨0, false, k, 0, 0⟩)], sbs := [(2, q)] }).store (sramLoc 0 0x100) [9, 8]
    let s := head .m x (u .f32 q)
    atHead s .m x && !s.cur.replaying && s.cur.settled 1 && rowCount x.b == 1 && (goes (exec (.engineQueueHeadIssue 0 .m 1) s) fun t =>
      t.cur.mq == [{ x with stage := 1 }] && (t.cur.accs.find 1).map Acc.kind == some .i32) &&
    (goes (exec (.engineQueueHeadIssue 0 .m 1) (head .m x (u .f32 { q with ty := .i8 }))) fun t =>
      t.cur.faults.map EFault.info == [⟨.formatMismatch, 0, .read, 0⟩]) &&
    (let y := { x with stage := 1 }
     let r := head .m y (u .i32 q)
     r.running 0 && r.cur.mq == [y] && q.canTake 512 && !r.sbPoisoned 0 q q.cp 512 && (r.cur.passAhead 2).sbs.find 2 == some q &&
     goes (exec (.streamBufferFire 0 .m 2) r) fun t => elem 8 (t.cur.slotRow 0 3).toNat 0 == 9 && elem 8 (t.cur.slotRow 0 3).toNat 1 == 8 &&
       (t.cur.accs.find 1).map Acc.dirty == some true && (t.cur.sbs.find 2).map SBuf.cp == some 512 && t.cur.mq == []) &&
    (let z := { entry .m (.mrd 0 2 4 1 .cb4 .rne) with b := 0x103 }
     atHead (head .m z (u .i32 q)) .m z && goes (exec (.engineQueueHeadIssue 0 .m 1) (head .m z (u .i32 q))) fun t =>
       t.cur.faults.map EFault.info == [⟨.formatMismatch, 0, .read, 0⟩])) = true := by decide +kernel
theorem test_rowConverts : (let q : SBuf := ⟨.i32, 0, 1024, 0, 0x100, 0, 0⟩
    let x := { entry .m (.mrd 0 2 4 1 .i32 .rne) with b := 0x103, acc := some ⟨some .i32, [7]⟩ }
    let y := { x with word := .mrds 0 2 4 1 .i32 .rne, b := 0x4000000000000103 }
    let s := fun (x : Entry) => own fun t => { t with conv := some x, sbs := [(2, q)] }
    (s x).running 0 && !(s x).cur.replayDue && q.canPut 512 && (goes (exec (.streamBufferFire 0 .m 1) (s x)) fun t =>
      t.bytesAt (sramLoc 0 0x100) 5 == [7, 0, 0, 0, 0] && (t.cur.sbs.find 2).map SBuf.pp == some 512 && t.cur.conv == none) &&
    !(s y).cur.replayDue && goes (exec (.streamBufferFire 0 .m 1) (s y)) fun t => t.bytesAt (sramLoc 0 0x100) 4 == [14, 0, 0, 0]) = true := by
  decide +kernel
/-- R246: part of the record of a plane is read. -/
theorem test_planePart : (let x := { entry .m (.mldw 4 .i8 0 0) with a := 0x8000000000000000 }
    let s := own fun t => { t with plane0 := { st := 1, load := some x } }
    (match s.planeRead 0 x .i8 8 70 with
      | .ok (_, bs) => bs.length == 70
      | _ => false) && goes (s.planePart 0 0 70) fun t => t.cur.plane0.st == 1 && t.cur.plane0.load.map (fun e => e.inb.length) == some 70) = true := by
  decide +kernel
theorem test_engineFault : (let s := own fun t => { t with faults := [⟨.v, 0, 4, ⟨.misaligned, 0x41, .read, 0⟩, false⟩] }
    !s.cur.trap.busy && s.me.asked != .out && s.running 0 && s.cur.trap.tvec != 0 && goes (exec (.engineFaultDelivery 0) s) fun t =>
      took t .misaligned 0x41 && t.cur.trap.src == 1 && t.cur.trap.tpc == 0x1000) = true := by decide +kernel

/-! ### Streams, copies, packets, parcels on their way -/

/-- Buffer 2 holds the 512 bytes from 0x100, buffer 3 is empty at 0x1000. -/
def buf2 : SBuf := ⟨.i8, 0, 1024, 0, 0x100, 512, 0⟩
def buf3 : SBuf := ⟨.i8, 0, 1024, 0, 0x1000, 32, 32⟩
def bufs : State := (own fun t => { t with sbs := [(2, buf2), (3, buf3)], vs := [(1, 0x0A0B)] }).store (sramLoc 0 0x100) [5, 6, 7]

theorem test_streamTransfers : (let h := fun w => head .v (entry .v w) bufs
    let ok := fun w => atHead (h w) .v (entry .v w)
    let run := fun w => exec (.streamBufferFire 0 .v 0) (h w)
    ok (.vpush 1 2) && decide (buf2.fill + 512 ≤ buf2.size) && decide (2 ^ 32 % buf2.size = 0) &&
    (goes (run (.vpush 1 2)) fun t => t.bytesAt (sramLoc 0 0x300) 2 == [0x0B, 0x0A] && t.cur.vq == []) && ok (.vpop 1 2) && ok (.vpeek 1 2) &&
    decide (max 512 buf2.fireBytes ≤ buf2.fill) && !bufs.sbPoisoned 0 buf2 buf2.cp 512 &&
    (goes (run (.vpop 1 2)) fun t => t.cur.vget 0 1 == 0x070605 && (t.cur.sbs.find 2).map SBuf.cp == some 512) &&
    goes (run (.vpeek 1 2)) fun t => t.cur.vget 0 1 == 0x070605 && (t.cur.sbs.find 2).map SBuf.cp == some 0) = true := by decide +kernel
theorem test_streamPositions : (let st : AStream := ⟨false, 1, 0, 0, 0, [8], [1], 0, 3, 1, [(0, [(7, false)])]⟩
    let h := fun w => head .c { entry .c w with a := 5 } (own fun t => { t with sts := [(1, st)] })
    let ok := fun w => atHead (h w) .c { entry .c w with a := 5 }
    let run := fun w => exec (.engineQueueHeadIssue 0 .c 1) (h w)
    ok (.stpos 1 4) && (goes (run (.stpos 1 4)) fun t => t.cur.sts == [(1, { st with k := 5, o := 0, kept := [] })]) && ok (.strst 1) &&
    (goes (run (.strst 1)) fun t => t.cur.sts == [(1, { st with k := 0, o := 0, kept := [] })]) && ok (.strst 2) &&
    goes (run (.strst 2)) fun t => t.cur.faults.map EFault.info == [⟨.tensorBounds, 0, .read, 0⟩]) = true := by decide +kernel
theorem test_copy : (let x := { entry .c (.copy 18 19 4 5) with stage := 1, a := 40 }
    let p := { buf2 with fire := 40 }
    let s := fun x => bufs.updTile 0 fun t => { t with sbs := [(2, p), (3, buf3)], cq := [x] }
    let left := x.a.toNat - x.prog
    let m := min left (64 - buf3.pp.toNat % 64)
    let n := min p.fireBytes left
    (s x).running 0 && (s x).cur.cq == [x] && x.out == [] && x.put == 0 && x.inb == [] && decide (x.prog < x.a.toNat) &&
    m == 32 && n == 40 && decide (n ≤ p.fill) && decide (buf3.fill + m ≤ buf3.size) &&
    (goes (exec (.copyPieceLand 0) (s x)) fun t => t.bytesAt (sramLoc 0 0x1020) 3 == [5, 6, 7] && (t.cur.sbs.find 2).map SBuf.cp == some 32 &&
      (t.cur.sbs.find 3).map SBuf.pp == some 64 && t.cur.cq.map Entry.prog == [32]) &&
    (let y := { x with inb := List.replicate 32 (9, false), own := 32 }
     goes (exec (.copyPieceLand 0) (s y)) fun t => t.bytesAt (sramLoc 0 0x1020) 3 == [9, 9, 9] && (t.cur.sbs.find 2).map SBuf.cp == some 0 &&
      t.cur.cq.map Entry.prog == [32]) &&
    (let few := fun (x : Entry) (p : SBuf) => bufs.updTile 0 fun t => { t with sbs := [(2, p), (3, buf3)], cq := [x] }
     let y := { x with inb := List.replicate 10 (9, false) }
     (goes (exec (.copyPieceLand 0) (few x { p with fire := 10 })) fun t => (t.cur.sbs.find 2).map SBuf.cp == some 0 &&
       t.cur.cq.map (fun e => (rawBytes e.inb).take 4) == [[5, 6, 7, 0]] && t.cur.cq.map (fun e => e.inb.length) == [10]) &&
     goes (exec (.copyPieceLand 0) (few y { p with fire := 10, pp := 15 })) fun t => (t.cur.sbs.find 2).map SBuf.cp == some 10 &&
       t.cur.cq.map Entry.own == [10] && t.cur.cq.map Entry.prog == [0])) = true := by decide +kernel
/-- A C word at the head of a tile, with the bytes of a record at LOCAL 0x40; the word is about to issue. -/
def recAt (bs : List Byte) (f : Tile → Tile) (x : Entry) : State := head .c x ((own f).store (sramLoc 0 0x40) bs)
def cHead (s : State) (x : Entry) (p : State → Bool) : Bool := atHead s .c x && goes (exec (.engineQueueHeadIssue 0 .c 1) s) p
def cFault (s : State) (x : Entry) (c : Cause) (a : Word) : Bool :=
  cHead s x fun t => t.cur.faults.map EFault.info == [⟨c, a, .read, 0⟩] && t.cur.cq == [{ x with faulted := true }]
theorem test_bufferDefined : (let x := { entry .c (.sbdef 5 4 6) with a := 0x8000000000000040, b := 0x2000 }
    let r : List Byte := [BitVec.ofNat 8 Ty.i8.code, 0, 3, 0, 0, 4, 0, 0, 64, 0, 0, 0]
    let bad := r.set 1 1
    (cHead (recAt r id x) x fun t => t.cur.sbs.find 5 == some ⟨.i8, 3, 1024, 64, 0x2000, 0, 0⟩ && t.cur.cq == []) &&
    cFault (recAt r id { x with b := 0x2001 }) { x with b := 0x2001 } .misaligned 0x2001 &&
    cFault (recAt bad id x) x .illegalEncoding 0x8000000000000040 &&
    cFault (recAt (r.set 8 0) id x) x .illegalEncoding 0x8000000000000040 &&
    (match (recAt r id x).record ((recAt r id x).whoOf 0 x) x.a with
      | .ok (_, bs) => Ty.ofCode (field bs 0 1) == some .i8
      | _ => false)) = true := by decide +kernel
theorem test_streamDefined : (let x := { entry .c (.stdef 5 4 6) with a := 0x8000000000000040, b := 0x40000000 }
    let y := { x with b := 0 }
    let lin : List Byte := [0, 1, 0, 0, 0, 0, 0, 0, 8, 0, 0, 0, 16, 0, 0, 0] ++ List.replicate 16 0 ++ [1]
    let ten : List Byte := [1, 0, 0, 0, 3, 0, 0, 0]
    let map := fun (l : List Nat) => (recAt ten id y).updCtx 1 fun c => { c with tmap := [(0, l)] }
    (cHead (recAt lin id x) x fun t => t.cur.sts.find 5 == some ⟨false, 1, 0, 0, 8, [16, 0, 0, 0, 0], [1, 0, 0, 0, 0], 0x40000000, 0, 0, []⟩ && t.cur.cq == []) &&
    (cHead (map [3]) y fun t => t.cur.sts.find 5 == some ⟨true, 0, 0, 3, 0, [0, 0, 0, 0, 0], [0, 0, 0, 0, 0], 0, 0, 0, []⟩) &&
    cFault (map [4]) y .tensorBounds 3 && cFault (recAt (lin.set 6 1) id x) x .illegalEncoding 0x8000000000000040) = true := by decide +kernel
theorem test_streamDimension : (let st : AStream := ⟨false, 1, 0, 0, 8, [8, 0, 0, 0, 0], [1, 0, 0, 0, 0], 0, 3, 1, [(0, [(7, false)])]⟩
    let x := { entry .c (.stdim 1 4 6) with a := 0x1000000001, b := 0xFFFFFFFC }
    let y := { x with a := 5 }
    let f := fun (t : Tile) => { t with sts := [(1, st)] }
    (cHead (recAt [] f x) x fun t => t.cur.sts.find 1 == some { st with ext := [8, 16, 0, 0, 0], stride := [1, -4, 0, 0, 0], ndim := 2, k := 0, o := 0, kept := [] }) &&
    cFault (recAt [] f y) y .illegalEncoding 5) = true := by decide +kernel
/-- Buffers 2 and 3 with declared types, and a C word between them. -/
def typed (a b : Ty) (x : Entry) : State :=
  (waitingFor .c (own fun t => { t with sbs := [(2, { buf2 with ty := a }), (3, { buf3 with ty := b, pp := 0, cp := 0 })] })).updTile 0
    fun t => { t with cq := [x] }
def ctl (a b : Ty) : Word := BitVec.ofNat 64 (a.code + 16 * b.code)
theorem test_transformsBegin : (let x := { entry .c (.cqnt 18 19 4 5) with a := 64, b := ctl .f32 .i8 }
    let y := { entry .c (.cexp 18 19 4 5) with a := 64, b := ctl .cb4 .f32 }
    let z := { entry .c (.ccvt 18 19 4 5) with a := 64, b := ctl .i32 .i8 }
    let f := { entry .c (.cfill 19 4 5) with a := 8, b := 0x0807060504030201 }
    let e := { f with b := 0x8040000000000008 }
    let begins := fun (s : State) (x : Entry) => cHead s x fun t => t.cur.cq == [{ x with stage := 1 }]
    ((typed .f32 .i8 x).ctlChecked 0 x 18 19).isOk && begins (typed .f32 .i8 x) x && begins (typed .cb4 .f32 y) y && begins (typed .i32 .i8 z) z &&
    begins (typed .i8 .i8 f) f && escapes e.b && cFault (typed .i8 .i8 e) e .parcelEscape e.b &&
    (let w := { x with b := 0x10000000000000 }
     cFault (typed .f32 .i8 w) w .illegalEncoding w.b) && cHead (typed .f32 .i8 { x with a := 0 }) { x with a := 0 } fun t => t.cur.cq == []) = true := by
  decide +kernel
theorem test_transformPieces : (
    let run := fun (a b : Ty) (x : Entry) (p : State → Bool) =>
      (typed a b x).running 0 && (typed a b x).cur.cq == [x] && goes (exec (.copyPieceLand 0) (typed a b x)) p
    let end_ := fun (t : State) (n : BitVec 32) => (t.cur.sbs.find 3).map SBuf.pp == some n
    let f := { entry .c (.cfill 19 4 5) with a := 8, b := 0x0807060504030201, stage := 1 }
    let q := { entry .c (.cqnt 18 19 4 5) with a := 64, b := ctl .f32 .i8, stage := 1, inb := List.replicate 256 (0, false) }
    let e := { entry .c (.cexp 18 19 4 5) with a := 64, b := ctl .cb4 .f32, stage := 1, inb := List.replicate 48 (0, false) }
    let v := { entry .c (.ccvt 18 19 4 5) with a := 16, b := ctl .i32 .i8, stage := 1, inb := [(0x2C, false), (1, false)] ++ List.replicate 62 (0, false) }
    (run .i8 .i8 f fun t => t.bytesAt (sramLoc 0 0x1000) 8 == [1, 2, 3, 4, 5, 6, 7, 8] && end_ t 8 && t.cur.cq.map Entry.prog == [8]) &&
    (run .f32 .i8 q fun t => t.cur.cq.map Entry.prog == [64] && end_ t 80) &&
    (run .cb4 .f32 e fun t => t.cur.cq.map (fun y => y.aux.length) == [256] && t.cur.cq.map Entry.prog == [64] && end_ t 0) &&
    (run .i32 .i8 v fun t => t.bytesAt (sramLoc 0 0x1000) 2 == [127, 0] && end_ t 16 && t.cur.cq.map Entry.prog == [16])) = true := by decide +kernel
theorem test_copyEnds : (let x := { entry .c (.copy 18 19 4 5) with stage := 2, a := 40, b := 0x8000000000000008 }
    let s := ((waitingFor .c bufs).updTile 0 fun t => { t with cq := [x] }).store (sramLoc 0 8) [2]
    s.running 0 && s.cur.cq == [x] && spaceOf x.b != 0x803 && spaceOf x.b != 0x804 && gives (s.resolve (s.whoOf 0 x) x.b 8 .amo) (sramLoc 0 8) &&
    !elsewhere 0 (sramLoc 0 8) && (s.admitAt 0 (sramLoc 0 8) 8).isOk && !s.poisoned (sramLoc 0 8) 8 &&
    (goes (exec (.copyCounterAdd 0) s) fun t => t.readNat (sramLoc 0 8) 8 == 42 && t.cur.cq == [] && t.me.waiting == []) &&
    (let z := { x with b := 0x8010000000400008 }
     let f := s.updTile 0 fun t => { t with cq := [z] }
     gives (f.resolve (f.whoOf 0 z) z.b 8 .amo) (sramLoc 256 8) && elsewhere 0 (sramLoc 256 8) && f.bufferFree 0 &&
     goes (exec (.copyCounterAdd 0) f) fun t => t.pkts == [.req 0 0 (.add 40) (sramLoc 256 8) (.word 0 0) 1256 [] []] &&
       t.cur.cq.map Entry.stage == [4] && goes (exec (.remoteRequestArrival 0) t) fun u => u.readNat (sramLoc 256 8) 8 == 40 &&
         goes (exec (.remoteResponseLanding 0 (.bad 0)) u) fun v => v.cur.cq == [] && v.me.waiting == []) &&
    (let y := { entry .c (.copym 3 2 4 5) with stage := 3 }
     let m := { entry .m (.mmul 2 4 1 .i8 0 0) with held := true, uid := 1 }
     let u := own fun t => { t with cq := [y], mq := [m] }
     u.running 0 && u.cur.cq == [y] && goes (exec (.copymFollowOnFill 0) u) fun t => t.cur.mq == [{ m with held := false }])) = true := by
  decide +kernel
theorem test_linkWords : (let h := fun w a => head .l { entry .l w with a := a } s0
    let ok := fun w a => atHead (h w a) .l { entry .l w with a := a } && (h w a).cur.air == []
    ok (.lcnt 4) 16 && (goes (exec (.engineQueueHeadIssue 0 .l 1) (h (.lcnt 4) 16)) fun t => t.me.link == 16 && t.cur.lq == []) &&
    ok (.lcnt 4) 17 && (goes (exec (.engineQueueHeadIssue 0 .l 1) (h (.lcnt 4) 17)) fun t => t.cur.faults.map (·.info.cause) == [.misaligned]) &&
    ok (.rfence .pod) 0 && goes (exec (.engineQueueHeadIssue 0 .l 1) (h (.rfence .pod) 0)) fun t => t.me.waiting == []) = true := by
  decide +kernel
/-- A pod with package 3: one active lane, and one flit of it accepted. -/
def linked : Pod := { members := [0, 3], lanes := [(96, { own := .floor, active := true })], links := [(3, { accepted := 1 })] }
/-- An L word at the head of its queue on a state. -/
def lHead (s : State) (x : Entry) (n : Nat) (p : State → Bool) : Bool :=
  let h := head .l x s
  atHead h .l x && h.cur.air == [] && !h.cur.acquiring 0 && goes (exec (.engineQueueHeadIssue 0 .l n) h) p
def lFault (s : State) (x : Entry) (i : TrapInfo) : Bool := lHead s x 1 fun t => t.cur.faults.map EFault.info == [i]
theorem test_rldSends : (
    let x := { entry .l (.rld 3 4 5 .tile) with a := 0x40000010, b := 0x8000000000000100, c := 8 }
    let y := { x with stage := 1 }
    let z := { y with c := 300 }
    gives (heapCtx.linkCounter 0 x) none && (lHead heapCtx x 1 fun t => t.cur.lq == [y]) &&
    lFault heapCtx { x with c := 0x100000008 } ⟨.illegalEncoding, 0x100000008, .read, 0⟩ &&
    lFault heapCtx { x with b := 0x40000000 } ⟨.apertureMiss, 0x40000000, .write, 0⟩ &&
    (match (head .l y heapCtx).targetLocs 0 y 0x40000010 8 .read with
      | .ok ls => ls.headD 0 == 0x200010 && runLen ls == 8
      | _ => false) && heapCtx.cur.slotsUsed.get 0 (portOf 0x200010) == 0 &&
    (lHead heapCtx y 1 fun t => t.pkts == [.req 0 0 (.move 8) 0x200010 (.word 0 0) (portOf 0x200010) [] []] && t.cur.lq == [] &&
      t.cur.air.map Entry.out == [[0]] && t.cur.air.map Entry.prog == [8]) &&
    lHead heapCtx z 1 fun t => t.cur.lq.map Entry.prog == [240] && t.cur.air == [] && t.pkts.length == 1) = true := by decide +kernel
theorem test_rstSends : (
    let x := { entry .l (.rst 3 4 5 .tile) with a := 0x40000010, b := 0x8000000000000100, c := 8 }
    let y := { x with stage := 1 }
    let s := heapCtx.store (sramLoc 0 0x100) [7, 6, 5, 4]
    (lHead s x 1 fun t => t.cur.lq == [y]) && (lHead (s.updMe fun t => { t with link := 0x40 }) x 1 fun t => t.cur.lq == [{ y with ctr := some 0x40 }]) &&
    lFault s { x with c := 0x100000008 } ⟨.illegalEncoding, 0x100000008, .read, 0⟩ &&
    (lHead s y 3 fun t => t.cur.lq.map (fun e => rawBytes e.inb) == [[7, 6, 5]] && t.pkts == []) &&
    (match (head .l y s).rstFill 0 y 8 8 with
      | .ok (_, e) => e.inb.length == 8 && !escapesIn 0x40000010 (e.inb.take 8)
      | _ => false) &&
    lHead s y 8 fun t => t.pkts == [.req 0 0 (.put (clean [7, 6, 5, 4, 0, 0, 0, 0])) 0x200010 (.word 0 0) (portOf 0x200010) [] []] &&
      t.cur.lq == [] && t.cur.air.map Entry.out == [[0]]) = true := by decide +kernel
theorem test_ramoSends : (
    let x := { entry .l (.ramo 3 4 5 .tile 1) with a := 0x40000010, b := 5, c := 0x8000000000000200 }
    let s := fun (op : Byte) => heapCtx.store (sramLoc 0 0x200) [9, 0, 0, 0, 0, 0, 0, 0, op]
    gives ((head .l x (s 0)).resolve ((head .l x (s 0)).whoOf 0 x) x.a 8 .amo) 0x200010 &&
    (lHead (s 0) x 1 fun t => t.pkts == [.req 0 0 (.amo 0 .d64 5 9) 0x200010 (.word 0 0) (portOf 0x200010) [] []] && t.cur.lq == [] &&
      t.cur.air == [{ x with stage := 2, out := [0] }]) && lFault (s 10) x ⟨.illegalEncoding, 0x8000000000000200, .read, 0⟩) = true := by decide +kernel
/-- R235, R242: the ways in which an ASK resolves at once, and one that may take positions (which are free at the far end, nothing tells). -/
theorem test_leaseAsk : (
    let x := { entry .l (.leaseAsk 3 4 5) with a := 3, b := 1, c := 500 }
    let s := fun (f : Ctx → Ctx) => { ctx f with pod := linked }
    let no := fun (s : State) (x : Entry) (w : Word) => lHead s x 1 fun t => (t.ctxAt 1).leaseq == [w] && (t.ctxAt 1).asks == 1 &&
      t.pod.lanes == linked.lanes && t.pod.adds == [] && t.cur.lq == []
    no (s id) { x with b := 0 } 0x3000004000001 && no (s id) { x with a := 9 } 0x9000104000001 && no (s fun c => { c with dead := 8 }) x 0x3000105000001 &&
    no (s id) x 0x3000102000001 && (lHead ((s id).updMe fun t => { t with link := 0x8000000000000040 }) x 1 fun t =>
      t.pod.adds.map Ask.ctr == [some (sramLoc 0 0x40)]) &&
    let q := s fun c => { c with record := { c.record with quota := 2 } }
    (s id).quotaLeft 1 == 0 && q.quotaLeft 1 == 2 && q.isPeer 3 && !q.deadBit 1 3 && atHead (head .l x q) .l x && !q.cur.acquiring 0 &&
    gives ((head .l x q).linkCounter 0 x) none) = true := by decide +kernel
theorem test_leaseGive : (
    let l : Tab Lane := linked.lanes ++ [(97, .up (.lease 1 500 0)), (98, .up (.lease 1 500 3))]
    let s := { s0 with pod := { linked with lanes := l } }
    let x := { entry .l (.leaseGive 3 4) with a := 3, b := 1 }
    let y := { entry .l (.leaseStat 3 4) with a := 3, b := 0x8000000000000100 }
    (s.leasesTo 1 3).map Prod.fst == [97, 98] && (lHead s x 1 fun t => t.pod.lanes.map Prod.fst == [96, 97]) &&
    (lHead s { x with b := 0 } 1 fun t => t.pod.lanes == l) && (lHead s { x with b := 2 } 1 fun t => t.leasesTo 1 3 == []) &&
    lHead s y 1 fun t => t.bytesAt (sramLoc 0 0x100) 8 == [3, 0, 2, 0, 0, 0, 0, 0] && t.readNat (sramLoc 0 0x10C) 4 == 1 && t.cur.lq == []) = true := by
  decide +kernel
/-- R154: the add of a POST at a counter in another tile's SRAM. -/
theorem test_postCounter : (let y := { entry .l (.post 6 4 5) with uid := 7 }
    let f := { s0 with tiles := (own fun t => { t with air := [y] }).tiles, pkts := [.counter 0 0 7 (BitVec.ofNat 64 (sramLoc 1 8)) 1] }
    (f.tileAt 0).findL 7 == some y && !isRst y.word && !isRld y.word && elsewhere 0 (sramLoc 1 8) && f.inOrder 0 0 1 && (f.admitAt 0 (sramLoc 1 8) 8).isOk &&
    goes (exec (.rstCounterMessage 0) f) fun t => t.readNat (sramLoc 1 8) 8 == 1 && t.pkts == [.ack 0 0 (.word 7 1)]) = true := by decide +kernel
theorem test_requests : (let p := fun op => { s0.store (sramLoc 0 8) [2, 3] with pkts := [.req 1 0 op (sramLoc 0 8) (.reg 3) 0 [] []] }
    (p (.load 2 false)).arrived 0 1 (sramLoc 0 8) [] [] && ((p (.load 2 false)).admitAt 1 (sramLoc 0 8) 2).isOk &&
    ((p (.store [7])).admitAt 1 (sramLoc 0 8) 1).isOk && !(p (.load 2 false)).poisoned (sramLoc 0 8) 2 && (goes (exec (.remoteRequestArrival 0) (p (.load 2 false))) fun t =>
      t.pkts == [.resp 1 0 [(2, false), (3, false)] (.reg 3) 0 false]) &&
    goes (exec (.remoteRequestArrival 0) (p (.store [7]))) fun t => t.pkts == [.ack 1 0 (.reg 3)] && t.bytesAt (sramLoc 0 8) 2 == [7, 3]) = true := by
  decide +kernel
theorem test_answers : (let a : Access := { op := .load 2 true, loc := sramLoc 1 0, dst := 3, bars := [], sent := true }
    let s := fun (q : Pkt) => { (me fun t => { t.smark 3 with stream := [a] }) with pkts := [q] }
    (goes (exec (.remoteResponseLanding 0 (.bad 0)) (s (.resp 0 0 [(0, false), (0x80, false)] (.reg 3) 0 true))) fun t =>
      t.getS 3 == 0xFFFFFFFFFFFF8000 && t.me.stream == [] && !t.me.sPending 3 && t.pkts == []) &&
    goes (exec (.writeAckLanding 0 (.bad 0)) (s (.ack 0 0 (.reg 0)))) fun t => t.me.stream == [] && t.pkts == []) = true := by decide +kernel
theorem test_counterMessage : (let x := entry .l (.rst 3 4 5 .pod)
    let s := { ((own fun t => { t with air := [x] }).store (sramLoc 0 8) [2]) with pkts := [.counter 0 0 0 0x8000000000000008 40] }
    (s.tileAt 0).findL 0 == some x && gives (s.resolve (s.whoOf 0 x) 0x8000000000000008 8 .amo) (sramLoc 0 8) && !s.poisoned (sramLoc 0 8) 8 &&
    !isRld x.word && (s.admitAt 0 (sramLoc 0 8) 8).isOk && (goes (exec (.rstCounterMessage 0) s) fun t => t.readNat (sramLoc 0 8) 8 == 42 && t.pkts == [.ack 0 0 (.word 0 40)]) &&
    (let y := { entry .l (.rld 3 4 5 .pod) with uid := 7 }
     let f := { s0 with tiles := (own fun t => { t with air := [y] }).tiles, pkts := [.counter 0 0 7 (BitVec.ofNat 64 (sramLoc 1 8)) 40, .counter 0 0 8 0 1] }
     (f.tileAt 0).findL 7 == some y && isRld y.word && (BitVec.ofNat 64 (sramLoc 1 8) : Word).toNat == sramLoc 1 8 && (f.admitAt 0 (sramLoc 1 8) 8).isOk &&
     !f.poisoned (sramLoc 1 8) 8 && elsewhere 0 (sramLoc 1 8) && goes (exec (.rstCounterMessage 0) f) fun t => t.readNat (sramLoc 1 8) 8 == 40 &&
       t.pkts == [.counter 0 0 8 0 1, .ack 0 0 (.word 7 40)])) = true := by decide +kernel

/-- Context 1 is paired with context 7 of package 3, and reads a page at 0x40000000. -/
def paired : State := { (((heapCtx.updCtx 1 fun x => { x with record := { x.record with pairtab := 0x9000 } }).store 0x9003 [7]).store 0x200010
  [1, 2]) with pod := linked }
/-- `Flows` as a test. -/
def flows (s : State) (peer : Nat) : Bool := s.stripe peer != [] && (s.linkTo peer).waiting == [] && decide (0 < s.replayRoom)
theorem test_peerRequest : (let q : PeerReq := ⟨3, 7, 1, false, 0x40000010, .read 2⟩
    flows paired 3 && (paired.linkTo 3).accepted == 1 &&
    gives (paired.peerLoc q 2 .read) 0x200010 && (paired.admitCtx 1 0x200010 2).isOk && (goes (exec (.crossPackageRequest q) paired) fun t =>
      t.sent == [.answer 3 7 (.ok [(1, false), (2, false)])]) && !(paired.ctxAt 2).exists_ && paired.pairByte 1 3 != 6 &&
    goes (exec (.crossPackageRequest { q with srcCtx := 6 }) paired) fun t => t.sent == [.answer 3 6 (.bad 4)]) = true := by decide +kernel

/-- Parcel 256 of context 1 is on offer to context 7 of package 3. -/
def off : Offer := ⟨0, 1, 3, 7, 256, 64⟩
def offered (stage : Nat) : State := { withPar { par0 with state := 2 + stage } 0 0 with
  transits := [⟨off, stage, 1000, none⟩], pod := linked }
theorem test_offerAnswers : (offered 0).parIn 1 256 (· == 2) = some { par0 with state := 2 } ∧
    (offered 1).parIn 1 256 (fun n => n == 2 || n == 3) = some { par0 with state := 3 } ∧
    (offered 1).transit off 3 = none ∧ (offered 0).transit off 0 = some ⟨off, 0, 1000, none⟩ ∧ (offered 1).transit off 1 = some ⟨off, 1, 1000, none⟩ ∧
    ((offered 0).linkTo 3).accepted = 1 ∧ (∀ kv ∈ (offered 0).tiles, ∀ e ∈ kv.2.air, e.ctr = none) ∧
    (goes (exec (.parcelOfferAnswer off 0) (offered 0)) fun t => (t.par 1 256).map Par.state == some 3 && t.transits.map Transit.stage == [1]) = true ∧
    (goes (exec (.parcelOfferAnswer off 2) (offered 0)) fun t => (t.par 1 256).map (fun p => (p.state, p.last)) == some (1, 2) && t.transits == []) = true ∧
    (goes (exec (.parcelAcknowledgement off) (offered 1)) fun t => (t.parIn 1 256 (· == 5)).isSome && t.transits == []) = true := by decide +kernel
/-- A heap with room for one parcel, and a parcel that package 3 offers. -/
def oneRoom3 : State := { oneRoom with pod := linked }
def inbound : Offer := ⟨3, 7, 0, 1, 0x3000000000100, 64⟩
theorem test_arrivalRoom : oneRoom3.heapRoom 1 64 inbound.handle = some 0x40000000 := by
  have h : oneRoom3.extents 1 = [] := by decide +kernel
  have l : (oneRoom3.ctxAt 1).record.heap = 0x40000000 := by decide +kernel
  have n : (oneRoom3.ctxAt 1).record.heaplen = 64 := by decide +kernel
  simp [State.heapRoom, h, l, n, gapsFrom]
theorem test_parcelsArrive : (let r := oneRoom3
    let p := { par0 with slot := 2, handle := inbound.handle, state := 3 }
    let s := { heapCtx.putPar 1 p with transits := [⟨inbound, 1, 0, none⟩], pod := linked }
    inbound.dstPkg == r.pkg.toNat && r.transits == [] && (r.ctxAt 1).exists_ && r.arrivalsHeld 1 == 0 && flows r 3 &&
    (r.linkTo 3).accepted == 1 && r.dirFree 1 inbound.handle == some 2 && !(r.ctxAt 2).exists_ &&
    (goes (exec (.parcelOffer { inbound with dstCtx := 2 }) r) fun t => t.sent == [.verdict { inbound with dstCtx := 2 } 4]) &&
    s.transit inbound 1 == some ⟨inbound, 1, 0, none⟩ && s.parIn 1 inbound.handle (· == 3) == some p && s.poison == [] && flows s 3 &&
    gives (s.physical 1 .write .supervisor 0 (piecesOf p.base p.len)) [(0x200000, 64)] && ceilDiv inbound.len 256 == 1 &&
    goes (exec (.parcelLastByteLands inbound (List.replicate 64 (9, false))) s) fun t => t.sent == [.delivered inbound] &&
      (t.ctxAt 1).arrivals == [inbound.handle] && t.byte 0x20003F == 9 && (t.par 1 inbound.handle).map Par.state == some 4) = true := by
  decide +kernel
theorem test_peerTimeout : (let s := { offered 1 with ns := 1001 }
    !s.deadBit 1 3 && s.poison == [] && goes (exec (.peerTimeout 1 3) s) fun t => t.deadBit 1 3) = true := by decide +kernel
/-- R309: on its slot the flit moves; without one it is demoted and counted. The second flit stands behind the first in its FIFO, and once the
first has gone its output is taken for the cycle. -/
theorem test_flits : (let way := [(0, 1, 3), (256, 5, 1)]
    let f : Flit := ⟨0, 0⟩
    let p := fun (a : Flit) => Pkt.req 0 0 (.store [7]) (sramLoc 256 0) .none 1256 way [a, ⟨0, 1⟩]
    let s := fun (tbl : Tab (BitVec 32)) (j : Nat) => { (own fun t => { t with slotTable := tbl }) with hops := 2, agenda := [.flit 0 j, .flit 0 1], pkts := [p f] }
    routeFrom 256 64 0 0 1 == way && (s [] 0).mayMove 0 f (0, 1, 3) (some (256, 5, 1)) && !(s [] 0).onSlot 0 1 3 && (s [(0, 64)] 0).onSlot 0 1 3 &&
    (goes (step (s [] 0)) fun t => t.cur.miss == 1 && t.pkts == [p ⟨1, 2⟩] && t.outs.get 0 (outKey 0 3) == 1 && t.meshFifo 0 1 == [1] &&
      goes (step t) fun u => u.pkts == [p ⟨1, 2⟩] && u.cur.miss == 1) && (goes (step (s [(0, 64)] 0)) fun t => t.cur.miss == 0) &&
    (s [] 1).meshFifo 0 1 == [0, 1] && goes (step (s [] 1)) fun t => t.pkts == [p f]) = true := by decide +kernel
/-- R309: a flit that is not on its slot stays while another input's flit stands on its slot for the same output. -/
theorem test_slotFirst : (let f : Flit := ⟨0, 0⟩
    let p := fun (i n : Nat) => Pkt.req 0 0 (.store [7]) (sramLoc 256 0) .none 1256 [(0, i, 3), (256, 5, 1)] [⟨0, n⟩]
    let s := { (own fun t => { t with slotTable := [(0, 320)] }) with hops := 2, agenda := [.flit 0 0], pkts := [p 1 0, p 5 1] }
    !s.onSlot 0 1 3 && s.slotted 0 3 && s.couldMove 0 f (0, 1, 3) (some (256, 5, 1)) && !s.mayMove 0 f (0, 1, 3) (some (256, 5, 1)) &&
    stays (step s) { s with agenda := [] } && goes (step { s with agenda := [.flit 1 0] }) fun t => t.pkts == [p 1 0,
      Pkt.req 0 0 (.store [7]) (sramLoc 256 0) .none 1256 [(0, 5, 3), (256, 5, 1)] [⟨1, 2⟩]] && t.cur.miss == 0) = true := by decide +kernel
theorem test_flitOutside : ((s0.ctxAt 1).exists_ && (goes (exec (.flitOutOfRectangle 0 1) s0) fun t => (t.tileAt 0).ctx == none && (t.tileAt 0).trap.sticky == 8)) = true := by
  decide +kernel

/-! ### The pod, power and clocks -/

theorem test_fibres : (fibreOf 5 9 2 == 252 && fibreOf 9 5 2 == 252 && fibreOf 0 3 0 == 3) = true := by decide +kernel
theorem test_bringUp : ([5, 9, 300].contains (5#8).toNat && s0.pod.els == 15 && (goes (exec (.podBringUp 5 [5, 9, 300]) s0) fun t => t.pkg == 5 &&
    t.pod.members == [5, 9] && (t.pairLanes 9).length > 0 && ((t.pairLanes 9).all fun kv => kv.2.active) && (t.pod.lanes.find (laneKey 9 0)).map Lane.own == some .floor) &&
    decide (fibreOf 5 9 0 < s0.fibres) && s0.pod.els.getLsbD 0 &&
    (let d := { s0 with pod := { s0.pod with els := 14 } }
     goes (exec (.podBringUp 5 [5, 9]) d) fun t => (t.pod.lost.find (laneKey 9 0)).map Lane.own == some .floor) &&
    stays (exec (.podBringUp 4 [5, 9]) s0) s0) = true := by decide +kernel

/-- A pod of packages 0 and 3 with a lane between them on line 4, and another one on line 12. -/
def pod (x : Lane) : State := { heapCtx with pod := { State.reset.pod with members := [0, 3], lanes := [(laneKey 3 4, x)] } }
def pod2 (x : Lane) : State := { pod x with pod := { (pod x).pod with lanes := [(laneKey 3 4, x), (laneKey 3 12, .up .base)] } }
theorem test_lanes : (let s := pod (.tuning .floor)
    s.pod.lanes.find (laneKey 3 4) == some (.tuning .floor) && (goes (exec (.laneRetuneDone 3 ⟨4, true⟩) s) fun t =>
      t.pod.lanes.find (laneKey 3 4) == some (.up .floor) && (t.linkTo 3).epoch == 1 && t.beatLine 3 7 == some 4)) = true := by decide +kernel
/-- R398: two lines that go dark in one event are one record; R399: the floor moves to the lane that is left, and line 4 comes back once it
is lit at both ends. -/
theorem test_losses : (let s := pod2 (.up .floor)
    (goes (exec (.lossOfLight 3 ⟨[4], 0, []⟩) s) fun t => t.pod.lanes == [(laneKey 3 12, .up .floor)] && t.tunedOn (fibreOf 0 3 4) == 1 && !t.canJoin 3 4 &&
      t.sent == [.lost 3 16 1]) &&
    (goes (exec (.farEndLossReport 3 ⟨[4], 1, []⟩) s) fun t => t.pod.lanes == [(laneKey 3 12, .up .floor)]) &&
    s.pod.els.getLsbD 0 && goes (exec (.elsFailure ⟨0, [], []⟩) s) fun t => t.pod.lanes == [(laneKey 3 12, .up .floor)] && t.pod.els == 14 &&
      goes (exec (.elsRelit ⟨0, true, []⟩) t) fun u => u.pod.els == 15 && (u.pod.lanes.find (laneKey 3 4)).any (·.retuning)) = true := by decide +kernel
theorem test_link : (let s := pod (.up .base)
    let l := fun (x : Link) => { s with pod := { s.pod with links := [(3, x)] } }
    s.isPeer 3 && s.stripe 3 == [4] && (s.linkTo 3).waiting == [] && (s.linkTo 3).crc.get [] 0 == [] &&
    (goes (exec (.flitReceive 3 5 true ⟨0, 0, []⟩) (l { expect := 5 })) fun t => (t.linkTo 3).expect == 6 && (t.linkTo 3).toAck == 1 &&
      (t.linkTo 3).accepted == 1) &&
    (goes (exec (.flitReceive 3 5 true ⟨0, 0, []⟩) (l { expect := 5, toAck := 31 })) fun t => (t.linkTo 3).toAck == 0 && t.sent == [.ack 3 5]) &&
    (goes (exec (.flitReceive 3 6 true ⟨0, 0, []⟩) (l { expect := 5 })) fun t => (t.linkTo 3).expect == 5 && (t.linkTo 3).accepted == 0 && t.sent == []) &&
    (goes (exec (.flitReceive 3 5 false ⟨0, 0, []⟩) (l { expect := 5 })) fun t => (t.linkTo 3).expect == 5 && t.sent == [.badCrc 3 5]) &&
    (goes (exec (.linkAckTimer 3) (l { expect := 5, toAck := 2 })) fun t => t.sent == [.ack 3 4]) &&
    (goes (exec (.linkAckReceive 3 ⟨7, false⟩) (l { unacked := [7, 8] })) fun t => (t.linkTo 3).unacked == [8]) &&
    (goes (exec (.linkAckReceive 3 ⟨8, false⟩) (l { unacked := [7, 8, 9] })) fun t => (t.linkTo 3).unacked == [9]) &&
    goes (exec (.replayTimeout 3) (l { unacked := [7, 8] })) fun t => t.sent == [.replay 3 7]) = true := by decide +kernel
theorem test_quietCycle : (let s := pod { Lane.up .base with beats := 3 }
    s.pod.asks == [] && s.pairLanes 3 != [] && goes (exec (.revokeCycle [⟨3, [5], [], []⟩] []) s) fun t => t.pod.lanes == [(laneKey 3 4, .up .base)]) = true := by decide +kernel
/-- R391, R392: at the far end a granted lane belongs to no context; what the far end drops is free. -/
theorem test_farEnd : (let s := pod2 (.up .base)
    (goes (exec (.revokeCycle [⟨3, [], [6], []⟩] []) s) fun t => t.pod.lanes.find (laneKey 3 6) == some (.tuning .far)) &&
    goes (exec (.revokeCycle [⟨3, [], [], [4]⟩] []) s) fun t => (t.pod.lanes.find (laneKey 3 4)).isNone) = true := by decide +kernel
/-- R391: of two base lanes the one that carried less, then a lease past its term. -/
theorem test_donorOrder : (let l := fun (x y : Nat) => { s0 with ns := 100000, pod := { s0.pod with lanes :=
      [(65, { Lane.up .base with beats := x }), (97, { Lane.up .base with beats := y }), (129, .up (.lease 1 100 0))] } }
    (l 1 2).donors 5 == [65, 97, 129] && (l 2 1).donors 5 == [97, 65, 129] && ({ l 1 2 with ns := 99999 } : State).donors 5 == [65, 97]) = true := by
  decide +kernel
theorem test_grantingCycle : (let a : Ask := { ctx := 1, peer := 3, want := 1, term := 100, seq := 1, ctr := none }
    let p := pod (.up .base)
    let s := { p.updCtx 1 (fun x => { x with record := { x.record with quota := 2 } }) with pod := { p.pod with asks := [a] } }
    s.pod.asks == [a] && s.pairLanes 3 != [] && s.quotaLeft 1 == 2 && (s.pod.lanes.find (laneKey 3 6)).isNone &&
    (s.pod.lost.find (laneKey 3 6)).isNone && s.pod.els.getLsbD 0 && decide (fibreOf 0 3 6 < s.fibres) && s.tunedOn (fibreOf 0 3 6) == 0 &&
    goes (exec (.revokeCycle [⟨3, [6], [], []⟩] []) s) fun t =>
      t.pod.lanes.find (laneKey 3 6) == some (.tuning (.lease 1 100 0))) = true := by decide +kernel
theorem test_clocks : (s0.power.on && s0.mgmt.firmware && s0.residents == 1 && tileClock s0.power.spur 1400 == some 1400 &&
    (goes (exec (.clkplanWrite 1400) s0) fun t => t.power.freq == 1400 && t.power.goal == 1400 && t.power.fact == 1250 && !t.power.throttled &&
      goes (exec .clockGlideStep t) fun u => u.power.fact == 1275 && u.power.mv == 415) && stays (exec (.clkplanWrite 1601) s0) s0 &&
    (let s := { s0 with power := { s0.power with throttled := true } }
     s.power.throttled && goes (exec .clockGlideStep s) fun t => t.power.fact == s.power.fact) &&
    (let s := { s0 with power := { s0.power with fact := 1600, goal := 1600 } }
     goes (exec .clockGlideStep s) fun t => t.power.fact == 1600 && t.power.mv == 480)) = true := by decide +kernel
theorem test_spurs : Config.fixedClocks.any (hitsAny (Tab.set 0 s0.power.spur 3 5)) = false := by
  have b : bits (5 : Word).toNat 63 1 = 0 := by decide +kernel
  have n : ∀ f, hitsAny (Tab.set 0 s0.power.spur 3 5) f = false := by
    intro f
    rw [show Tab.set 0 s0.power.spur 3 5 = [(3, 5)] by decide +kernel]
    simp only [hitsAny, hitsSpur, b, List.any_cons, List.any_nil]; rfl
  exact List.any_eq_false.2 fun x _ => by rw [n]; decide
theorem test_spurBounds : ((5 : Word).toNat % 2 ^ 31 ≤ (0x700000005 : Word).toNat / 2 ^ 32 % 2 ^ 31 ∧
    stays (exec (.spurListWrite 32 5) s0) s0 = true ∧ tileClock (Tab.set 0 s0.power.spur 3 5) s0.power.freq ≠ none) := by decide +kernel
theorem test_window : (goes (exec (.powerWindow 100) s0) fun t => t.power.watts == 100 && !t.power.held) = true ∧
    (goes (exec (.powerWindow 100) { s0 with power := { s0.power with ramp := 0x10FA0 } }) fun t => t.power.held) = true := by decide +kernel
theorem test_gates : (let s := s0
    let g := fun (b : Block) => { s with blocks := [(0x11, b)], ns := 9 }
    (goes (exec (.droopDetect 0x11) s) fun t => (t.blockAt 0x11).stretchTo == 64 && (t.blockAt 0x11).droop == 1) &&
    (goes (exec (.droopStretchEnd 0x11) (g { stretched := true })) fun t => !(t.blockAt 0x11).stretched) && s.blockIdle 0x11 &&
    (goes (exec (.blockIdle 0x11) s) fun t => (t.blockAt 0x11).gate == .hold && (t.blockAt 0x11).due == 20000) &&
    (goes (exec (.blockHoldExpiry 0x11) (g { gate := .hold, due := 9 })) fun t => (t.blockAt 0x11).gate == .gated) &&
    (goes (exec (.blockWakeRequest 0x11) (g { gate := .hold, due := 90 })) fun t => (t.blockAt 0x11).gate == .active) &&
    (goes (exec (.blockWakeRequest 0x11) (g { gate := .gated })) fun t => (t.blockAt 0x11).gate == .active) &&
    (let two := fun (y : Nat) (w : Block) => { s with blocks := [(y, w), (0x11, { gate := .gated, since := 5 })], power := { s.power with inrush := [y] } }
     (goes (exec (.blockWakeRequest 0x11) (two 0x22 { gate := .waking })) fun t => t.power.inrush == [0x11, 0x22]) &&
     (goes (exec (.blockWakeRequest 0x11) (two 0x01 { gate := .waking })) fun t => t.power.inrush == [0x01, 0x11]) &&
     goes (exec (.blockWakeRequest 0x11) (two 0x22 { gate := .waking, since := 3 })) fun t => t.power.inrush == [0x22, 0x11]) &&
    (goes (exec (.blockWakeRequest 0x11) (g { gate := .gated, since := 5 })) fun t => t.power.inrush == [0x11] && !t.power.held &&
      goes (exec .blockWakeGrant t) fun u => u.power.waking == [0x11] && (u.blockAt 0x11).due == 5009 &&
        goes (exec (.blockWakeComplete 0x11) { u with ns := 5009 }) fun v => (v.blockAt 0x11).gate == .active) &&
    (let w := fun (l : List Nat) (h : Bool) => { s with power := { s.power with inrush := [0x11], waking := l, held := h } }
     (goes (exec .blockWakeGrant (w [1, 2, 3] false)) fun t => t.power.waking == [1, 2, 3, 0x11]) &&
     stays (exec .blockWakeGrant (w [1, 2, 3, 4] false)) (w [1, 2, 3, 4] false) && stays (exec .blockWakeGrant (w [] true)) (w [] true))) = true := by decide +kernel
theorem test_thermal : ((goes (exec (.thermcfgWrite 0x7C6A60) s0) fun t => t.power.therm == 0x7C6A60) && stays (exec (.thermcfgWrite 0x7D6A60) s0) s0 &&
    !s0.power.warned && !s0.power.throttled && (goes (exec (.thermalWarn 95 3) s0) fun t => t.power.warned && t.power.temp == 95 && t.mgmt.log.length == 1 &&
      stays (exec .thermWarnClear t) t && goes (exec .thermWarnClear (t.sensed 89)) fun u => !u.power.warned) &&
    (goes (exec (.thermalThrottle 105 3) s0) fun t => t.power.fact == 625 && t.power.coolSince == none && stays (exec .throttleClear t) t &&
      (let c := { t.sensed 99 with ns := t.ns + 9999999 }
       c.power.coolSince == some t.ns && stays (exec .throttleClear c) c &&
       goes (exec .throttleClear { c with ns := t.ns + 10000000 }) fun u => !u.power.throttled && u.power.fact == 625)) &&
    (let h := { s0 with power := { s0.power with halted := true, temp := 94 } }
     let w := { h with power := { h.power with temp := 95 } }
     managed h && (goes (exec .thermalHaltClear h) fun t => !t.power.halted) && stays (exec .thermalHaltClear w) w)) = true := by decide +kernel
theorem test_powerLoss : ((goes (exec (.thermalCut 126 7) s0) fun t => !t.power.on && t.tiles == [] && t.power.trip.toNat / 2 ^ 40 == 0x17E &&
      !t.power.on && goes (exec (.powerUp ⟨[1], [2]⟩) t) fun u => u.power.on) &&
    goes (exec .supplyFault s0) fun t => !t.power.on && t.power.trip == 4) = true := by decide +kernel
theorem test_refills : (s0.period == 80000 && (goes (exec (.weightRefreshWindow 2500) s0) fun t => t.phase == 2500) &&
    (let q := fun (f r : Nat) => [(4, ({ cfg := BitVec.ofNat 64 (100 * 2 ^ 24 + r), fill := f } : Qos))]
     let two := ((s0.updCtx 1 fun x => { x with qos := q 90 40 }).updCtx 2 fun x => { x with exists_ := true, record := { x.record with part := 0 }, qos := q 10 40 })
     (two.ctxs.map Prod.fst == [1, 2]) && goes (exec (.qosRefill 4) two) fun t => ((t.ctxAt 1).qos.get {} 4).fill == 100 &&
       ((t.ctxAt 2).qos.get {} 4).fill == 50 && (t.partAt 0).pools.get 0 4 == 30 && goes (exec (.qosRefill 4) (t.updPart 0 fun p => { p with pools := [(4, 190)] })) fun u =>
         (u.partAt 0).pools.get 0 4 == 200 && ((u.ctxAt 2).qos.get {} 4).fill == 90)) = true := by decide +kernel
theorem test_admission : (let s := s0.updPart 0 fun p => { p with pools := [(0, 0x5000)] }
    homeSlice 64 == 0 && (match s.admitted 1 0 64 64 with
      | .ok t => ((t.ctxAt 1).qos.get {} 0).fill == 0x3FC0 && (t.partAt 0).pools == [(0, 0x5000)]
      | _ => false) && (match s.admitted 1 0 64 0x4001 with
      | .ok t => (t.partAt 0).pools == [(0, 0xFFF)] && t.ctxs == s.ctxs
      | _ => false) && match s0.admitted 1 0 64 0x4001 with
      | .error .wait => true
      | _ => false) = true := by decide +kernel

/-! ### Regions, launches, graphs -/

/-- A region image in force, and region 0 of `s0` changed. -/
def img (ports : BitVec 16) (q : Nat) : Image := ⟨5, 3, 2, q, 0, ports, 100, 0, 9⟩
def region (s : State) (f : Region → Region) : State := s.updRegion 0 f
def swap : RgnReq := { ctx := 1, level := .supervisor, addr := 0x500 }

theorem test_regionLoad : (let w := Instr.rgnLoad g0 3 4 5
    let go := fun s => issues s w g0 { src := [4, 5], dst := [3] }
    let gives := fun s v => goes (exec w s) fun t => t.me.landings == [⟨3, v, []⟩]
    let s := regs 0 0x40
    let sel := fun s => State.regionSel s (s.getS 4) == some 0
    go (regs 0x200 0) && (regs 0x200 0).regionSel 0x200 == none && gives (regs 0x200 0) 1 && go s && sel s && !(s.regionAt 0).busy &&
    !(s.regionAt 0).fixed && (goes (exec w s) fun t => (t.regionAt 0).state == 1 && (t.regionAt 0).req == some { swap with addr := 0x40 }) &&
    (let b := region s fun x => { x with req := some swap }
     go b && sel b && (b.regionAt 0).busy && gives b 2 && gives (b.updMe fun t => t.sset 5 1) 2) && go (regs 0 1) && gives (regs 0 1) 11 &&
    (let m := region (regs 0 1) fun x => { x with live := some (img 1 2), mask := 1 }
     go m && (m.regionAt 0).fixed && gives m 11) &&
    (let f := region s fun x => { x with live := some (img 1 2), mask := 1 }
     go f && sel f && (f.regionAt 0).fixed && gives f 9)) = true := by decide +kernel
theorem test_regionBind : (let w := Instr.rgnBind g0 3 4 5
    let go := fun s => issues s w g0 { src := [4, 5], dst := [3] }
    let gives := fun s v => goes (exec w s) fun t => t.me.landings == [⟨3, v, []⟩]
    let s := fun m => region (regs 0 m) fun x => { x with live := some (img 0xFF 0), mask := 1, state := 4 }
    go (regs 0x200 0) && gives (regs 0x200 0) 1 && go (s 0x100) && (s 0x100).regionSel 0 == some 0 && !((s 0x100).regionAt 0).busy && gives (s 0x100) 7 &&
    go (s 1) && gives (s 1) 0 && go (s 6) && (goes (exec w (s 6)) fun t => (t.regionAt 0).pend == 7 && (t.regionAt 0).mask == 1 && t.me.sPending 3) &&
    (let b := region (s 1) fun x => { x with req := some swap }
     go b && (b.regionAt 0).busy && gives b 2 && gives (b.updMe fun t => t.sset 5 0x100) 2) && issues (s 1) (.rgnStat g0 3 4) g0 { src := [4], dst := [3] } &&
    goes (exec (.rgnStat g0 3 4) (s 1)) fun t => t.me.landings == [⟨3, 0x50004, []⟩]) = true := by decide +kernel
theorem test_bindingApplies : (let s := region s0 fun x => { x with pend := 4, want := 4, answer := some (0, 0, 3) }
    let x := s.regionAt 0
    x.pend.getLsbD 2 && (x.port 2).beat == 0 && x.again == none && goes (exec (.portBindingApply 0 2) s) fun t =>
      (t.regionAt 0).mask == 4 && (t.regionAt 0).pend == 0 && t.me.landings == [⟨3, 0, []⟩] && (t.regionAt 0).answer == none) = true := by
  decide +kernel
theorem test_imageSwap : (let r := fun (st : Nat) (i : Option Image) => region s0 fun x =>
      { x with state := st, live := some (img 1 0), held := true, req := some { swap with image := i } }
    (match (r 1 none).verify swap false with
      | .ok (.error n) => n == 10
      | _ => false) && (goes (exec (.regionVerifyDone ⟨0, false⟩) (r 1 none)) fun t => (t.regionAt 0).state == 5 && (t.regionAt 0).reason == 10) &&
    ((r 2 (some (img 3 0))).regionAt 0).stopped && ((r 2 (some (img 3 0))).regionAt 0).balanced &&
    (goes (exec (.regionQuiesced 0) (r 2 (some (img 3 0)))) fun t => (t.regionAt 0).state == 3) &&
    goes (exec (.regionProgramDone 0) (r 3 (some (img 3 0)))) fun t => (t.regionAt 0).state == 4 && (t.regionAt 0).live == some (img 3 0) &&
      !(t.regionAt 0).held && (t.keySlot 2).rbc == 3) = true := by decide +kernel
theorem test_beats : (let e : Beat := ⟨8, false, true, true⟩
    let r := fun (p : Nat) (q : Port) => region s0 fun x => { x with live := some (img 0xF 0), mask := 0xF, state := 4, ports := [(p, q)] }
    let a := r 1 { fifo := [e], beat := 15 }
    (a.regionAt 0).bound 1 && !(a.regionAt 0).changing 1 && (goes (exec (.frameCrossing 0 1 e) a) fun t => ((t.regionAt 0).port 1).frames == 1 && ((t.regionAt 0).port 1).errs == 1 &&
      ((t.regionAt 0).port 1).beat == 0 && ((t.regionAt 0).port 1).fifo == []) &&
    (let b := r 2 { beat := 15 }
     (b.regionAt 0).bound 2 && goes (exec (.frameCrossing 0 2 e) b) fun t => ((t.regionAt 0).port 2).fifo == [e]) &&
    (let b := r 2 { beat := 14 }
     goes (exec (.frameCrossing 0 2 e) b) fun t => ((t.regionAt 0).port 2).fifo == [{ e with err := true }] && ((t.regionAt 0).port 2).errs == 1) &&
    (let c := region (r 1 { fifo := [e] }) fun x => { x with pend := 2 }
     stays (exec (.frameCrossing 0 1 e) c) c) &&
    goes (exec (.sidebandDelivery 0 1) (r 1 { side := [(2, 7)], taken := 2 })) fun t => ((t.regionAt 0).port 1).side == []) = true := by
  decide +kernel
/-- R243, R295: a control word queues behind the beats of its input port and at once on an output port, and its 5th waits; the FSTAT record. -/
theorem test_fabricWords : (
    let s := fun (m : BitVec 16) (p : Nat) (q : Port) => region s0 fun x => { x with live := some (img 0xF 0), mask := m, state := 4, held := true, ports := [(p, q)] }
    let x := { entry .l (.fctl 4 5) with a := 1, b := 7 }
    let q : Port := { fifo := [⟨8, false, true, true⟩], entered := 9, frames := 6, errs := 2, side := [(1, 1), (2, 2), (3, 3)] }
    let y := { entry .l (.fstat 4 5) with a := 1, b := 0x8000000000000100 }
    let rec_ := fun (m : BitVec 16) (f : Byte) => lHead (s m 1 q) y 1 fun t => t.bytesAt (sramLoc 0 0x100) 16 == [6, 0, 0, 0, 0, 0, 0, 0, 2, 0, 0, 0, 1, f, 0, 0] &&
      t.cur.lq == []
    (lHead (s 2 1 q) x 1 fun t => ((t.regionAt 0).port 1).side == q.side ++ [(9, 7)] && t.cur.lq == []) && lFault (s 0 1 q) x ⟨.portUnbound, 0, .read, 0⟩ &&
    (lHead (s 4 2 q) { x with a := 2 } 1 fun t => ((t.regionAt 0).port 2).side == q.side ++ [(0, 7)]) && rec_ 2 3 && rec_ 0 2) = true := by decide +kernel

/-- A graph of one node that runs as one stitch at width 0, entered 0x100 bytes into its image, which lies at 0x40000000. -/
def graph : List Byte := [1, 0, 1] ++ List.replicate 125 0 ++ [0, 1, 0, 0] ++ List.replicate 8 0xFF ++ List.replicate 12 0 ++
  List.replicate 12 0xFF ++ List.replicate 28 0
def launch : LaunchRec := ⟨0x40000000, 0x40002000, 0x40003000, 0, 0⟩
def launchBytes : List Byte := bytesOf 8 0x40000000 ++ bytesOf 8 0x40002000 ++ bytesOf 8 0x40003000
def ready0 : State := ((heapCtx.store 0x201000 launchBytes).updCtx 1 fun x =>
  { x with sections := [⟨0x40000000, 0x200, 0x300, graph⟩], launches := 6 }).updMe fun t => t.sset 4 0x40001000
def active : DqEntry := { num := 7, ctx := 1, launch := launch, graph := graph, slot := some 0, stage := 2 }
def queued (e : DqEntry) : State := (ready0.updPart 0 fun x => { x with queue := [e] }).updTile 256 fun t =>
  { t with ctx := some 1, part := some 0, trap := { tvec := 0x2000 } }

theorem test_launch : (let w := Instr.launch g0 3 4
    issues ready0 w g0 { src := [4], dst := [3] } && canonical (ready0.getS 4) && gives (ready0.resolve ready0.who (ready0.getS 4) 64 .read) 0x201000 &&
    ready0.me.stream == [] && !ready0.cur.barred ready0.me.bars && (ready0.admitAt 0 0x201000 64).isOk && (match ready0.accept 1 0 .supervisor (ready0.bytesAt 0x201000 64) with
      | .ok e => e == { active with num := 0, slot := none, stage := 0 }
      | _ => false) && ready0.queueRoom 0 .supervisor &&
    (goes (exec w ready0) fun t => t.getS 3 == 0x700000000 && (t.partAt 0).queue == [{ active with slot := none, stage := 0 }]) &&
    (let bad := ready0.store 0x201028 [1]
     (match bad.accept 1 0 .supervisor (bad.bytesAt 0x201000 64) with
      | .error (.status n) => n == 3
      | _ => false) && goes (exec w bad) fun t => t.getS 3 == 3) &&
    (let full := ready0.updPart 0 fun x => { x with queue := List.replicate 56 active }
     issues full w g0 { src := [4], dst := [3] } && !full.queueRoom 0 .supervisor && goes (exec w full) fun t => t.getS 3 == 1)) = true := by
  decide +kernel
theorem test_submission : (let s := ((ready0.store (hostLoc 0x8000) (bytesOf 8 1)).store (hostLoc 0x8040) launchBytes).updCtx 1 fun x =>
      { x with vf := { x.vf with sq := [(2, ⟨0x8000, 3, 1, 0⟩)] } }
    let r := (s.ctxAt 1).vf.sq.get {} 2
    s.power.on && s.partOf 1 == some 0 && (s.ctxAt 1).vf.nextQueue == some 2 && hostLoc (r.slotAddr 128 (r.cons + 1)) == hostLoc 0x8000 &&
    s.readNat (hostLoc 0x8000) 4 == 1 && s.queueRoom 0 .supervisor &&
    (goes (exec (.hostSubmissionIntake 1 2) s) fun t => (t.partAt 0).queue == [{ active with slot := none, stage := 0, host := some (2, 1) }] &&
      ((t.ctxAt 1).vf.sq.get {} 2).cons == 1) &&
    (goes (exec (.hostSubmissionIntake 1 2) (s.store (hostLoc 0x8068) [1])) fun t => (t.partAt 0).queue == [] && ((t.ctxAt 1).vf.sq.get {} 2).cons == 1 &&
      (t.ctxAt 1).vf.heldC == [[1, 2, 0, 0, 1, 0, 0, 0] ++ List.replicate 20 0]) &&
    (let u := (s.store (hostLoc 0x8068) [1]).updCtx 1 fun x => { x with vf := { x.vf with cq := ⟨0x9000, 4, 0, 0⟩ } }
     (s.ctxAt 1).vf.cq.full && !(u.ctxAt 1).vf.cq.full && (u.ctxAt 1).vf.heldC == [] && goes (exec (.hostSubmissionIntake 1 2) u) fun t =>
       (t.ctxAt 1).vf.cq.prod == 1 && (t.ctxAt 1).vf.heldC == [] && t.bytesAt (hostLoc 0x9000) 12 == [1, 0, 0, 0, 1, 2, 0, 0, 1, 0, 0, 0]) &&
    (let full := s.updPart 0 fun x => { x with queue := List.replicate 56 active }
     stays (exec (.hostSubmissionIntake 1 2) full) full)) = true := by decide +kernel
theorem test_castOn : (let s := queued { active with slot := none, stage := 0 }
    let u := queued { active with stage := 1 }
    (s.partAt 0).now == some 1 && !(s.partAt 0).ending && !(s.partAt 0).regrid && !s.power.halted && (s.ctxAt 1).resumed &&
    ((s.entries 0 1).find? fun e => e.stage == 1).isNone && s.castNext 0 1 == some { active with slot := none, stage := 0 } &&
    s.widest 0 active == some 0 && s.setsLegal 0 graph && (goes (exec (.castOn 0) s) fun t => (t.partAt 0).queue == [{ active with stage := 1 }]) &&
    ((u.entries 0 1).find? fun e => e.stage == 1) == some { active with stage := 1 } && gWeights graph == [] &&
    goes (exec (.castOn 0) u) fun t => (t.partAt 0).queue == [active]) = true := by decide +kernel
/-- A slot-table set of 2 by 2 tiles that has no tables behind its header. -/
def badGraph : List Byte := [1, 0, 1, 0, 0, 0, 0, 0, 192] ++ List.replicate 119 0 ++ graph.drop 128 ++ [2, 0, 2, 0] ++ List.replicate 60 0
theorem test_castOnIllegalSet : (let e := { active with slot := none, stage := 0, graph := badGraph }
    let s := queued e
    s.castNext 0 1 == some e && s.widest 0 e == some 0 && !s.setsLegal 0 badGraph && goes (exec (.castOn 0) s) fun t => (t.partAt 0).queue == [] && t == s.completeGraph 0 e 3) = true := by decide +kernel
theorem test_stitch : (let s := queued active
    let x : Stitch := ⟨0, 1, 0, 0, 0x40000100, [], 0x40002000, 0⟩
    !s.power.held && !(s.ctxAt 1).forced && !(s.tileAt 256).halted && s.dispatchable 0 1 == some (active, 0, [(0, 256)]) && active.stitch 0 0 (active.nodeWidth 0) 0 == x &&
    (goes (exec (.stitchDispatch 0) s) fun t => (t.tileAt 256).incoming == some x && ((t.partAt 0).queue.map fun e => (e.pos 0).next) == [1] &&
      (t.blockAt (blockOf 256)).gate == .active && goes (exec (.stitchStart 256) t) fun u => (u.tileAt 256).incoming == none &&
        ((u.tileAt 256).taskAt 0).live && ((u.tileAt 256).taskAt 0).pc == 0x40000100 && ((u.tileAt 256).taskAt 0).sget 7 == 0x40002000)) = true := by
  decide +kernel
theorem test_completion : (let e := active.setPos 0 { started := true, next := 1 }
    let d := active.setPos 0 { started := true, next := 1, done := true }
    let s := (queued e).updTile 256 fun t => { t with node := some (0, 0), deque := [4] }
    let u := queued d
    s.activeGraph 0 0 == some e && decide (0 < gNodes e.graph) && !(e.pos 0).done && e.ready 0 && (e.pos 0).spent (e.count 0) &&
    !s.nodeComing 0 1 0 0 && s.nodeTiles 0 1 0 0 == [256] && (s.tileAt 256).finished &&
    (goes (exec (.nodeComplete 0 0 0) s) fun t => (t.partAt 0).queue == [d] && (t.tileAt 256).node == none && (t.tileAt 256).deque == []) &&
    u.activeGraph 0 0 == some d && gNodes d.graph == 1 && (d.pos 0).done && canonical d.launch.doneA &&
    gives (u.translate 1 d.launch.doneA .amo .supervisor) 0x203000 && u.poison == [] && u.bound 0 == [1] && (u.ctxAt 1).parked == [] &&
    goes (exec (.graphComplete 0 0) u) fun t => (t.partAt 0).queue == [] && t.readNat 0x203000 8 == 1) = true := by decide +kernel
theorem test_windowsShut (k : Nat) : ((queued active).tileAt k).windows = [] :=
  Tab.get_of_all (P := fun x : Tile => x.windows = []) {} (queued active).tiles k (by decide +kernel) rfl
theorem test_widths : (let s := queued { active with width := 1 }
    let n := { active with width := 1 }
    s.activeGraph 0 0 == some n && !(s.partAt 0).ending && !(n.pos 0).started && s.widest 0 n == some 0 &&
    (goes (exec (.widthChange 0 0) s) fun t => (t.partAt 0).queue == [active]) && (queued active).widest 0 active == some 0 &&
    stays (exec (.widthChange 0 0) (queued active)) (queued active)) = true := by decide +kernel
theorem test_watchdog : (let s := fun (b : Bool) => { ((queued active).updTile 256 fun t => { t with
        node := some (0, 0), tasks := t.tasks.set 2 { live := true, pc := 0x3000 }, trap := { tvec := 0x2000, busy := b } }) with clock := 2 ^ 40 }
    (s false).activeGraph 0 0 == some active && (s false).nodeTiles 0 1 0 0 == [256] && ((s false).tileAt 256).lastIssue == 0 &&
    decide (periodOf ((s false).ctxAt 1).record.nodewd 26 ≤ 2 ^ 40) &&
    (goes (exec (.nodeWatchdogExpiry 0 0 0) (s false)) fun t => (t.tileAt 256).trap.tcause == 0x15 && ((t.tileAt 256).taskAt 2).pc == 0x2000 &&
      (t.tileAt 256).trap.tpc == 0x3000) && goes (exec (.nodeWatchdogExpiry 0 0 0) (s true)) fun t => (t.tileAt 256).watchdog == 4) = true := by
  decide +kernel

/-! ### Partitions, contexts, slices, saves -/

theorem test_partitions : (managed s0 && !descValid (s0.partAt 1).desc && (let v : Word := 0x000000FF12380502
      v.getLsbD 19 && !s0.descBad 1 (v &&& 0xFFFFFFFF000FFFFF) && goes (exec (.partitionCreate 1 v) s0) fun t =>
        (t.partAt 1).desc == 0x000000FF00080502 && (t.partAt 0).desc == (s0.partAt 0).desc) &&
    s0.descBad 1 0x80000 && stays (exec (.partitionCreate 1 0x80000) s0) s0 && descValid (s0.partAt 0).desc && s0.bound 0 == [1] &&
    stays (exec (.partitionDelete 0) s0) s0 && (let u := ctx fun x => { x with record := {} }
      u.bound 0 == [] && goes (exec (.partitionDelete 0) u) fun t => !descValid (t.partAt 0).desc) &&
    goes (exec (.widthCapWrite 0 2) s0) fun t => (t.partAt 0).desc == 0x03E8FFFF000A0000) = true := by decide +kernel

/-- A kennel that fits four tiles. -/
def kennel (s : State) : State := s.updCtx 1 fun x => { x with record := { x.record with kennel := 0x100000000, klen := 0x2000000 } }

theorem test_resizes : (let v : Word := 0x03E8FFFF00080100
    let free := part fun x => { x with now := none }
    let late := part fun x => { x with ending := true }
    let forced := (kennel s0).store 0x100000000 [2]
    descWcap v != 3 && v.toNat % 2 ^ 16 != (s0.partAt 0).desc.toNat % 2 ^ 16 && !s0.descBad 0 v && free.bound 0 == [1] && s0.kstate 1 != 2 &&
    v.getLsbD 19 && (goes (exec (.partitionResize 0 v) free) fun t => (t.partAt 0).desc == v) &&
    (goes (exec (.partitionResize 0 v) late) fun t => (t.partAt 0).resize == some v && (t.partAt 0).desc == (s0.partAt 0).desc) &&
    (let back := ctx fun x => { x with resumed := false }
     back.bound 0 == [1] && back.kstate 1 != 2 && goes (exec (.partitionResize 0 v) back) fun t => (t.partAt 0).resize == some v) &&
    forced.bound 0 == [1] && forced.kstate 1 == 2 && (goes (exec (.partitionResize 0 v) forced) fun t =>
      t.mgmt.answers == [.savedMidnode 0] && (t.partAt 0).desc == (s0.partAt 0).desc) && s0.descBad 0 0x8000C && stays (exec (.partitionResize 0 0x8000C) s0) s0) = true := by
  decide +kernel
theorem test_contexts : (let free := { s0 with tiles := [], parts := [(0, { desc := 0x03E8FFFF00080000 })] }
    let r : CtxRec := { part := 0, ptroot := 0x1000, ttlen := 512, kennel := 0x100000000, klen := 0x2000000 }
    managed s0 && !(s0.ctxAt 2).exists_ && (goes (exec (.vfEnable 2) s0) fun t => (t.ctxAt 2).exists_) && (s0.ctxAt 1).exists_ &&
    (goes (exec (.vfDisable 1) s0) fun t => !(t.ctxAt 1).exists_ && (t.tileAt 0).ctx == none) && free.mayRebind 1 && free.recordOk r &&
    free.readNat r.kennel.toNat 4 == 0 && free.ctxTiles 1 == [] && (free.partAt 0).resize == none &&
    (let given := free.store 0x100000000 [3]
     (given.ctxAt 1).exists_ && given.mayRebind 1 && given.recordOk r && given.readNat r.kennel.toNat 4 == 3 &&
       goes (exec (.contextBind 1 r) given) fun t => t.mgmt.answers == [.incomplete 1] && (t.ctxAt 1).record == (free.ctxAt 1).record) && (goes (exec (.contextBind 1 r) free) fun t => (t.ctxAt 1).record == r) &&
    (goes (exec (.contextUnbind 1) free) fun t => (t.ctxAt 1).record.part == 0xFF) && !s0.mayRebind 1 && stays (exec (.contextBind 1 r) s0) s0) = true := by
  decide +kernel
theorem test_schedule : (let v : BitVec 32 := 0x14301
    schedOn v && decide (10 ≤ v.toNat / 2 ^ 13) && v.toNat / 2 ^ 9 % 2 ^ 4 == 1 && s0.partOf 1 == some 0 &&
    (goes (exec (.scheduleEntryWrite 0 3 v) s0) fun t => (t.partAt 0).sched.get 0 3 == v) && schedOn 0x12301 &&
    stays (exec (.scheduleEntryWrite 0 3 0x12301) s0) s0) = true := by decide +kernel

/-- Contexts 1 and 2 share the schedule of partition 0 and have a queued launch each. -/
def shared2 : State := ({ s0 with ns := 20000 }.updCtx 2 fun x => { x with exists_ := true, record := { x.record with part := 0 } }).updPart 0
  fun x => { x with sched := [(0, 0x14301), (1, 0x14302)], queue := [{ num := 1, ctx := 1, launch := launch }, { num := 1, ctx := 2, launch := launch }], slices := 1 }
theorem test_slices : (let alone := shared2.updPart 0 fun x => { x with queue := [{ num := 1, ctx := 1, launch := launch }] }
    shared2.nextSlice 0 == some (1, 1) && !(shared2.partAt 0).ending && (shared2.ctxAt 1).resumed && !(shared2.ctxAt 1).forced &&
    schedLen 0x14301 == 10 && (goes (exec (.sliceEnd 0) shared2) fun t => (t.partAt 0).ending && (t.partAt 0).token == [0, 256, 257, 1] &&
      goes (exec (.bindOffTokenHop 0) t) fun u => (u.tileAt 0).passed && (u.partAt 0).token == [256, 257, 1]) &&
    alone.nextSlice 0 == some (0, 1) && goes (exec (.sliceEnd 0) alone) fun t => !(t.partAt 0).ending && (t.partAt 0).startedAt == 20000) = true := by
  decide +kernel

/-- Tile 0 has nothing left to do and the token has passed it. -/
def leaving : State := ((kennel s0).updTile 0 fun t => { t with tasks := Vector.replicate 4 {}, passed := true }).updPart 0 fun x => { x with ending := true }
theorem test_switch : (let s := leaving
    let u := leaving.updTile 256 fun t => { t with ctx := some 1, part := some 0 }
    s.cur.vacant && !s.awaited 0 1 0 && (s.regionAt (blockOf 0)).savable false && s.inPart 0 0 && !s.cur.switched && s.kennelBad 0 1 [] == none &&
    s.kennelAt 1 == 0x100000000 && !s.cur.halted && s.cur.windows == [] && (s.partTiles 0).all (fun k => k == 0 || (s.tileAt k).ctx != some 1) && (s.partAt 0).resize == none &&
    (goes (exec (.tileSwitch 0) s) fun t => (t.partAt 0).now == none && (t.tileAt 0).ctx == none && t.readNat 0x100000000 4 == 1) &&
    (let h := leaving.updTile 256 fun t => { t with ctx := some 1, part := some 0, halted := true }
     h.lastOfBlock 0 0 && (h.ctxBlocks 0 1).all (fun b => (h.regionAt b).savable false) && goes (exec (.tileSwitch 0) h) fun t => (t.partAt 0).now == none &&
       (t.tileAt 256).halted && (t.tileAt 0).ctx == none && t.readNat 0x100000000 4 == 1) &&
    u.partTiles 0 == [0, 256, 1, 257] && !(u.tileAt 256).switched && (u.tileAt 256).ctx == some 1 && !u.lastOfBlock 0 0 &&
    goes (exec (.tileSwitch 0) u) fun t => (t.tileAt 0).switched && (t.partAt 0).now == some 1) = true := by decide +kernel
theorem test_grace : (let s := { leaving with ns := 2000000 }
    (s.ctxAt 1).resumed && !(s.ctxAt 1).forced && decide ((s.partAt 0).endedAt + 1000 * descGrace (s.partAt 0).desc ≤ s.ns) && s.running 0 &&
    (goes (exec (.graceExpiry 0) s) fun t => (t.ctxAt 1).forced && !t.running 0) && managed s0 && s0.partOf 1 == some 0 &&
    goes (exec (.forcedPreemptRequest 1) s0) fun t => (t.ctxAt 1).forced && !t.running 0) = true := by decide +kernel
theorem test_forcedSave : (let on := fun (s : State) k => s.updTile k fun t => { t with ctx := some 1, part := some 0 }
    let s := (([1, 256, 257].foldl on (kennel s0)).updTile 256 fun t => { t with node := some (0, 0) }).updCtx 1 fun x => { x with forced := true }
    s.partOf 1 == some 0 && s.kennelBad 0 1 (s.imaged 0 1) == none && s.partTiles 0 == [0, 256, 1, 257] && (s.partAt 0).resize == none &&
    s.imaged 0 1 == [(0, 0), (1, 256)] && (s.ctxTiles 1).length == 4 && (s.ctxTiles 1).all (fun k => (s.tileAt k).settledForSave) &&
    (s.ctxBlocks 0 1).all (fun b => (s.regionAt b).savable false && s.awake b) &&
    (goes (exec (.forcedSaveDone 1) s) fun t => (t.partAt 0).now == none && t.readNat 0x100000000 4 == 2 &&
      (t.ctxAt 1).images.find 256 == some (1, (s.tileAt 256).image)) &&
    (let h := { s with clock := 2 ^ 24 }.updTile 0 fun t => { t with saveAt := some 0 }
     (h.ctxTiles 1).contains 0 && (h.tileAt 0).saveAt == some 0 && h.pod.asks == [] && periodOf (h.ctxAt 1).record.hangwd 24 == 2 ^ 24 && h.transits == [] && h.kennelAt 1 == 0x100000000 &&
     (h.ctxAt 1).record.pdir == 0 && goes (exec (.hangWatchdogExpiry 1) h) fun t => t.readNat 0x100000000 4 == 3 && (t.tileAt 0).ctx == none)) = true := by
  decide +kernel
theorem test_resume : (let s := ({ shared2 with tiles := [] }.updPart 0 fun x => { x with now := none }).updCtx 2 fun x =>
      { x with record := { x.record with kennel := 0x100000000, klen := 0x2000000, tvec0 := 0x2000 } }
    s.partOf 2 == some 0 && s.nextSlice 0 == some (1, 1) && schedCtx ((s.partAt 0).sched.get 0 1) == 2 && s.kstate 2 == 0 &&
    (s.partBlocks 0).all (fun b => (s.regionAt b).state != 3) && (s.entries 0 2).all (fun e => e.slot == none && e.stage == 0) &&
    s.power.on && !s.power.halted && (s.ctxAt 2).images == [] && s.planReady && s.tilesFree 0 2 && (s.partAt 0).resize == none &&
    (s.partAt 0).now == none &&
    goes (exec (.contextResume 2) s) fun t => (t.partAt 0).now == some 2 && (t.ctxAt 2).resumed && (t.tileAt 257).ctx == some 2 && (t.partAt 0).entry == 1) = true := by
  decide +kernel
theorem test_lateFlag : (let tile := fun (f : Tile → Tile) => s0.updTile 0 f
    let gone := tile fun t => { t with switched := true }
    let forced := ctx fun x => { x with forced := true }
    gone.cur.ctx == some 1 && gone.cur.switched && (goes (exec (.lateFlagRaise 1 0 0 9) gone) fun t => (t.ctxAt 1).sticky == 9 && t.me.flags == 0) &&
    (forced.ctxAt 1).forced && forced.me.live && !forced.cur.switched && (goes (exec (.lateFlagRaise 1 0 0 9) forced) fun t => t.me.flags == 9 &&
      (t.ctxAt 1).sticky == 0) && !(forced.cur.taskAt 2).live && (goes (exec (.lateFlagRaise 1 0 2 9) forced) fun t => (t.ctxAt 1).sticky == 9) &&
    stays (exec (.lateFlagRaise 1 0 0 9) s0) s0) = true := by decide +kernel
theorem test_removal : (let s := (kennel s0).updCtx 1 fun x =>
      { x with
        arrivals := [5]
        tlb := [⟨0, 0x1000, 0x1000, 0, 6⟩, ⟨0, 0x3000, 0x1000, 0, 6⟩]
        vf := { x.vf with sq := [(0, ⟨0x8000, 3, 1, 0⟩)] } }
    managed s && s.kstate 1 == 0 && (s.ctxAt 1).record.kennel != 0 &&
    (goes (exec (.contextRemoveRequest 1) s) fun t => (t.tileAt 0).ctx == none && (t.ctxAt 1).arrivals == [] && (t.ctxAt 1).exists_ &&
      t.readNat (s.kennelAt 1) 4 == 0) &&
    (goes (exec (.functionLevelReset 1) s) fun t => (t.tileAt 0).ctx == none && ((t.ctxAt 1).vf.sq.get {} 0).prod == 0) &&
    goes (exec (.shootdownRequest 1 0x1800 0x2FFF) s) fun t => (t.ctxAt 1).tlb == [⟨0, 0x3000, 0x1000, 0, 6⟩] && t.mgmt == s.mgmt) = true := by
  decide +kernel
theorem test_shootDone : (let y : Shoot := ⟨4, 0x1000, 0x1000⟩
    let s := fun (a : List Access) => { (me fun t => { t with stream := a }).updCtx 1 fun x => { x with shoots := [y], era := 5 } with agenda := [.shootDone 1] }
    let early : Access := { op := .load 8 false, loc := 0x2000, dst := 4, bars := [], era := 4 }
    (s []).shootOver 1 y && (goes (step (s [])) fun t => t.mgmt.answers == [.shootdown 1 0x1000 0x1000] && (t.ctxAt 1).shoots == []) &&
    !(s [early]).shootOver 1 y && goes (step (s [early])) fun t => t.mgmt.answers == [] && (t.ctxAt 1).shoots == [y]) = true := by decide +kernel

/-! ### Host queues, keys, Ethernet, errors, registers -/

theorem test_hostQueues : (let v := fun (y : Vf) => ctx fun x => { x with vf := y }
    let on := v { sq := [(1, ⟨0x8000, 4, 1, 0⟩)], cq := ⟨0x9000, 4, 3, 1⟩ }
    let q := fun (t : State) => (t.ctxAt 1).vf.sq.get {} 1
    let reset := v { sq := [(1, ⟨0x8000, 4, 1, 0⟩)], flr := true }
    on.power.on && (on.ctxAt 1).exists_ && !(on.ctxAt 1).vf.flr && (q on).k == 4 && (goes (exec (.submissionDoorbellWrite 1 1 9) on) fun t => (q t).prod == 9) &&
    (reset.ctxAt 1).vf.flr && stays (exec (.submissionDoorbellWrite 1 1 9) reset) reset && (on.ctxAt 1).vf.heldC == [] && (on.ctxAt 1).vf.heldE == [] &&
    (goes (exec (.consumerDoorbellWrite 1 false 2) on) fun t => (t.ctxAt 1).vf.cq.cons == 2 && (t.ctxAt 1).vf.msiC) &&
    (goes (exec (.consumerDoorbellWrite 1 false 3) on) fun t => !(t.ctxAt 1).vf.msiC) && (q s0).k == 0 &&
    (goes (exec (.queueConfigWrite 1 1 true 0x3000) s0) fun t => (q t).base == 0x3000) &&
    (goes (exec (.queueConfigWrite 1 1 true 0x3000) on) fun t => (q t).base == 0x8000) &&
    (goes (exec (.queueConfigWrite 1 1 false 8) s0) fun t => (q t).k == 8) &&
    ([1, 3, 17, 31].all fun k => goes (exec (.queueConfigWrite 1 1 false k) s0) fun t => q t == q s0) && (goes (exec (.queueConfigWrite 1 1 false 0) on) fun t => q t == ⟨0x8000, 0, 0, 0⟩) &&
    (let open5 := v { msix := [(5, 0)] }
     s0.mgmt.firmware && !((open5.ctxAt 1).vf.vector 5).getLsbD 96 && (goes (exec (.msixTestWrite 1 5) open5) fun t => (t.ctxAt 1).vf.sent == [(5, 1)]) &&
     ((on.ctxAt 1).vf.vector 5).getLsbD 96 && goes (exec (.msixTestWrite 1 5) on) fun t => (t.ctxAt 1).vf.sent == [] &&
       (t.ctxAt 1).vf.pending == 0x20)) = true := by decide +kernel
theorem test_barRegisters : (let on := ctx fun x => { x with vf := { sq := [(1, ⟨0x8000, 4, 5, 3⟩)], cq := ⟨0x9000, 4, 3, 1⟩ } }
    let go := fun off (v : Word) (p : Vf → Bool) => goes (step { on with agenda := [.barWrite 1 0 off v] }) fun t => p (t.ctxAt 1).vf
    go 0x00 0x7000 (fun v => (v.sq.get {} 0).base == 0x7000) && go 0x48 8 (fun v => v.cq.k == 4) && go 0x28 8 (fun v => (v.sq.get {} 2).k == 8) &&
    go 0x108 9 (fun v => (v.sq.get {} 1).prod == 9) && on.barRead 1 0 0x108 == 0x300000005 && go 0x120 0x200000007 (fun v => v.cq.cons == 2) &&
    on.barRead 1 0 0x120 == 0x100000003 && ([0x200, 0x60, 0xF8, 0x130, 0x138, 0x1F8].all fun o => go o 9 (fun v => v == (on.ctxAt 1).vf) && (o == 0x200 || on.barRead 1 0 o == 0)) && on.barRead 1 0 0x208 == 0 && on.barRead 1 0 4 == 0) = true := by
  decide +kernel
theorem test_keys : (let s := { s0 with mgmt := { s0.mgmt with keys := [(3, { key := [1], st := 1, rbc := 7 })] } }
    managed s && (List.replicate 2592 (1 : Byte)).length == 2592 && (s.keySlot 3).st == 1 &&
    (goes (exec (.keySlotRevoke 3) s) fun t => t.keySlot 3 == ⟨[1], 2, 7⟩) && (s.keySlot 4).st == 0 &&
    stays (exec (.supervisorImageInstall 0 4 [5] []) s) s && goes (exec (.attestationRequest 7) s) fun t => t.mgmt.reports.length == 1) = true := by decide +kernel

/-- A flow of context 1 with a ring of 256 bytes at 0x40001000, its counts at 0x40000000 and 0x40000008; a frame of 112 bytes. -/
def flow0 : Flow := { base := 0x40001000, size := 256, ctx := 1, cls := 3, consA := 0x40000000, cntA := 0x40000008, hiwm := 512 }
def flow (f : Flow → Flow) : State := { heapCtx with eth := [(2, { flows := [(0, f flow0)] })] }
def frame : EthFrame := ⟨List.replicate 112 7, true, 0, none, 5⟩
theorem test_ethernet : (let s := flow id
    let e := s.ethAt 2
    s.power.on && decide (2 < s.dies) && decide ({ s with grade := .p1 }.dies ≤ 2) &&
    stays (exec (.ethFrameReceive 2 frame) { s with grade := .p1 }) { s with grade := .p1 } && (goes (exec (.ethFrameReceive 2 { frame with fcsOk := false }) s) fun t => (t.ethAt 2).rxbad == 1) && e.classify frame == 0 &&
    !e.glue.getLsbD 16 && (match s.flowAddr 1 0x40000000 .read, s.flowAddr 1 0x40000008 .amo, s.ringPieces 1 (e.flow 0) 2 0 with
      | .ok a, .ok c, .ok ps => a == 0x200000 && c == 0x200008 && ps == [0x201000, 0x201040]
      | _, _, _ => false) && s.poison == [] && (goes (exec (.ethFrameReceive 2 frame) s) fun t => ((t.ethAt 2).flow 0).prod == 128 &&
        t.readNat 0x200008 8 == 128 && t.byte 0x201000 == 112 && t.byte 0x201010 == 7) &&
    (let full := flow fun x => { x with prod := 192 }
     goes (exec (.ethFrameReceive 2 frame) full) fun t => ((t.ethAt 2).flow 0).drops == 1 && ((t.ethAt 2).flow 0).prod == 192) &&
    ((s.ethAt 1).flow 0).ctx == 0xFF && stays (exec (.ethFrameReceive 1 frame) s) s) = true := by decide +kernel
theorem test_glue : (let s := { s0 with eth := [(2, { glue := 0x10000 })] }
    (s.ethAt 2).glue.getLsbD 16 && (goes (exec (.ethFrameReceive 2 frame) s) fun t => (t.ethAt 2).waiting == [frame] &&
      (goes (exec (.glueClassifyAnswer 2 5) t) fun u => (u.ethAt 2).waiting == []) && goes (exec (.glueClassifyTimeout 2) t) fun u =>
        (u.ethAt 2).waiting == [])) = true := by decide +kernel
theorem test_pause : (let s := flow fun x => { x with paused := true, prod := 64, lowm := 65 }
    let u := flow fun x => { x with paused := true, prod := 64, lowm := 64 }
    ((s.ethAt 2).flow 0).paused && ((s.ethAt 2).flow 0).ctx != 0xFF && (goes (exec (.pauseRenewal 2 0) s) fun t => !((t.ethAt 2).flow 0).paused) &&
    goes (exec (.pauseRenewal 2 0) u) fun t => ((t.ethAt 2).flow 0).paused && t.sent == [.pause 2 3]) = true := by decide +kernel
theorem test_thermalHalt : (!s0.power.halted && goes (exec (.thermalHalt 125 3) s0) fun t => t.power.halted && (t.ctxAt 1).forced && !t.canIssue) = true := by
  decide +kernel
theorem test_errors : ((goes (exec (.eccCorrection 0x1003 false) s0) fun t => t.poison == [] && t.mgmt.log.length == 1) &&
    (goes (exec (.eccCorrection 0x1003 true) s0) fun t => t.poisoned 0x1000 1 && t.poisoned 0x1007 1 && !t.poisoned 0x1008 1) &&
    (let r := { s0 with mgmt := { s0.mgmt with scheduled := [5, 6], repairs := [1] } }
     goes (exec (.hbmRowRepair 5) r) fun t => t.mgmt.repairs.contains 5 && t.mgmt.repairs.contains 1 && t.mgmt.scheduled == [6]) &&
    stays (exec (.hbmRowRepair 5) s0) s0 && !(s0.pool.get 0 7).getLsbD 2 && s0.parts == [(0, s0.partAt 0)] &&
    descValid (s0.partAt 0).desc && ((s0.partAt 0).mask 7).getLsbD 2 && s0.bound 0 == [1] &&
    goes (exec (.l2TagParityError 7 2) s0) fun t => (t.tileAt 0).ctx == none) = true := by decide +kernel
/-- Contexts 1 and 2 are bound to partition 0, context 3 to partition 1; all of them own way 2, and only the first two share the pool. -/
theorem test_parityOwners : (let tile := fun c p => ({ ctx := some c, part := some p } : Tile)
    let c := fun p => ({ exists_ := true, record := { part := p } } : Ctx)
    let s := { s0 with tiles := [(0, tile 1 0), (1, tile 2 0), (512, tile 3 1)], ctxs := [(1, c 0), (2, c 0), (3, c 1)], parts := [(0, { desc := 0x03E8FFFF000C0000 }), (1, { desc := 0x03E8FFFF00080001 })] }
    let on := fun (t : State) => [(t.tileAt 0).ctx, (t.tileAt 1).ctx, (t.tileAt 512).ctx]
    let pooled := { s with pool := [(7, 4)] }
    descShare (s.partAt 0).desc && !descShare (s.partAt 1).desc && s.bound 0 == [1, 2] && s.bound 1 == [3] && (pooled.pool.get 0 7).getLsbD 2 &&
    (goes (exec (.l2TagParityError 7 2) s) fun t => on t == [none, none, none]) &&
    goes (exec (.l2TagParityError 7 2) pooled) fun t => on t == [none, none, some 3]) = true := by decide +kernel
/-- Fifteen corrected errors of the row within the hour. -/
theorem test_rowDue : let m : Tab (List Nat) := [(Config.hbmRow 0x1003, List.replicate 15 0)]
    15 ≤ ((m.get [] (Config.hbmRow 0x1003)).filter fun x => decide (0 < x + 3600000000000)).length := by
  simp [Tab.get, Tab.find]
theorem test_registers : (managed s0 && decide (3 < s0.dies) && (goes (exec (.registerWrite (.wshareBase 0 3) 0x40000000) s0) fun t =>
      ((t.partAt 0).shares.get {} 3).base == 0x40000000) && stays (exec (.registerWrite (.wshareBase 0 3) 0x40000001) s0) s0 &&
    (goes (exec (.registerWrite .pwrRamp (-1)) s0) fun t => t.power.ramp == 0x1FFFF) &&
    (goes (exec (.registerWrite .termMax 200) s0) fun t => t.pod.termMax == 200) && stays (exec (.registerWrite .termMax 199) s0) s0 &&
    (goes (exec (.registerWrite (.flowTab 2 0) (-1)) s0) fun t => (t.ethAt 2).flowTabAt 0 == 0x3F3F3F3F3F3F3F3F) &&
    (goes (exec (.registerWrite (.flowBase 2 1) 0x40) s0) fun t => ((t.ethAt 2).flow 1).base == 0x40) &&
    stays (exec (.registerWrite (.flowBase 2 1) 0x41) s0) s0 && (goes (exec (.glueWrite 2 5) s0) fun t => (t.ethAt 2).glue == 5) &&
    decide (6 < s0.blockSide) && s0.fused == [] && (goes (exec (.glueWrite 3 0x10606) s0) fun t => (t.ethAt 3).glue == 0x10606) &&
    stays (exec (.glueWrite 2 0x10000) s0) s0) = true := by decide +kernel

end Sys2Proof.Tests
end

/-! PROOFS of the machine's own statements: the machine after reset (O4, O5), the special registers (O20). -/

section

namespace Sys2Proof.Machine

@[simp] theorem State.tileAt_reset (t : Nat) : State.reset.tileAt t = {} := rfl
@[simp] theorem State.partAt_reset (p : Nat) : State.reset.partAt p = {} := rfl
@[simp] theorem State.byte_reset (loc : Nat) : State.reset.byte loc = 0 := rfl

/-- In a tile that nothing has touched no task lives. -/
theorem Tile.tasks_default (k : Fin 4) : ({} : Tile).tasks[k] = {} := Vector.getElem_replicate k.isLt

/-- Settles O4: every table of the reset state is empty, so each part reads as its default. -/
theorem resetState : Obligations.ResetState := by
  refine ⟨fun t => ?_, fun t o _ => State.byte_reset _, fun t => ?_, fun p => ?_, rfl, rfl⟩
  · rw [State.tileAt_reset]
    exact ⟨rfl, rfl, rfl, rfl, rfl, rfl, fun k => congrArg Task.live (Tile.tasks_default k)⟩
  · rw [State.tileAt_reset]
    exact ⟨rfl, rfl, rfl⟩
  · rw [State.partAt_reset]
    decide

/-- Settles O5: nothing is stored yet, and no block of a VL9-P4 is fused off. -/
theorem resetKeepsInv : Obligations.ResetKeepsInv := ⟨State.wf_reset, rfl⟩

end Sys2Proof.Machine
end

section

namespace Sys2Proof.Machine

open Sys2Proof.Claims

/-! ### Bits that a loop over a register sets (R400) -/

theorem getLsbD_one_shiftLeft {w : Nat} (i j : Nat) (h : j < w) :
    ((1 : BitVec w) <<< i).getLsbD j = decide (i = j) := by
  simp only [BitVec.getLsbD_shiftLeft, h, decide_true, Bool.true_and]
  grind

/-- DEADPEER register `n` has the dead bits of its 64 packages. -/
theorem State.getLsbD_deadReg (s : State) (c n i : Nat) (h : i < 64) : (s.deadReg c n).getLsbD i = s.deadBit c (64 * n + i) := by
  have bits : ∀ k, ((List.range k).foldl (fun w i => if s.deadBit c (64 * n + i) then w ||| ((1 : Word) <<< i) else w) 0).getLsbD i =
      (decide (i < k) && s.deadBit c (64 * n + i)) := by
    intro k
    induction k with
    | zero => simp
    | succ k ih =>
      rw [List.range_succ, List.foldl_append, List.foldl_cons, List.foldl_nil]
      split
      · next hd =>
        rw [BitVec.getLsbD_or, ih, getLsbD_one_shiftLeft _ _ h]
        grind
      · next hd =>
        rw [ih]
        grind
  rw [State.deadReg, bits, decide_eq_true h, Bool.true_and]

/-- What a loop over the 64 packages of a DEADPEER register leaves of a bit: that of a package which is `kept`, or of another
register, is as it was, any other is that of the value. -/
theorem getLsbD_foldl_dead (kept : Nat → Bool) (v : Word) (d : BitVec 256) (n p : Nat) (hp : p < 256) :
    ((List.range 64).foldl (fun d i =>
      if kept (64 * n + i) then d
      else if v.getLsbD i then d ||| ((1 : BitVec 256) <<< (64 * n + i)) else d &&& ~~~((1 : BitVec 256) <<< (64 * n + i))) d).getLsbD p =
    if p / 64 = n ∧ kept p = false then v.getLsbD (p % 64) else d.getLsbD p := by
  have bits : ∀ k ≤ 64, ((List.range k).foldl (fun d i =>
      if kept (64 * n + i) then d
      else if v.getLsbD i then d ||| ((1 : BitVec 256) <<< (64 * n + i)) else d &&& ~~~((1 : BitVec 256) <<< (64 * n + i))) d).getLsbD p =
      if p / 64 = n ∧ p % 64 < k ∧ kept p = false then v.getLsbD (p % 64) else d.getLsbD p := by
    intro k hk
    induction k with
    | zero => simp
    | succ k ih =>
      rw [List.range_succ, List.foldl_append, List.foldl_cons, List.foldl_nil]
      by_cases e : p = 64 * n + k
      · subst e
        have hq : (64 * n + k) / 64 = n := by omega
        have hr : (64 * n + k) % 64 = k := by omega
        cases hd : kept (64 * n + k) with
        | true => rw [if_pos rfl, ih (by omega), hd]; simp
        | false => cases hv : v.getLsbD k <;> simp [hq, hr, hv, hp]
      · have out : ∀ x : BitVec 256, (x ||| (1 : BitVec 256) <<< (64 * n + k)).getLsbD p = x.getLsbD p := fun x => by
          rw [BitVec.getLsbD_or, getLsbD_one_shiftLeft _ _ hp, decide_eq_false (Ne.symm e), Bool.or_false]
        have out' : ∀ x : BitVec 256, (x &&& ~~~((1 : BitVec 256) <<< (64 * n + k))).getLsbD p = x.getLsbD p := fun x => by
          rw [BitVec.getLsbD_and, BitVec.getLsbD_not, getLsbD_one_shiftLeft _ _ hp, decide_eq_false (Ne.symm e), decide_eq_true hp]
          simp
        have same : (p / 64 = n ∧ p % 64 < k + 1 ∧ kept p = false) ↔ (p / 64 = n ∧ p % 64 < k ∧ kept p = false) :=
          and_congr_right fun hn => and_congr_left' (by omega)
        simp only [same, ← ih (by omega)]
        split
        · rfl
        · split
          · exact out _
          · exact out' _
  rw [bits 64 Nat.le.refl]
  have : p % 64 < 64 := by omega
  simp [this]

/-! ### MFS (R82, R103) -/

/-- MFS of any register but LEASEQ writes what the register reads as. -/
theorem mfs_writes {s : State} {g : Guard} {d : BitVec 5} {n : BitVec 10} (hn : n ≠ 0x061)
    (h : issues s (.mfs g d n) g { dst := [d] } = true) : Writes s (.mfs g d n) d (s.sreg n.toNat) :=
  writes_of_ok _ _ _ _ ((exec_mfs ..).trans (State.plain_ok _ _ _ _ _ _ h (if_neg hn)))

/-- VWIN reads the window of the task and which windows are free (R159). -/
theorem Tile.vwin_eq (t : Tile) (k : Nat) : t.vwin k =
    BitVec.ofNat 64 ((if t.win0 = some k then 1 else if t.win1 = some k then 2 else 0) +
      (if t.win0 = none then 16 else 0) + if t.win1 = none then 32 else 0) := by
  simp only [Tile.vwin, Tile.winOf, Option.isNone_iff_eq_none]

/-- The numbers of the DEADPEER registers follow each other from 0x050. -/
theorem deadNumber_toNat {n : Nat} (h : n < 4) : (BitVec.ofNat 10 (0x050 + n)).toNat = 0x050 + n := by
  rw [BitVec.toNat_ofNat, Nat.mod_eq_of_lt (by omega)]

theorem deadNumber_ne_leaseq {n : Nat} (h : n < 4) : BitVec.ofNat 10 (0x050 + n) ≠ 0x061 := fun e => by
  have e' := congrArg BitVec.toNat e
  rw [deadNumber_toNat h, show (0x061 : BitVec 10).toNat = 97 from rfl] at e'
  omega

/-- DEADPEER register `n` of the issuing tile's context (R400). -/
theorem State.sreg_dead (s : State) {n : Nat} (h : n < 4) : s.sreg (BitVec.ofNat 10 (0x050 + n)).toNat = s.deadReg s.myCtx n := by
  obtain rfl | rfl | rfl | rfl : n = 0 ∨ n = 1 ∨ n = 2 ∨ n = 3 := by omega
  all_goals rfl

/-- A package reads as dead unless it is the own one, or a member that is not marked (R400). -/
theorem State.deadBit_eq (s : State) (c p : Nat) :
    s.deadBit c p = (decide (p ≠ s.pkg.toNat) && (!s.pod.members.contains p || (s.ctxAt c).dead.getLsbD p)) := by
  unfold State.deadBit
  split
  · next h => rw [h]; simp
  · next h => split <;> simp_all

/-! ### Reading a special register after an issue or a write of a trap register -/

/-- The tile after an issue, but for its tasks and the notes that any issue leaves. -/
theorem State.cur_issued_eq (s : State) (k : Nat) : ∃ tasks last wait at_ traps, (s.issued k).cur =
    { s.cur with tasks := tasks, last := last, queueWait := wait, lastIssue := at_, trapWait := traps } := by
  rw [State.issued, State.cur_noted, State.cur_updMe]
  exact ⟨_, _, _, _, _, rfl⟩

/-- The advance past a unit of words moves the PC and the place in delay slots. -/
theorem Task.advance_eq (x : Task) (n : Nat) : ∃ pc slot, x.advance n = { x with pc := pc, slot := slot } :=
  ⟨(x.advance n).pc, (x.advance n).slot, (congrArg (fun y : Task => { y with pc := (x.advance n).pc, slot := (x.advance n).slot })
    (x.advance_frame n))⟩

/-- The task after an issue, but for its PC, its place in delay slots and the tasks that it yields to. -/
theorem State.me_issued_eq (s : State) (k : Nat) : ∃ pc slot mask, (s.issued k).me =
    { s.me with pc := pc, slot := slot, yielding := mask } := by
  obtain ⟨pc, slot, h⟩ := s.me.advance_eq k
  rw [State.issued, State.me_noted, State.me_updMe, h]
  exact ⟨pc, slot, _, rfl⟩

/-- No special register shows what an issue leaves on its tile. -/
@[simp] theorem State.sreg_issued (s : State) (k n : Nat) : (s.issued k).sreg n = s.sreg n := by
  obtain ⟨_, _, _, hm⟩ := s.me_issued_eq k
  obtain ⟨_, _, _, _, _, hc⟩ := s.cur_issued_eq k
  have hx : (s.issued k).myCtx = s.myCtx := by rw [State.myCtx, hc]; rfl
  unfold State.sreg
  rw [hm, hc, hx]
  rfl

/-- A change of the issuing tile that is none of its tasks leaves the issuing task. -/
theorem State.me_updTile_tile (s : State) (f : Tile → Tile) (h : (f s.cur).tasks = s.cur.tasks) : (s.updTile s.tile f).me = s.me := by
  show (s.updTile s.tile f).cur.tasks[s.task] = s.me
  rw [State.cur_updTile_tile]
  exact congrArg (fun v : Vector Task 4 => v[s.task]) h

/-! ### Trap registers by number (R104, R376) -/

/-- The numbers of the trap registers. -/
def trapNumbers : List Nat := [0x040, 0x041, 0x042, 0x043, 0x044, 0x100, 0x101, 0x102, 0x103, 0x104, 0x105]

/-- What a trap register reads as. -/
def TrapRegs.read (r : TrapRegs) : Nat → Word
  | 0x040 => r.tvec
  | 0x041 => uimm r.tcause
  | 0x042 => r.taddr
  | 0x043 => r.tpc
  | 0x044 => r.tstat
  | 0x100 => r.scratch[0]
  | 0x101 => r.scratch[1]
  | 0x102 => r.scratch[2]
  | 0x103 => r.scratch[3]
  | 0x104 => uimm r.tdsl
  | 0x105 => r.tdtgt
  | _ => 0

/-- The trap registers after the write of one. -/
def TrapRegs.write (r : TrapRegs) (n : Nat) (v : Word) : TrapRegs :=
  match n with
  | 0x040 => { r with tvec := v &&& ~~~3 }
  | 0x041 => { r with tcause := BitVec.ofNat 6 v.toNat }
  | 0x042 => { r with taddr := v }
  | 0x043 => { r with tpc := v &&& ~~~3 }
  | 0x044 => r.setTstat v
  | 0x100 => { r with scratch := r.scratch.set 0 v }
  | 0x101 => { r with scratch := r.scratch.set 1 v }
  | 0x102 => { r with scratch := r.scratch.set 2 v }
  | 0x103 => { r with scratch := r.scratch.set 3 v }
  | 0x104 => { r with tdsl := BitVec.ofNat 3 v.toNat }
  | 0x105 => { r with tdtgt := v }
  | _ => r

/-- A case per trap register. -/
theorem trapNumbers_cases {motive : (n : Nat) → n ∈ trapNumbers → Prop}
    (tvec : motive 0x040 (by decide)) (tcause : motive 0x041 (by decide)) (taddr : motive 0x042 (by decide))
    (tpc : motive 0x043 (by decide)) (tstat : motive 0x044 (by decide)) (scratch0 : motive 0x100 (by decide))
    (scratch1 : motive 0x101 (by decide)) (scratch2 : motive 0x102 (by decide)) (scratch3 : motive 0x103 (by decide))
    (tdsl : motive 0x104 (by decide)) (tdtgt : motive 0x105 (by decide)) (n : Nat) (h : n ∈ trapNumbers) : motive n h := by
  have cases := h
  simp only [trapNumbers, List.mem_cons, List.not_mem_nil, or_false] at cases
  obtain rfl | rfl | rfl | rfl | rfl | rfl | rfl | rfl | rfl | rfl | rfl := cases <;> assumption

theorem State.sreg_trap (s : State) {n : Nat} (h : n ∈ trapNumbers) : s.sreg n = s.cur.trap.read n := by
  cases n, h using trapNumbers_cases <;> rfl

theorem State.setSreg_trap (s : State) (v : Word) {n : Nat} (h : n ∈ trapNumbers) :
    s.setSreg n v = .ok (s.updTrap fun r => r.write n v) := by
  cases n, h using trapNumbers_cases <;> rfl

/-- The write of one trap register leaves every other. -/
theorem TrapRegs.read_write_other (r : TrapRegs) (v : Word) {n m : Nat} (hn : n ∈ trapNumbers) (hm : m ∈ trapNumbers)
    (h : m ≠ n) : (r.write n v).read m = r.read m := by
  cases n, hn using trapNumbers_cases <;> cases m, hm using trapNumbers_cases <;>
    simp_all [TrapRegs.write, TrapRegs.read, TrapRegs.tstat, TrapRegs.setTstat]

@[simp] theorem State.cur_updTrap (s : State) (f : TrapRegs → TrapRegs) :
    (s.updTrap f).cur = { s.cur with trap := f s.cur.trap } := s.cur_updTile_tile _
@[simp] theorem State.me_updTrap (s : State) (f : TrapRegs → TrapRegs) : (s.updTrap f).me = s.me :=
  s.me_updTile_tile _ rfl
@[simp] theorem State.getS_updTrap (s : State) (f : TrapRegs → TrapRegs) (n : BitVec 5) : (s.updTrap f).getS n = s.getS n := by
  rw [State.getS, State.me_updTrap, State.getS]
@[simp] theorem State.getP_updTrap (s : State) (f : TrapRegs → TrapRegs) (n : BitVec 3) : (s.updTrap f).getP n = s.getP n := by
  rw [State.getP, State.me_updTrap, State.getP]

/-! ### MTS (R82, R104) -/

/-- From `s` to `t` nothing has changed that MTS of register `n` must leave: the trap registers but for it, the registers of the
task and memory. -/
structure LeftByMts (s t : State) (n : Nat) : Prop where
  traps : ∀ m ∈ trapNumbers, m ≠ n → t.sreg m = s.sreg m
  scalars : ∀ r, t.getS r = s.getS r
  predicates : ∀ q, t.getP q = s.getP q
  bytes : ∀ x, t.byte x = s.byte x

/-- MTS of a register other than DEADPEER performs its write and goes on. -/
theorem mts_next {s s' : State} {g : Guard} {a : BitVec 5} {n : BitVec 10} (h : issues s (.mts g a n) g { src := [a] } = true)
    (hn : n.toNat / 4 ≠ 0x050 / 4) (hw : s.setSreg n.toNat (s.getS a) = .ok s') : exec (.mts g a n) s = .next (s'.issued 1) := by
  refine (exec_mts ..).trans (State.plain_ok _ _ _ _ _ _ h ?_)
  simp only [hw, bind, Except.bind, if_neg hn]

/-- What the issue that ends MTS leaves as it is. -/
theorem LeftByMts.issued {s s' : State} {n : Nat} (h : LeftByMts s s' n) : LeftByMts s (s'.issued 1) n where
  traps := fun m hm hne => (s'.sreg_issued 1 m).trans (h.traps m hm hne)
  scalars := fun r => (s'.getS_issued 1 r).trans (h.scalars r)
  predicates := fun q => (s'.getP_issued 1 q).trans (h.predicates q)
  bytes := h.bytes

/-- A write of a trap register. -/
theorem leftByMts_updTrap (s : State) (v : Word) {n : Nat} (h : n ∈ trapNumbers) :
    LeftByMts s (s.updTrap fun r => r.write n v) n where
  traps := fun m hm hne => by
    rw [State.sreg_trap _ hm, State.sreg_trap _ hm, State.cur_updTrap]
    exact TrapRegs.read_write_other _ _ h hm hne
  scalars := s.getS_updTrap _
  predicates := s.getP_updTrap _
  bytes := fun _ => rfl

/-- A write of the flags or modes of the issuing task. -/
theorem leftByMts_updMe (s : State) (f : Task → Task) (n : Nat) (hs : (f s.me).s = s.me.s) (hp : (f s.me).p = s.me.p) :
    LeftByMts s (s.updMe f) n where
  traps := fun m hm _ => by rw [State.sreg_trap _ hm, State.sreg_trap _ hm, State.cur_updMe]
  scalars := fun r => by rw [State.getS_updMe, State.getS, Task.sget, Task.sget, hs]
  predicates := fun q => by rw [State.getP_updMe, State.getP, Task.pget, Task.pget, hp]
  bytes := fun _ => rfl

/-- A write of a register that the context holds. -/
theorem leftByMts_updCtx (s : State) (c : Nat) (f : Ctx → Ctx) (n : Nat) : LeftByMts s (s.updCtx c f) n where
  traps := fun m hm _ => by rw [State.sreg_trap _ hm, State.sreg_trap _ hm]; rfl
  scalars := fun _ => rfl
  predicates := fun _ => rfl
  bytes := fun _ => rfl

/-! ### Values under a mask -/

/-- A field of the low `k` bits reads as the value under their mask. -/
theorem uimm_ofNat_toNat (v : Word) {k : Nat} (h : k ≤ 64) : uimm (BitVec.ofNat k v.toNat) = v &&& BitVec.ofNat 64 (2 ^ k - 1) := by
  apply BitVec.eq_of_toNat_eq
  have hk : 2 ^ k ≤ 2 ^ 64 := Nat.pow_le_pow_right (by decide) h
  have hv := Nat.mod_lt v.toNat (Nat.two_pow_pos k)
  rw [uimm, BitVec.zeroExtend, BitVec.toNat_setWidth, BitVec.toNat_ofNat, BitVec.toNat_and, BitVec.toNat_ofNat,
    Nat.mod_eq_of_lt (b := 2 ^ 64) (by omega), Nat.mod_eq_of_lt (b := 2 ^ 64) (by omega), Nat.and_two_pow_sub_one_eq_mod]

/-- The bits of a number under a mask of `k` ones from bit `lo` on are a field of it, in its place. -/
theorem and_mask_eq (n lo k : Nat) : n &&& (2 ^ k - 1) * 2 ^ lo = bits n lo k * 2 ^ lo := by
  apply Nat.eq_of_testBit_eq
  intro i
  simp only [bits, Nat.testBit_and, Nat.testBit_mul_two_pow, Nat.testBit_two_pow_sub_one, Nat.testBit_mod_two_pow, Nat.testBit_div_two_pow]
  by_cases h : lo ≤ i
  · simp only [h, decide_true, Bool.true_and, Nat.sub_add_cancel h, Bool.and_comm]
  · simp [h]

/-- The bits that MTS writes in TSTAT, with BUSY or without it, as a sum of two fields (R376). -/
theorem tstat_mask (n : Nat) {x : Nat} (hx : x < 4) :
    n &&& 0x00FF000000003FFC ||| x = bits n 48 8 * 2 ^ 48 + bits n 2 12 * 2 ^ 2 + x := by
  have two : (0x00FF000000003FFC : Nat) = (2 ^ 8 - 1) * 2 ^ 48 ||| (2 ^ 12 - 1) * 2 ^ 2 := by decide
  have low : bits n 2 12 * 2 ^ 2 + x < 2 ^ 48 := by unfold bits; omega
  rw [two, Nat.and_or_distrib_left, and_mask_eq, and_mask_eq, Nat.or_assoc, Nat.mul_comm _ (2 ^ 2),
    ← Nat.two_pow_add_eq_or_of_lt hx, Nat.mul_comm _ (2 ^ 48), ← Nat.two_pow_add_eq_or_of_lt (by omega)]
  omega

/-- KIND, LEVEL, TASK, SRC and PLEV of TSTAT lie one after another from bit 13 to bit 2 (R376). -/
theorem tstat_fields (n : Nat) : bits n 12 2 * 2 ^ 12 + bits n 8 4 * 2 ^ 8 + bits n 6 2 * 64 + bits n 3 3 * 8 + bits n 2 1 * 4 =
    bits n 2 12 * 2 ^ 2 := by
  simp only [bits]
  omega

/-- A written TSTAT reads as its fields, with BUSY as it was (R376). -/
theorem TrapRegs.tstat_setTstat (r : TrapRegs) (v : Word) :
    (r.setTstat v).tstat = v &&& 0x00FF000000003FFC ||| (if r.busy then 2 else 0) := by
  have word : (if r.busy then 2 else 0 : Word).toNat = if r.busy then 2 else 0 := by split <;> rfl
  have mask := tstat_mask v.toNat (x := if r.busy then 2 else 0) (by split <;> decide)
  have lit : (0x00FF000000003FFC : Word).toNat = 0x00FF000000003FFC := rfl
  have plev : (if (r.setTstat v).plev = .supervisor then 4 else 0) = bits v.toNat 2 1 * 4 := by
    have hb : v.getLsbD 2 = decide (bits v.toNat 2 1 = 1) := by rw [BitVec.getLsbD, Nat.testBit_eq_decide_div_mod_eq]; rfl
    have := Nat.mod_two_eq_zero_or_one (v.toNat / 2 ^ 2)
    simp only [TrapRegs.setTstat, hb, bits]
    split <;> simp_all
  have keep : (r.setTstat v).busy = r.busy := rfl
  have field : ∀ lo k, bits v.toNat lo k % 2 ^ k = bits v.toNat lo k := fun lo k => Nat.mod_mod _ _
  apply BitVec.eq_of_toNat_eq
  rw [BitVec.toNat_or, BitVec.toNat_and, word, lit, mask, ← tstat_fields, TrapRegs.tstat, plev, keep]
  simp only [TrapRegs.setTstat, BitVec.toNat_ofNat, field, Nat.add_assoc]
  have sum : ∀ x < 4, bits v.toNat 48 8 * 2 ^ 48 + (bits v.toNat 12 2 * 2 ^ 12 + (bits v.toNat 8 4 * 2 ^ 8 + (bits v.toNat 6 2 * 64 +
      (bits v.toNat 3 3 * 8 + (bits v.toNat 2 1 * 4 + x))))) < 2 ^ 64 := by simp only [bits]; omega
  exact Nat.mod_eq_of_lt (sum _ (by split <;> decide))

/-! ### The writes of SRSEED and VWIN (R57, R160) -/

/-- Once no word that draws is under way, SRSEED seeds the three generators (R57). -/
theorem State.setSeed_ok (s : State) (v : Word) (hw : (s.cur.words.any (·.draws)) = false) (hr : (s.cur.rows.any (·.draws)) = false) :
    s.setSeed v = .ok (s.updTile s.tile fun t =>
      { t with seed := v, gv := seedGen v genV, gm := seedGen v genM, gc := seedGen v genC }) := by
  simp only [State.setSeed, hw, hr, Bool.false_eq_true, if_false]

/-- A task without a window that asks for window 0, or for any, is given window 0 where that is free. -/
theorem State.vwinReq_win0 (s : State) (v : Word) (hk : s.cur.winOf s.task = 0) (hv : v.toNat % 4 = 1 ∨ v.toNat % 4 = 3)
    (hf : s.cur.win0 = none) : s.vwinReq v = .ok (s.updTile s.tile fun t => { t with win0 := some (s.task : Nat) }) := by
  simp [State.vwinReq, hk, hv, hf]

/-- A task without a window that asks for window 1, or for any while window 0 is taken, is given window 1 where that is free. -/
theorem State.vwinReq_win1 (s : State) (v : Word) (hk : s.cur.winOf s.task = 0)
    (hv : v.toNat % 4 = 2 ∨ v.toNat % 4 = 3 ∧ s.cur.win0 ≠ none) (hf : s.cur.win1 = none) :
    s.vwinReq v = .ok (s.updTile s.tile fun t => { t with win1 := some (s.task : Nat) }) := by
  have h0 : ¬(((v.toNat % 4 = 1 || v.toNat % 4 = 3) && s.cur.win0.isNone) = true) := by
    rcases hv with h | ⟨h, h0⟩
    · simp [h]
    · simp [h, h0]
  have h1 : v.toNat % 4 = 2 ∨ v.toNat % 4 = 3 := hv.imp_right And.left
  simp only [State.vwinReq, hk, ne_eq, not_true_eq_false, if_false, if_neg h0]
  simp [h1, hf]

/-- A task gives its window back once no vector word of it is queued. -/
theorem State.vwinReq_release (s : State) (v : Word) (hk : s.cur.winOf s.task ≠ 0) (hv : v.toNat % 4 = 0)
    (hq : ∀ e ∈ s.cur.vq, e.task ≠ s.task) : s.vwinReq v = .ok (s.updTile s.tile fun t => t.releaseWin s.task) := by
  have hany : (s.cur.vq.any fun e => e.task == (s.task : Nat)) = false := by simpa using hq
  simp [State.vwinReq, hk, hv, hany]

theorem Tile.winOf_releaseWin (t : Tile) (k : Nat) : (t.releaseWin k).winOf k = 0 := by
  unfold Tile.winOf Tile.releaseWin
  dsimp only
  by_cases h0 : t.win0 = some k <;> by_cases h1 : t.win1 = some k <;> simp [h0, h1]

/-! ### The write of DEADPEER (R400) -/

/-- DEADPEER register `n` takes the bits of the value but for the own package and packages that are no members. -/
theorem State.dead_setDeadReg (s : State) (c n p : Nat) (v : Word) (hp : p < 256) :
    ((s.setDeadReg c n v).ctxAt c).dead.getLsbD p =
      if p / 64 = n ∧ p ≠ s.pkg.toNat ∧ p ∈ s.pod.members then v.getLsbD (p % 64) else (s.ctxAt c).dead.getLsbD p := by
  rw [State.setDeadReg, State.ctxAt_updCtx_same]
  refine (getLsbD_foldl_dead (fun p => p = s.pkg.toNat || !s.pod.members.contains p) v _ n p hp).trans ?_
  simp

/-- Where nothing is on its way, a peer that is marked dead takes nothing with it. -/
theorem State.peerGone_idle (s : State) (c p : Nat) (hp : s.pkts = []) (ht : s.transits = []) : s.peerGone c p = s := by
  cases s
  cases hp
  cases ht
  rfl

theorem State.peersGone_idle (s : State) (c : Nat) (ps : List Nat) (hp : s.pkts = []) (ht : s.transits = []) :
    ps.foldl (fun x p => x.peerGone c p) s = s := by
  induction ps with
  | nil => rfl
  | cons p ps ih => rw [List.foldl_cons, State.peerGone_idle s c p hp ht, ih]

theorem State.setSreg_dead (s : State) (v : Word) {n : Nat} (h : n < 4) :
    s.setSreg (BitVec.ofNat 10 (0x050 + n)).toNat v = .ok (s.setDeadReg s.myCtx n v) := by
  obtain rfl | rfl | rfl | rfl : n = 0 ∨ n = 1 ∨ n = 2 ∨ n = 3 := by omega
  all_goals rfl

/-- MTS of DEADPEER where nothing is on its way to a peer only writes the bits. -/
theorem mts_dead_next {s : State} {g : Guard} {a : BitVec 5} {n : Nat} (hn : n < 4)
    (h : issues s (.mts g a (BitVec.ofNat 10 (0x050 + n))) g { src := [a] } = true) (hp : s.pkts = []) (ht : s.transits = []) :
    exec (.mts g a (BitVec.ofNat 10 (0x050 + n))) s = .next ((s.setDeadReg s.myCtx n (s.getS a)).issued 1) := by
  refine (exec_mts ..).trans (State.plain_ok _ _ _ _ _ _ h ?_)
  rw [State.setSreg_dead s _ hn]
  simp only [bind, Except.bind]
  rw [if_pos (by rw [deadNumber_toNat hn]; omega), State.peersGone_idle _ _ _ (by exact hp) (by exact ht)]

/-! ### LEASEQ (R395) -/

/-- The oldest outcome of LEASEQ leaves it, with its mark of validity, and of an overflow. -/
theorem State.leaseTake_cons {s : State} {w : Word} {r : List Word} (h : (s.ctxAt s.myCtx).leaseq = w :: r) : s.leaseTake =
    (w ||| (1 : Word) <<< 63 ||| (if (s.ctxAt s.myCtx).leaseOvf then (1 : Word) <<< 62 else 0),
      s.updCtx s.myCtx fun x => { x with leaseq := r, leaseOvf := false }) := by
  simp only [State.leaseTake, h]

/-- The two marks of an outcome of LEASEQ leave its low 62 bits. -/
theorem leaseMarks_low (w : Word) (b : Bool) :
    (w ||| (1 : Word) <<< 63 ||| (if b then (1 : Word) <<< 62 else 0)) &&& 0x3FFFFFFFFFFFFFFF = w &&& 0x3FFFFFFFFFFFFFFF := by
  have h63 : ((1 : Word) <<< 63) &&& 0x3FFFFFFFFFFFFFFF = 0#64 := by decide
  have h62 : (if b then (1 : Word) <<< 62 else 0) &&& 0x3FFFFFFFFFFFFFFF = 0#64 := by cases b <;> decide
  apply BitVec.eq_of_getLsbD_eq
  intro i _
  replace h63 := congrArg (BitVec.getLsbD · i) h63
  replace h62 := congrArg (BitVec.getLsbD · i) h62
  simp only [BitVec.getLsbD_and, BitVec.getLsbD_zero] at h63 h62
  simp only [BitVec.getLsbD_and, BitVec.getLsbD_or, Bool.and_or_distrib_right, h63, h62, Bool.or_false]

theorem leaseMarks_valid (w : Word) (b : Bool) :
    (w ||| (1 : Word) <<< 63 ||| (if b then (1 : Word) <<< 62 else 0)).getLsbD 63 = true := by
  cases b <;> simp

/-- MTS of a register whose write leaves what it must: what the register then reads as, and what stays. -/
theorem mts_reads {s s' : State} {g : Guard} {a : BitVec 5} {n : Nat} {w : Word}
    (h : issues s (.mts g a (BitVec.ofNat 10 n)) g { src := [a] } = true) (hn : n < 1024 ∧ n / 4 ≠ 0x050 / 4)
    (hw : s.setSreg n (s.getS a) = .ok s') (hl : LeftByMts s s' n) (hv : s'.sreg n = w) :
    ∃ t, exec (.mts g a (BitVec.ofNat 10 n)) s = .next t ∧ t.sreg n = w ∧ (∀ m ∈ trapNumbers, m ≠ n → t.sreg m = s.sreg m) ∧
      (∀ r, t.getS r = s.getS r) ∧ (∀ q, t.getP q = s.getP q) ∧ ∀ x, t.byte x = s.byte x := by
  have e : (BitVec.ofNat 10 n).toNat = n := by rw [BitVec.toNat_ofNat, Nat.mod_eq_of_lt hn.1]
  have l := hl.issued
  exact ⟨_, mts_next h (by rw [e]; exact hn.2) (by rw [e]; exact hw), (s'.sreg_issued 1 n).trans hv, l.traps, l.scalars,
    l.predicates, l.bytes⟩

/-- MTS of a trap register. -/
theorem mts_reads_trap {s : State} {g : Guard} {a : BitVec 5} {n : Nat} {w : Word}
    (h : issues s (.mts g a (BitVec.ofNat 10 n)) g { src := [a] } = true) (hn : n ∈ trapNumbers)
    (hv : (s.cur.trap.write n (s.getS a)).read n = w) :
    ∃ t, exec (.mts g a (BitVec.ofNat 10 n)) s = .next t ∧ t.sreg n = w ∧ (∀ m ∈ trapNumbers, m ≠ n → t.sreg m = s.sreg m) ∧
      (∀ r, t.getS r = s.getS r) ∧ (∀ q, t.getP q = s.getP q) ∧ ∀ x, t.byte x = s.byte x :=
  mts_reads h (by clear h hv; cases n, hn using trapNumbers_cases <;> decide) (s.setSreg_trap _ hn) (leftByMts_updTrap s _ hn)
    (by rw [State.sreg_trap _ hn, State.cur_updTrap]; exact hv)

/-- A flags or mode register after an update of the issuing task. -/
theorem State.sreg_updMe (s : State) (f : Task → Task) : (s.updMe f).sreg 0x021 = uimm (f s.me).flags ∧
    (s.updMe f).sreg 0x022 = uimm (f s.me).fmask ∧ (s.updMe f).sreg 0x023 = uimm (f s.me).rmode := by
  exact ⟨congrArg (fun x : Task => uimm x.flags) (s.me_updMe f), congrArg (fun x : Task => uimm x.fmask) (s.me_updMe f),
    congrArg (fun x : Task => uimm x.rmode) (s.me_updMe f)⟩

/-- RMODE takes a code that is not reserved (R55). -/
theorem State.setRmode_code (s : State) (v : Word) (h : v.toNat % 8 < 6) :
    s.setRmode v = s.updMe fun t => { t with rmode := BitVec.ofNat 3 v.toNat } := if_pos h

/-- MTS of RMODE: a reserved code changes nothing (R55). -/
theorem State.setRmode_reads (s : State) (v : Word) : LeftByMts s (s.setRmode v) 0x023 ∧
    (s.setRmode v).sreg 0x023 = if v.toNat % 8 < 6 then v &&& 7 else s.me.rmode.setWidth 64 := by
  by_cases hv : v.toNat % 8 < 6
  · rw [State.setRmode_code _ _ hv, if_pos hv]
    exact ⟨leftByMts_updMe _ _ _ rfl rfl, (State.sreg_updMe _ _).2.2.trans (uimm_ofNat_toNat v (by decide))⟩
  · rw [State.setRmode, if_neg hv, if_neg hv]
    exact ⟨⟨fun _ _ _ => rfl, fun _ => rfl, fun _ => rfl, fun _ => rfl⟩, rfl⟩

theorem State.sreg_badchunk (s : State) (f : Ctx → Ctx) :
    (s.updCtx s.myCtx f).sreg 0x060 = (f (s.ctxAt s.myCtx)).badchunk := congrArg Ctx.badchunk (s.ctxAt_updCtx_same _ f)

/-- An issue leaves the vector windows of its tile. -/
theorem State.wins_issued (s : State) (k : Nat) : (s.issued k).cur.win0 = s.cur.win0 ∧ (s.issued k).cur.win1 = s.cur.win1 := by
  obtain ⟨_, _, _, _, _, hc⟩ := s.cur_issued_eq k
  rw [hc]
  exact ⟨rfl, rfl⟩

/-- Settles O20: MFS writes what `sreg` reads; MTS performs `setSreg`, of which each register's effect and frame is a lemma above. -/
theorem specialRegisters : Obligations.SpecialRegisters := by
  unfold Obligations.SpecialRegisters
  refine ⟨?mfs, ?mts, ?acts, ?direct⟩
  case mfs =>
    intro s g d t p hp
    simp only [t, ← Tile.vwin_eq] at hp
    refine ⟨fun h => ?_, fun n hn h => ?_⟩
    · -- Each value of the list is what `sreg` reads of its number, by definition.
      simp only [List.mem_cons, List.not_mem_nil, or_false] at hp
      obtain rfl | rfl | rfl | rfl | rfl | rfl | rfl | rfl | rfl | rfl | rfl | rfl | rfl | rfl |
        rfl | rfl | rfl | rfl | rfl | rfl | rfl | rfl | rfl | rfl | rfl | rfl | rfl | rfl := hp
      all_goals exact mfs_writes (by simp) h
    · refine ⟨_, mfs_writes (deadNumber_ne_leaseq hn) h, fun i hi => ?_⟩
      rw [State.sreg_dead _ hn, State.getLsbD_deadReg _ _ _ _ hi, State.deadBit_eq]
      rfl
  case mts =>
    intro s g a v p hp h
    simp only [List.mem_cons, List.not_mem_nil, or_false] at hp
    rcases hp with rfl | rfl | rfl | rfl | rfl | rfl | rfl | rfl | rfl | rfl | rfl | rfl | rfl | rfl | rfl <;> dsimp only at h ⊢
    · exact mts_reads h (by decide) rfl (leftByMts_updMe _ _ _ rfl rfl) ((State.sreg_updMe _ _).1.trans (uimm_ofNat_toNat v (by decide)))
    · exact mts_reads h (by decide) rfl (leftByMts_updMe _ _ _ rfl rfl) ((State.sreg_updMe _ _).2.1.trans (uimm_ofNat_toNat v (by decide)))
    · exact mts_reads h (by decide) rfl (s.setRmode_reads v).1 (s.setRmode_reads v).2
    · exact mts_reads_trap h (by decide) rfl
    · exact mts_reads_trap h (by decide) (uimm_ofNat_toNat v (by decide))
    · exact mts_reads_trap h (by decide) rfl
    · exact mts_reads_trap h (by decide) rfl
    · exact mts_reads_trap h (by decide) (TrapRegs.tstat_setTstat _ v)
    · exact mts_reads h (by decide) rfl (leftByMts_updCtx _ _ _ _) (State.sreg_badchunk _ _)
    · exact mts_reads_trap h (by decide) (Vector.getElem_set_self _)
    · exact mts_reads_trap h (by decide) (Vector.getElem_set_self _)
    · exact mts_reads_trap h (by decide) (Vector.getElem_set_self _)
    · exact mts_reads_trap h (by decide) (Vector.getElem_set_self _)
    · exact mts_reads_trap h (by decide) (uimm_ofNat_toNat v (by decide))
    · exact mts_reads_trap h (by decide) rfl
  case acts =>
    intro s g a v
    refine ⟨fun h hw hr => ?_, fun h => ⟨fun hk hv hf => ?_, fun hk hv hf => ?_, fun hk hv hq => ?_⟩, fun n hn h hp ht => ?_⟩
    · obtain ⟨_, _, _, _, _, hc⟩ := (s.updTile s.tile fun t =>
        { t with seed := v, gv := seedGen v genV, gm := seedGen v genM, gc := seedGen v genC }).cur_issued_eq 1
      rw [State.cur_updTile_tile] at hc
      exact ⟨_, mts_next h (by decide) (s.setSeed_ok v hw hr), congrArg Tile.seed hc, congrArg Tile.gv hc, congrArg Tile.gm hc,
        congrArg Tile.gc hc, fun n => (State.getS_issued _ _ _).trans (congrArg (Task.sget · n) (s.me_updTile_tile _ rfl)), rfl⟩
    · refine ⟨_, mts_next h (by decide) (s.vwinReq_win0 v hk hv hf), ?_⟩
      rw [(State.wins_issued _ _).1, (State.wins_issued _ _).2, State.cur_updTile_tile]
      exact ⟨rfl, rfl⟩
    · refine ⟨_, mts_next h (by decide) (s.vwinReq_win1 v hk hv hf), ?_⟩
      rw [(State.wins_issued _ _).1, (State.wins_issued _ _).2, State.cur_updTile_tile]
      exact ⟨rfl, rfl⟩
    · refine ⟨_, mts_next h (by decide) (s.vwinReq_release v hk hv hq), ?_⟩
      rw [Tile.winOf, (State.wins_issued _ _).1, (State.wins_issued _ _).2, State.cur_updTile_tile]
      exact Tile.winOf_releaseWin _ _
    · exact ⟨_, mts_dead_next hn h hp ht, fun r => State.getS_issued _ _ _, fun p hp => s.dead_setDeadReg _ _ _ _ hp⟩
  case direct =>
    refine ⟨fun s v hv => ?_, fun s v hw hr => ?_, fun s hk hf => ?_, fun s hk hf => ?_, fun s hk hq => ?_, fun s d w r hl => ?_⟩
    · exact ⟨_, congrArg Host.Outcome.next (s.setRmode_code v hv), s.me_updMe _⟩
    · exact ⟨_, congrArg (s.finish s.me.pc) (s.setSeed_ok v hw hr), s.cur_updTile_tile _⟩
    · exact ⟨_, congrArg (s.finish s.me.pc) (s.vwinReq_win0 1 hk (.inl rfl) hf), s.cur_updTile_tile _⟩
    · exact ⟨_, congrArg (s.finish s.me.pc) (s.vwinReq_win1 2 hk (.inl rfl) hf), s.cur_updTile_tile _⟩
    · refine ⟨_, congrArg (s.finish s.me.pc) (s.vwinReq_release 0 hk rfl hq), ?_⟩
      rw [State.cur_updTile_tile]
      exact Tile.winOf_releaseWin _ _
    · refine ⟨_, rfl, ?_, fun hd => ?_⟩
      · rw [State.leaseTake_cons hl, State.ctxAt_setS]
        exact congrArg Ctx.leaseq (s.ctxAt_updCtx_same _ _)
      · rw [State.leaseTake_cons hl, State.setS, State.getS_updMe, Task.sget_sset_same _ _ _ hd]
        exact ⟨leaseMarks_valid _ _, leaseMarks_low _ _⟩

end Sys2Proof.Machine
end

/-! PROOFS of nodes and graphs (O52): what completion, the end of a graph, a change of width and the node watchdog change. -/

section

namespace Sys2Proof

/-! ### Entries of a table -/

theorem Tab.mem_of_find {α : Type} {t : Tab α} {k : Nat} {v : α} (h : t.find k = some v) : (k, v) ∈ t := by
  induction t with
  | nil => cases h
  | cons x r ih =>
    obtain ⟨j, w⟩ := x
    unfold Tab.find at h
    split at h
    · next e => cases e; cases h; exact List.mem_cons_self
    · exact List.mem_cons_of_mem _ (ih h)

theorem Tab.mem_put {α : Type} {t : Tab α} {k : Nat} {v : α} {x : Nat × α} (h : x ∈ t.put k v) : x = (k, v) ∨ x ∈ t := by
  induction t with
  | nil => simpa [Tab.put] using h
  | cons y r ih =>
    obtain ⟨j, w⟩ := y
    unfold Tab.put at h
    split at h
    · rcases List.mem_cons.1 h with h | h
      · exact .inl h
      · exact .inr (List.mem_cons_of_mem _ h)
    · split at h
      · exact List.mem_cons.1 h
      · rcases List.mem_cons.1 h with h | h
        · exact .inr (h ▸ List.mem_cons_self)
        · exact (ih h).imp_right (List.mem_cons_of_mem _)

end Sys2Proof

namespace Sys2Proof.Machine

/-! ### What a loop over the state keeps -/

theorem foldl_keeps {σ α β : Type} (g : σ → β) {f : σ → α → σ} (h : ∀ s a, g (f s a) = g s) (l : List α) (s : σ) :
    g (l.foldl f s) = g s := by
  induction l generalizing s with
  | nil => rfl
  | cons a l ih => exact (ih _).trans (h s a)

/-! ### Changes that keep the device queues -/

/-- No context that is bound to the partition has a device-queue entry that waits for room. -/
def State.NothingParked (s : State) (p : Nat) : Prop := ∀ c ∈ s.bound p, (s.ctxAt c).parked = []

/-- From `s` to `t` no partition has changed, no byte has become poisoned, and no context has come to wait for room in a queue. -/
structure KeepsQueues (s t : State) : Prop where
  parts : t.parts = s.parts
  poison : s.poison = [] → t.poison = []
  parked : ∀ p, s.NothingParked p → t.NothingParked p

theorem KeepsQueues.refl (s : State) : KeepsQueues s s := ⟨rfl, id, fun _ => id⟩

theorem KeepsQueues.trans {s t u : State} (h : KeepsQueues s t) (k : KeepsQueues t u) : KeepsQueues s u :=
  ⟨k.parts.trans h.parts, k.poison ∘ h.poison, fun p => k.parked p ∘ h.parked p⟩

theorem KeepsQueues.partAt {s t : State} (h : KeepsQueues s t) (p : Nat) : t.partAt p = s.partAt p := by
  rw [State.partAt, h.parts, State.partAt]

theorem KeepsQueues.of_eq {s t : State} (hp : t.parts = s.parts) (hx : t.poison = s.poison) (hc : t.ctxs = s.ctxs) :
    KeepsQueues s t where
  parts := hp
  poison := fun h => hx.trans h
  parked := fun p h => by simpa only [State.NothingParked, State.bound, State.ctxAt, hc] using h

theorem KeepsQueues.foldl {α : Type} {f : State → α → State} (h : ∀ s a, KeepsQueues s (f s a)) (l : List α) (s : State) :
    KeepsQueues s (l.foldl f s) := by
  induction l generalizing s with
  | nil => exact .refl s
  | cons a l ih => exact (h s a).trans (ih _)

theorem keepsQueues_store (s : State) (loc : Nat) (bs : List Byte) : KeepsQueues s (s.store loc bs) where
  parts := rfl
  poison := fun h => by simp [State.store, h]
  parked := fun _ h => h

/-- A change of a context that binds it to no other partition. -/
theorem State.bound_updCtx {s : State} {c p : Nat} {f : Ctx → Ctx} (he : (f (s.ctxAt c)).exists_ = (s.ctxAt c).exists_)
    (hr : (f (s.ctxAt c)).record = (s.ctxAt c).record) {x : Nat} (h : x ∈ (s.updCtx c f).bound p) : x ∈ s.bound p := by
  simp only [State.bound, List.mem_map, List.mem_filter] at h ⊢
  obtain ⟨kv, ⟨hm, hb⟩, rfl⟩ := h
  rcases Tab.mem_put hm with rfl | hm
  · rw [he, hr] at hb
    cases hf : Tab.find s.ctxs c with
    | none => simp [State.ctxAt, Tab.get, hf] at hb
    | some v =>
      have hv : s.ctxAt c = v := by rw [State.ctxAt, Tab.get, hf]; rfl
      exact ⟨(c, v), ⟨Tab.mem_of_find hf, hv ▸ hb⟩, rfl⟩
  · exact ⟨kv, ⟨hm, hb⟩, rfl⟩

theorem keepsQueues_updCtx (s : State) (c : Nat) (f : Ctx → Ctx) (he : (f (s.ctxAt c)).exists_ = (s.ctxAt c).exists_)
    (hr : (f (s.ctxAt c)).record = (s.ctxAt c).record) (hp : (f (s.ctxAt c)).parked = (s.ctxAt c).parked) :
    KeepsQueues s (s.updCtx c f) where
  parts := rfl
  poison := id
  parked := fun p h x hx => by
    have hx' := h x (State.bound_updCtx he hr hx)
    by_cases hc : x = c
    · subst hc; rw [State.ctxAt_updCtx_same, hp, hx']
    · rw [State.ctxAt_updCtx_other _ _ _ _ hc, hx']

/-! ### What is posted to a host (R431, R432) -/

theorem keepsQueues_drainC (c : Nat) (bs : List (List Byte)) (s : State) : KeepsQueues s (s.drainC c bs) := by
  induction bs generalizing s with
  | nil => exact keepsQueues_updCtx _ _ _ rfl rfl rfl
  | cons b r ih =>
    unfold State.drainC
    dsimp only
    split
    · exact keepsQueues_updCtx _ _ _ rfl rfl rfl
    · exact ((keepsQueues_store _ _ _).trans (keepsQueues_updCtx _ _ _ rfl rfl rfl)).trans (ih _)

theorem keepsQueues_drainE (c : Nat) (bs : List (List Byte)) (s : State) : KeepsQueues s (s.drainE c bs) := by
  induction bs generalizing s with
  | nil => exact keepsQueues_updCtx _ _ _ rfl rfl rfl
  | cons b r ih =>
    unfold State.drainE
    dsimp only
    split
    · exact keepsQueues_updCtx _ _ _ rfl rfl rfl
    · exact ((keepsQueues_store _ _ _).trans (keepsQueues_updCtx _ _ _ rfl rfl rfl)).trans (ih _)

theorem keepsQueues_postCompletion (s : State) (c status queue : Nat) (seq num : BitVec 32) :
    KeepsQueues s (s.postCompletion c status queue seq num) := keepsQueues_drainC _ _ _

theorem keepsQueues_postEvent (s : State) (c code : Nat) (body : List Byte) : KeepsQueues s (s.postEvent c code body) := by
  unfold State.postEvent
  dsimp only
  split
  · exact keepsQueues_updCtx _ _ _ rfl rfl rfl
  · exact keepsQueues_drainE _ _ _

/-! ### Translation where nothing is poisoned (R369, R382) -/

/-- The result is not the end of a context. -/
def NotFatal {α : Type} (r : Res α) : Prop := ∀ k, r ≠ .error (.fatal k)

theorem NotFatal.ok {α : Type} (a : α) : NotFatal (.ok a : Res α) := fun _ h => by cases h

theorem NotFatal.trap {α : Type} (i : TrapInfo) : NotFatal (.error (.trap i) : Res α) := fun _ h => by cases h

theorem NotFatal.hole {α : Type} : NotFatal (.error .hole : Res α) := fun _ h => by cases h

theorem NotFatal.bind {α β : Type} {r : Res α} {f : α → Res β} (hr : NotFatal r) (hf : ∀ a, NotFatal (f a)) :
    NotFatal (r >>= f) := by
  cases r with
  | ok a => exact hf a
  | error e => exact fun k h => hr k (by cases h; rfl)

theorem NotFatal.ite {α : Type} {c : Prop} [Decidable c] {x y : Res α} (hx : NotFatal x) (hy : NotFatal y) :
    NotFatal (if c then x else y) := by
  split
  · exact hx
  · exact hy

theorem State.pte_notFatal {s : State} (h : s.poison = []) (pa : Nat) : NotFatal (s.pte pa) := by
  unfold State.pte State.consume State.poisoned
  rw [h]
  exact .ite (.ok _) .hole

theorem State.groupOk_notFatal {s : State} (h : s.poison = []) (pa e0 n : Nat) : NotFatal (s.groupOk pa e0 n) := by
  induction n with
  | zero => exact .ok _
  | succ n ih =>
    refine .bind (State.pte_notFatal h _) fun e => ?_
    exact .ite ih (.ok _)

theorem State.walkFrom_notFatal {s : State} (h : s.poison = []) (va : Word) (k : AccKind) (lvl t : Nat) :
    NotFatal (s.walkFrom va k lvl t) := by
  induction lvl generalizing t with
  | zero => exact .hole
  | succ lvl ih =>
    refine .bind (State.pte_notFatal h _) fun e => ?_
    exact .ite (.trap _) (.ite (.trap _) (.ite (.trap _) (.ite (.trap _)
      (.ite (.ite (.trap _) (ih _)) (.ite (.ite (.trap _) (.ok _)) (.ite
        (.bind (State.pte_notFatal h _) fun _ => .bind (State.groupOk_notFatal h _ _ _) fun _ => .ite (.ok _) (.trap _)) (.ok _)))))))

theorem State.translate_notFatal {s : State} (h : s.poison = []) (c : Nat) (va : Word) (k : AccKind) (lv : Level) (die : Nat) :
    NotFatal (s.translate c va k lv die) := by
  refine .bind ?_ fun l => ?_
  · unfold State.leafOf
    dsimp only
    split
    · exact .ok _
    · exact State.walkFrom_notFatal h _ _ _ _
  · exact .ite (.ite (.ok _) .hole) (.trap _)

/-! ### A write of the device to a context (R337) -/

/-- Where nothing is poisoned, a write of the device performs or is reported as an event; the device queues stay. -/
theorem State.deviceStore_keepsQueues {s : State} (h : s.poison = []) (c : Nat) (a : Word) (k : AccKind) (which : Nat)
    {f : Nat → Res State} (hf : ∀ pa, ∃ t, f pa = .ok t ∧ KeepsQueues s t) :
    ∃ t, s.deviceStore c a k which f = .ok t ∧ KeepsQueues s t := by
  unfold State.deviceStore
  by_cases hc : canonical a = true
  · rw [if_pos hc]
    cases ht : s.translate c a k .supervisor with
    | ok pa =>
      obtain ⟨t, hk, keeps⟩ := hf pa
      exact ⟨t, by simp [bind, Except.bind, hk], keeps⟩
    | error e =>
      cases e with
      | fatal n => exact absurd ht (State.translate_notFatal h c a k .supervisor 0 n)
      | _ => exact ⟨_, rfl, keepsQueues_postEvent _ _ _ _⟩
  · rw [if_neg hc]
    exact ⟨_, rfl, keepsQueues_postEvent _ _ _ _⟩

theorem State.addTo_clean {s : State} (h : s.poison = []) (loc n : Nat) :
    s.addTo loc n = .ok (s.store loc (le 8 (s.readNat loc 8 + n))) := by
  simp [State.addTo, State.poisoned, h]

/-! ### The boundary of a node (R23, R153) -/

/-- What a tile gives up at the end of a node. -/
def Tile.Released (x : Tile) : Prop :=
  x.node = none ∧ x.win0 = none ∧ x.win1 = none ∧ x.accs = [] ∧ x.sbs = [] ∧ x.sts = [] ∧ x.deque = [] ∧ x.chans = []

theorem Tile.released_boundary (x : Tile) : x.boundary.Released := ⟨rfl, rfl, rfl, rfl, rfl, rfl, rfl, rfl⟩

/-- Closing a parcel window changes the tile's windows, and an entry of the directory in memory. -/
theorem State.closeWindow_cases (s : State) (c t w : Nat) : s.closeWindow c t w = s ∨
    ∃ u, (u = s.updTile t fun y => { y with windows := y.windows.del w }) ∧
      (s.closeWindow c t w = u ∨ ∃ p, s.closeWindow c t w = u.putPar c p) := by
  unfold State.closeWindow
  split
  · exact .inl rfl
  · refine .inr ⟨_, rfl, ?_⟩
    dsimp only
    split
    · exact .inl rfl
    · exact .inr ⟨_, rfl⟩

theorem State.closeWindow_none {s : State} {t : Nat} (h : (s.tileAt t).windows = []) (c w : Nat) : s.closeWindow c t w = s := by
  unfold State.closeWindow
  rw [h]
  rfl

theorem keepsQueues_updTile (s : State) (k : Nat) (f : Tile → Tile) : KeepsQueues s (s.updTile k f) := .of_eq rfl rfl rfl

theorem keepsQueues_putPar (s : State) (c : Nat) (p : Par) : KeepsQueues s (s.putPar c p) := by
  unfold State.putPar
  exact keepsQueues_store _ _ _

theorem State.tileAt_putPar (s : State) (c : Nat) (p : Par) (k : Nat) : (s.putPar c p).tileAt k = s.tileAt k := by
  unfold State.putPar
  exact State.tileAt_store _ _ _ _ _

theorem keepsQueues_closeWindow (s : State) (c t w : Nat) : KeepsQueues s (s.closeWindow c t w) := by
  obtain h | ⟨u, rfl, h | ⟨p, h⟩⟩ := s.closeWindow_cases c t w <;> rw [h]
  · exact .refl s
  · exact keepsQueues_updTile _ _ _
  · exact (keepsQueues_updTile _ _ _).trans (keepsQueues_putPar _ _ _)

theorem State.released_closeWindow {s : State} {u : Nat} (hu : (s.tileAt u).Released) (c t w : Nat) :
    ((s.closeWindow c t w).tileAt u).Released := by
  have upd : ((s.updTile t fun y => { y with windows := y.windows.del w }).tileAt u).Released := by
    by_cases e : u = t
    · subst e; rw [State.tileAt_updTile_same]; exact hu
    · rw [State.tileAt_updTile_other _ _ _ _ e]; exact hu
  obtain h | ⟨u, rfl, h | ⟨p, h⟩⟩ := s.closeWindow_cases c t w <;> rw [h]
  · exact hu
  · exact upd
  · rw [State.tileAt_putPar]; exact upd

theorem keepsQueues_nodeBoundary (s : State) (c t : Nat) : KeepsQueues s (s.nodeBoundary c t) := by
  unfold State.nodeBoundary State.closeWindows
  exact (KeepsQueues.foldl (fun s w => keepsQueues_closeWindow s c t w) _ s).trans (keepsQueues_updTile _ _ _)

theorem State.released_nodeBoundary {s : State} {u : Nat} (c t : Nat) (h : u = t ∨ (s.tileAt u).Released) :
    ((s.nodeBoundary c t).tileAt u).Released := by
  by_cases e : u = t
  · subst e
    rw [State.nodeBoundary, State.tileAt_updTile_same]
    exact Tile.released_boundary _
  · rw [State.nodeBoundary, State.tileAt_updTile_other _ _ _ _ e]
    unfold State.closeWindows
    exact List.foldlRecOn (motive := fun x : State => (x.tileAt u).Released) _ _ (h.resolve_left e) fun s hs w _ =>
      State.released_closeWindow hs c t w

/-- Every tile at which a node ends gives up what it shared. -/
theorem State.released_foldl {c u : Nat} (l : List Nat) {s : State} (h : u ∈ l ∨ (s.tileAt u).Released) :
    ((l.foldl (fun s t => s.nodeBoundary c t) s).tileAt u).Released := by
  induction l generalizing s with
  | nil => exact h.resolve_left List.not_mem_nil
  | cons t l ih =>
    rw [List.foldl_cons]
    refine ih ?_
    rcases h with h | h
    · rcases List.mem_cons.1 h with e | h
      · exact .inr (State.released_nodeBoundary c t (.inl e))
      · exact .inl h
    · exact .inr (State.released_nodeBoundary c t (.inr h))

/-- Where no parcel window is open, the end of a node leaves memory as it is, and opens none. -/
theorem State.nodeBoundary_noWindows {s : State} (h : ∀ k, (s.tileAt k).windows = []) (c t : Nat) :
    (s.nodeBoundary c t).mem = s.mem ∧ ∀ k, ((s.nodeBoundary c t).tileAt k).windows = [] := by
  have hc : s.closeWindows c t = s := by
    unfold State.closeWindows
    exact List.foldlRecOn (motive := (· = s)) _ _ rfl fun x hx w _ => by rw [hx, State.closeWindow_none (h t)]
  rw [State.nodeBoundary, hc]
  refine ⟨rfl, fun k => ?_⟩
  by_cases e : k = t
  · subst e; rw [State.tileAt_updTile_same]; exact h k
  · rw [State.tileAt_updTile_other _ _ _ _ e]; exact h k

/-! ### The end of a graph (R337) -/

theorem keepsQueues_updRegion (s : State) (r : Nat) (f : Region → Region) : KeepsQueues s (s.updRegion r f) := .of_eq rfl rfl rfl

theorem keepsQueues_endRegions (s : State) (p : Nat) (e : DqEntry) : KeepsQueues s (s.endRegions p e) := by
  unfold State.endRegions
  exact .foldl (fun s b => keepsQueues_updRegion s b _) _ s

theorem keepsQueues_clearTables (s : State) (p : Nat) : KeepsQueues s (s.clearTables p) := by
  unfold State.clearTables
  exact .foldl (fun s t => keepsQueues_updTile s t _) _ s

/-- Where nothing waits for room, freed room is taken by nothing. -/
theorem State.unpark_nothingParked {s : State} {p : Nat} (h : s.NothingParked p) : s.unpark p = s := by
  have none : (s.bound p).filter (fun c => (s.ctxAt c).parked != []) = [] := by
    rw [List.filter_eq_nil_iff]
    intro c hc
    rw [h c hc]
    decide
  unfold State.unpark
  split
  · rfl
  · rw [none]; rfl

/-- What the end of a graph in active slot `a` does to regions, tensor map, tiles and slot tables. -/
def State.freeSlotOf (s : State) (p : Nat) (e : DqEntry) (a : Nat) : State :=
  let s := s.endRegions p e
  let s := s.updCtx e.ctx fun x => { x with tmap := x.tmap.del a }
  let left := (s.ctxTiles e.ctx).filter fun t => (s.tileAt t).node.any fun n => n.1 == a
  let s := left.foldl (fun s t => s.nodeBoundary e.ctx t) s
  if gHeavy e.graph then s.clearTables p else s

/-- The entry of a graph leaves the device queue. -/
def State.dropEntry (s : State) (p : Nat) (e : DqEntry) : State :=
  s.updPart p fun x => { x with queue := x.queue.filter fun y => !y.same e }

theorem State.queue_dropEntry (s : State) (p : Nat) (e : DqEntry) :
    ((s.dropEntry p e).partAt p).queue = (s.partAt p).queue.filter fun y => !y.same e := by
  rw [State.dropEntry, State.partAt_updPart_same]

theorem State.freeGraph_queued (s : State) (p : Nat) {e : DqEntry} (h : e.slot = none) :
    s.freeGraph p e = (s.dropEntry p e).unpark p := by
  rw [State.freeGraph, h]
  rfl

theorem State.freeGraph_active (s : State) (p : Nat) {e : DqEntry} {a : Nat} (h : e.slot = some a) :
    s.freeGraph p e = ((s.dropEntry p e).freeSlotOf p e a).unpark p := by
  rw [State.freeGraph, h]
  rfl

theorem keepsQueues_freeSlotOf (s : State) (p : Nat) (e : DqEntry) (a : Nat) : KeepsQueues s (s.freeSlotOf p e a) := by
  have tiles : ∀ (l : List Nat) x, KeepsQueues x (l.foldl (fun s t => s.nodeBoundary e.ctx t) x) :=
    KeepsQueues.foldl fun s t => keepsQueues_nodeBoundary s e.ctx t
  have upTo : ∀ l : List Nat, KeepsQueues s (l.foldl (fun s t => s.nodeBoundary e.ctx t)
      ((s.endRegions p e).updCtx e.ctx fun x => { x with tmap := x.tmap.del a })) := fun l =>
    ((keepsQueues_endRegions s p e).trans (keepsQueues_updCtx _ _ _ rfl rfl rfl)).trans (tiles l _)
  unfold State.freeSlotOf
  dsimp only
  split
  · exact (upTo _).trans (keepsQueues_clearTables _ _)
  · exact upTo _

/-- The entry of a graph that ends leaves the device queue, and where nothing waits for room the rest stays as it was. -/
theorem State.queue_freeGraph {s : State} {p : Nat} (h : s.NothingParked p) (e : DqEntry) :
    ((s.freeGraph p e).partAt p).queue = (s.partAt p).queue.filter fun y => !y.same e := by
  have hn : (s.dropEntry p e).NothingParked p := h
  cases hs : e.slot with
  | none => rw [State.freeGraph_queued _ _ hs, State.unpark_nothingParked hn, State.queue_dropEntry]
  | some a =>
    have keeps := keepsQueues_freeSlotOf (s.dropEntry p e) p e a
    rw [State.freeGraph_active _ _ hs, State.unpark_nothingParked (keeps.parked p hn), keeps.partAt, State.queue_dropEntry]

/-- The write of STAT, the add at DONE and the completion entry of a graph that completes (R337). -/
def State.writeStat (s : State) (e : DqEntry) (status : Nat) : Except State State :=
  if e.launch.stat = 0 then .ok s else s.deviceStore e.ctx e.launch.stat .write 0 fun pa => .ok (s.store pa (le 8 status))
def State.addDone (s : State) (e : DqEntry) : Except State State :=
  s.deviceStore e.ctx e.launch.doneA .amo 1 fun pa => s.addTo pa 1
def State.tellHost (s : State) (e : DqEntry) (status : Nat) : State :=
  match e.host with
  | none => s
  | some (q, seq) => s.postCompletion e.ctx status q seq e.num

theorem State.completeGraph_eq {s u v : State} {e : DqEntry} {status : Nat} (hu : s.writeStat e status = .ok u)
    (hv : u.addDone e = .ok v) (p : Nat) : s.completeGraph p e status = (v.tellHost e status).freeGraph p e := by
  unfold State.writeStat at hu
  unfold State.addDone at hv
  unfold State.completeGraph
  by_cases hs : e.launch.stat = 0
  · rw [if_pos hs] at hu
    cases hu
    simp only [if_pos hs, bind, Except.bind, hv]
    rfl
  · rw [if_neg hs] at hu
    simp only [if_neg hs, bind, Except.bind, hu, hv]
    rfl

theorem State.writeStat_clean {s : State} (h : s.poison = []) (e : DqEntry) (status : Nat) :
    ∃ u, s.writeStat e status = .ok u ∧ KeepsQueues s u := by
  unfold State.writeStat
  split
  · exact ⟨s, rfl, .refl s⟩
  · exact State.deviceStore_keepsQueues h _ _ _ _ fun pa => ⟨_, rfl, keepsQueues_store _ _ _⟩

theorem State.addDone_clean {s : State} (h : s.poison = []) (e : DqEntry) : ∃ u, s.addDone e = .ok u ∧ KeepsQueues s u :=
  State.deviceStore_keepsQueues h _ _ _ _ fun pa => ⟨_, State.addTo_clean h pa 1, keepsQueues_store _ _ _⟩

theorem keepsQueues_tellHost (s : State) (e : DqEntry) (status : Nat) : KeepsQueues s (s.tellHost e status) := by
  unfold State.tellHost
  split
  · exact .refl s
  · exact keepsQueues_postCompletion _ _ _ _ _ _

/-- A graph that completes where nothing is poisoned and nothing waits for room only leaves the device queue. -/
theorem State.queue_completeGraph {s : State} {p : Nat} (h : s.poison = []) (hn : s.NothingParked p) (e : DqEntry) (status : Nat) :
    ((s.completeGraph p e status).partAt p).queue = (s.partAt p).queue.filter fun y => !y.same e := by
  obtain ⟨u, hu, su⟩ := State.writeStat_clean h e status
  obtain ⟨v, hv, uv⟩ := State.addDone_clean (su.poison h) e
  have keeps := (su.trans uv).trans (keepsQueues_tellHost v e status)
  rw [State.completeGraph_eq hu hv, State.queue_freeGraph (keeps.parked p hn), keeps.partAt]

/-! ### Memory at the end of a graph -/

theorem State.mem_unpark (s : State) (p : Nat) : (s.unpark p).mem = s.mem := by
  unfold State.unpark
  split
  · rfl
  · exact foldl_keeps State.mem (by intros; rfl) _ _

theorem State.mem_clearTables (s : State) (p : Nat) : (s.clearTables p).mem = s.mem := by
  unfold State.clearTables
  exact foldl_keeps State.mem (by intros; rfl) _ _

theorem State.mem_endRegions (s : State) (p : Nat) (e : DqEntry) : (s.endRegions p e).mem = s.mem := by
  unfold State.endRegions
  exact foldl_keeps State.mem (by intros; rfl) _ _

theorem State.tiles_endRegions (s : State) (p : Nat) (e : DqEntry) : (s.endRegions p e).tiles = s.tiles := by
  unfold State.endRegions
  exact foldl_keeps State.tiles (by intros; rfl) _ _

theorem State.mem_foldl_nodeBoundary (c : Nat) (l : List Nat) {s : State} (h : ∀ k, (s.tileAt k).windows = []) :
    (l.foldl (fun s t => s.nodeBoundary c t) s).mem = s.mem := by
  induction l generalizing s with
  | nil => rfl
  | cons t l ih =>
    obtain ⟨hm, hw⟩ := State.nodeBoundary_noWindows h c t
    rw [List.foldl_cons, ih hw, hm]

theorem State.mem_freeSlotOf {s : State} (h : ∀ k, (s.tileAt k).windows = []) (p : Nat) (e : DqEntry) (a : Nat) :
    (s.freeSlotOf p e a).mem = s.mem := by
  have hw : ∀ k, ((s.endRegions p e).tileAt k).windows = [] := fun k => by
    rw [State.tileAt, State.tiles_endRegions]; exact h k
  have tiles : ∀ l : List Nat, (l.foldl (fun s t => s.nodeBoundary e.ctx t)
      ((s.endRegions p e).updCtx e.ctx fun x => { x with tmap := x.tmap.del a })).mem = s.mem := fun l => by
    refine (State.mem_foldl_nodeBoundary e.ctx l ?_).trans (s.mem_endRegions p e)
    exact hw
  unfold State.freeSlotOf
  dsimp only
  split
  · rw [State.mem_clearTables, tiles]
  · exact tiles _

/-- Where no parcel window is open, a graph that leaves the device queue leaves memory as it is. -/
theorem State.mem_freeGraph {s : State} (h : ∀ k, (s.tileAt k).windows = []) (p : Nat) (e : DqEntry) :
    (s.freeGraph p e).mem = s.mem := by
  cases hs : e.slot with
  | none => rw [State.freeGraph_queued _ _ hs, State.mem_unpark]; rfl
  | some a =>
    rw [State.freeGraph_active _ _ hs, State.mem_unpark]
    exact State.mem_freeSlotOf (s := s.dropEntry p e) h p e a

/-- The add at DONE of a graph without STAT and without a completion entry (R337). -/
theorem State.readNat_completeGraph {s : State} {e : DqEntry} {pa : Nat} (h : s.poison = []) (hs : e.launch.stat = 0) (hh : e.host = none)
    (hc : canonical e.launch.doneA = true) (ht : s.translate e.ctx e.launch.doneA .amo .supervisor = .ok pa)
    (hw : ∀ k, (s.tileAt k).windows = []) (p status : Nat) :
    (s.completeGraph p e status).readNat pa 8 = (s.readNat pa 8 + 1) % 2 ^ 64 := by
  have hu : s.writeStat e status = .ok s := if_pos hs
  have hv : s.addDone e = .ok (s.store pa (le 8 (s.readNat pa 8 + 1))) := by
    simp only [State.addDone, State.deviceStore, hc, ht, State.addTo_clean h, if_true, bind, Except.bind]
  have host : (s.store pa (le 8 (s.readNat pa 8 + 1))).tellHost e status = s.store pa (le 8 (s.readNat pa 8 + 1)) := by
    rw [State.tellHost, hh]
  have hm := State.mem_freeGraph (s := s.store pa (le 8 (s.readNat pa 8 + 1))) hw p e
  have read : ∀ {x y : State}, x.mem = y.mem → x.readNat pa 8 = y.readNat pa 8 := fun e => by
    simp only [State.readNat, State.bytesAt, State.byte, e]
  rw [State.completeGraph_eq hu hv, host, read hm]
  exact State.readNat_store s pa 8 _ false

/-! ### Entries of a device queue -/

theorem State.queue_updEntry (s : State) (p : Nat) (e : DqEntry) (f : DqEntry → DqEntry) :
    ((s.updEntry p e f).partAt p).queue = (s.partAt p).queue.map fun y => if y.same e then f y else y := by
  rw [State.updEntry, State.partAt_updPart_same]

theorem State.partAt_applyMasks (s : State) (p : Nat) (m : Tab (BitVec 16)) (k : Nat) : (s.applyMasks p m).partAt k = s.partAt k := by
  unfold State.applyMasks
  exact foldl_keeps (State.partAt · k) (by intros; rfl) _ _

theorem State.tileAt_applyMasks (s : State) (p : Nat) (m : Tab (BitVec 16)) (k : Nat) : (s.applyMasks p m).tileAt k = s.tileAt k := by
  unfold State.applyMasks
  exact foldl_keeps (State.tileAt · k) (by intros; rfl) _ _

/-! ### A change of width (R330) -/

/-- Waking a block changes gating and the in-rush arbiter alone. -/
theorem State.wakeBlock_keeps (s : State) (b : Nat) : (s.wakeBlock b).parts = s.parts ∧ (s.wakeBlock b).mem = s.mem := by
  unfold State.wakeBlock
  split
  · exact ⟨rfl, rfl⟩
  · split <;> exact ⟨rfl, rfl⟩
  · exact ⟨rfl, rfl⟩

/-- The parts of the state that loading slot tables and waking blocks leaves as they are. -/
def State.queuesAndMemory (s : State) : Tab Part × List Host.Cell := (s.parts, s.mem)

theorem State.loadSet_keeps (s : State) (p : Nat) (e : DqEntry) (w : Nat) :
    (s.loadSet p e w).queuesAndMemory = s.queuesAndMemory := by
  have clear : (s.clearTables p).queuesAndMemory = s.queuesAndMemory := by
    unfold State.clearTables
    exact foldl_keeps State.queuesAndMemory (by intros; rfl) _ _
  unfold State.loadSet
  dsimp only
  split
  · split
    · rfl
    · exact clear
  · exact (foldl_keeps State.queuesAndMemory (by intros; rfl) _ _).trans clear

theorem State.widen_keeps (s : State) (p old new : Nat) : (s.widen p old new).queuesAndMemory = s.queuesAndMemory := by
  unfold State.widen
  exact foldl_keeps State.queuesAndMemory (fun x b => Prod.ext (x.wakeBlock_keeps b).1 (x.wakeBlock_keeps b).2) _ _

/-! ### The node watchdog (R338) -/

theorem Tile.taskAt_fin (t : Tile) (k : Fin 4) : t.taskAt k = t.tasks[k] := by
  match k with
  | 0 | 1 | 2 | 3 => rfl

theorem Tile.tasks_updTask_same (t : Tile) (k : Fin 4) (f : Task → Task) : (t.updTask k f).tasks[k] = f t.tasks[k] := by
  rw [← Tile.taskAt_fin t k]
  match k with
  | 0 | 1 | 2 | 3 => exact Vector.getElem_set_self _

theorem Tile.tasks_updTask_other (t : Tile) (k j : Fin 4) (f : Task → Task) (h : j ≠ k) : (t.updTask k f).tasks[j] = t.tasks[j] :=
  Vector.getElem_set_ne (Nat.mod_lt k (by decide)) j.isLt fun e => h (Fin.ext (by omega))

/-- A task that does not live takes no WATCHDOG. -/
theorem State.watchdogTask_dead {s : State} {u : Nat} {j : Fin 4} (h : (s.tileAt u).tasks[j].live = false) : s.watchdogTask u j = s := by
  unfold State.watchdogTask
  dsimp only
  rw [Tile.taskAt_fin, h]
  rfl

theorem State.watchdogTask_busy {s : State} {u : Nat} {k : Fin 4} (h : (s.tileAt u).tasks[k].live = true)
    (hb : (s.tileAt u).trap.busy = true) :
    s.watchdogTask u k = s.updTile u fun y => { y with watchdog := y.watchdog ||| ((1 : BitVec 4) <<< (k : Nat)) } := by
  unfold State.watchdogTask
  dsimp only
  rw [Tile.taskAt_fin, h]
  simp only [Bool.not_true, Bool.false_eq_true, if_false, hb, if_true]

/-- The tile after WATCHDOG of its task `k` (R338, R377). -/
def Tile.barked (x : Tile) (k : Nat) : Tile :=
  { x.unqueue k with
    trap := x.trap.take ⟨.watchdog, 0, .read, 0⟩ k 5 (x.taskAt k) (x.taskAt k).pc
    trapWait := x.trapWait &&& ~~~((1 : BitVec 4) <<< k) }.updTask k fun y => y.enter x.trap.tvec

theorem State.watchdogTask_free {s : State} {u : Nat} {k : Fin 4} (h : (s.tileAt u).tasks[k].live = true)
    (hb : (s.tileAt u).trap.busy = false) (hv : (s.tileAt u).trap.tvec ≠ 0) :
    s.watchdogTask u k = s.setTile u ((s.tileAt u).barked k) := by
  unfold State.watchdogTask State.enterTrap
  dsimp only
  rw [Tile.taskAt_fin, h, hb]
  simp only [Bool.not_true, Bool.false_eq_true, if_false, hv]
  rw [Tile.barked, Tile.taskAt_fin]

/-- WATCHDOG of one task wakes no other. -/
theorem State.live_watchdogTask {s : State} {u : Nat} {k j : Fin 4} (hv : (s.tileAt u).trap.tvec ≠ 0) (hj : j ≠ k) :
    ((s.watchdogTask u k).tileAt u).tasks[j].live = (s.tileAt u).tasks[j].live := by
  cases hl : (s.tileAt u).tasks[k].live with
  | false => rw [State.watchdogTask_dead hl]
  | true =>
    cases hb : (s.tileAt u).trap.busy with
    | true => rw [State.watchdogTask_busy hl hb, State.tileAt_updTile_same]
    | false =>
      rw [State.watchdogTask_free hl hb hv, State.tileAt_setTile_same, Tile.barked, Tile.tasks_updTask_other _ _ _ _ hj]
      rfl

/-- A watchdog that expires on a tile with one live task is that task's alone. -/
theorem State.foldl_watchdogTask {s : State} {u : Nat} {k : Fin 4} (hv : (s.tileAt u).trap.tvec ≠ 0)
    (hd : ∀ j : Fin 4, j ≠ k → (s.tileAt u).tasks[j].live = false) :
    (([u].flatMap fun t => (List.range 4).map fun k => (t, k)).foldl (fun s tk => s.watchdogTask tk.1 tk.2) s) = s.watchdogTask u k := by
  have after : ∀ l : List (Fin 4), k ∉ l →
      l.foldl (fun s j => s.watchdogTask u j) (s.watchdogTask u k) = s.watchdogTask u k := fun l hl => by
    refine List.foldlRecOn (motive := (· = s.watchdogTask u k)) l _ rfl fun x hx j hj => ?_
    have ne : j ≠ k := fun e => hl (e ▸ hj)
    rw [hx, State.watchdogTask_dead ((State.live_watchdogTask hv ne).trans (hd j ne))]
  have all : ∀ l : List (Fin 4), l.Nodup → k ∈ l → l.foldl (fun s j => s.watchdogTask u j) s = s.watchdogTask u k := by
    intro l hl hk
    induction l with
    | nil => cases hk
    | cons j l ih =>
      obtain ⟨hj, hl⟩ := List.nodup_cons.1 hl
      rw [List.foldl_cons]
      by_cases e : j = k
      · subst e; exact after l hj
      · rw [State.watchdogTask_dead (hd j e)]
        exact ih hl ((List.mem_cons.1 hk).resolve_left (Ne.symm e))
  have turns : ([u].flatMap fun t => (List.range 4).map fun k => (t, k)) = (List.finRange 4).map fun j : Fin 4 => (u, (j : Nat)) := rfl
  rw [turns, List.foldl_map]
  exact all _ (List.nodup_finRange 4) (List.mem_finRange k)

/-! ### Nodes, graphs and widths (R22, R23, R330, R334, R337, R338) -/

/-- What NODE_COMPLETE does where its conditions hold. -/
theorem nodeComplete_next {s : State} {p a i : Nat} {e : DqEntry} (ha : s.activeGraph p a = some e) (hi : i < gNodes e.graph)
    (hd : (e.pos i).done = false) (hr : e.ready i = true) (hs : (e.pos i).spent (e.count i) = true)
    (hc : s.nodeComing p e.ctx a i = false) (hf : ∀ u ∈ s.nodeTiles p e.ctx a i, (s.tileAt u).finished = true) :
    exec (.nodeComplete p a i) s = .next ((((s.nodeTiles p e.ctx a i).foldl (fun s t => s.nodeBoundary e.ctx t) s).updEntry p e fun y =>
      y.setPos i { y.pos i with started := true, done := true }).applyMasks p e.masks) := by
  have all : (s.nodeTiles p e.ctx a i).all (fun t => (s.tileAt t).finished) = true := List.all_eq_true.2 hf
  rw [exec_nodeComplete, execNodeComplete, ha]
  simp only [hd, hr, hs, hc, all, Nat.not_le.2 hi, decide_false, Bool.not_true, Bool.or_self, Bool.false_eq_true, if_false]

/-- What GRAPH_COMPLETE does where every node is complete. -/
theorem graphComplete_next {s : State} {p a : Nat} {e : DqEntry} (ha : s.activeGraph p a = some e)
    (hd : ∀ i, i < gNodes e.graph → (e.pos i).done = true) : exec (.graphComplete p a) s = .next (s.completeGraph p e 0) := by
  have all : (List.range (gNodes e.graph)).all (fun i => (e.pos i).done) = true :=
    List.all_eq_true.2 fun i hi => hd i (List.mem_range.1 hi)
  rw [exec_graphComplete, execGraphComplete, ha]
  simp only [all, if_true]

/-- What WIDTH_CHANGE does between nodes where some width is usable. -/
theorem widthChange_next {s : State} {p a w : Nat} {e : DqEntry} (ha : s.activeGraph p a = some e) (he : (s.partAt p).ending = false)
    (hn : ∀ i, i < gNodes e.graph → (e.pos i).started = true → (e.pos i).done = true) (hw : s.widest p e = some w) :
    exec (.widthChange p a) s = .next ((if w = e.width then s else (s.loadSet p e w).widen p e.width w).updEntry p e fun y =>
      { y with width := w, held := false }) := by
  have none : (List.range (gNodes e.graph)).any (fun i => (e.pos i).started && !(e.pos i).done) = false :=
    List.any_eq_false.2 fun i hi => by
      have := hn i (List.mem_range.1 hi)
      simpa using this
  rw [exec_widthChange, execWidthChange, ha]
  simp only [he, none, Bool.or_self, Bool.false_eq_true, if_false, hw]

/-- What NODE_WATCHDOG_EXPIRY does to a node that has one live task, on one tile. -/
theorem nodeWatchdog_next {s : State} {p a i u : Nat} {k : Fin 4} {e : DqEntry} (ha : s.activeGraph p a = some e)
    (ht : (s.nodeTiles p e.ctx a i).filter (fun t => (s.tileAt t).tasks.any fun k => k.live) = [u])
    (hp : (e.pos i).last + periodOf (s.ctxAt e.ctx).record.nodewd 26 ≤ s.clock)
    (hu : (s.tileAt u).lastIssue + periodOf (s.ctxAt e.ctx).record.nodewd 26 ≤ s.cyclesAt u) (hv : (s.tileAt u).trap.tvec ≠ 0)
    (hd : ∀ j : Fin 4, j ≠ k → (s.tileAt u).tasks[j].live = false) :
    exec (.nodeWatchdogExpiry p a i) s =
      .next ((s.updEntry p e fun y => y.setPos i { y.pos i with last := s.clock }).watchdogTask u k) := by
  rw [exec_nodeWatchdogExpiry, execNodeWatchdogExpiry, ha]
  dsimp only
  rw [ht]
  simp only [List.isEmpty_cons, hp, hu, decide_true, List.all_cons, List.all_nil, Bool.and_self, Bool.not_true, Bool.or_self,
    Bool.false_eq_true, if_false]
  exact congrArg Host.Outcome.next (State.foldl_watchdogTask (s := s.updEntry p e _) hv hd)

/-- A task that takes WATCHDOG goes to the handler at level SUPERVISOR, and the trap registers say where it stood (R338, R377). -/
theorem State.watchdogTask_traps {s : State} {u : Nat} {k : Fin 4} (h : (s.tileAt u).tasks[k].live = true)
    (hb : (s.tileAt u).trap.busy = false) (hv : (s.tileAt u).trap.tvec ≠ 0) :
    ((s.watchdogTask u k).tileAt u).trap.busy = true ∧ ((s.watchdogTask u k).tileAt u).trap.tcause = 0x15 ∧
      ((s.watchdogTask u k).tileAt u).trap.tpc = (s.tileAt u).tasks[k].pc ∧
      ((s.watchdogTask u k).tileAt u).tasks[k].pc = (s.tileAt u).trap.tvec ∧
      ((s.watchdogTask u k).tileAt u).tasks[k].level = .supervisor := by
  rw [State.watchdogTask_free h hb hv, State.tileAt_setTile_same, ← Tile.taskAt_fin (s.tileAt u) k]
  refine ⟨rfl, rfl, rfl, ?_, ?_⟩ <;> rw [Tile.barked, Tile.tasks_updTask_same] <;> rfl

/-- A task whose tile is in a trap keeps WATCHDOG waiting (R338, R380). -/
theorem State.watchdogTask_waits {s : State} {u : Nat} {k : Fin 4} (h : (s.tileAt u).tasks[k].live = true)
    (hb : (s.tileAt u).trap.busy = true) : ((s.watchdogTask u k).tileAt u).watchdog.getLsbD k = true := by
  rw [State.watchdogTask_busy h hb, State.tileAt_updTile_same]
  simp

/-- A change of width leaves every partition and memory as they are, but for the entry of its graph. -/
theorem State.changeWidth_keeps (s : State) (p w : Nat) (e : DqEntry) :
    let t := if w = e.width then s else (s.loadSet p e w).widen p e.width w
    t.parts = s.parts ∧ t.mem = s.mem := by
  intro t
  have keep : t.queuesAndMemory = s.queuesAndMemory := by
    unfold t
    split
    · rfl
    · exact (State.widen_keeps _ _ _ _).trans (s.loadSet_keeps p e w)
  exact ⟨congrArg Prod.fst keep, congrArg Prod.snd keep⟩

/-- Settles O52: each event's result is written out above; completion and the end of a graph keep every device queue but for the
entry that they speak of. -/
theorem nodesAndGraphs : Obligations.NodesAndGraphs := by
  unfold Obligations.NodesAndGraphs
  refine ⟨⟨?node, ?graph⟩, ?width, ?watchdog⟩
  case node =>
    intro s p a i e ha hi hd hr hs hc hf
    refine ⟨_, nodeComplete_next ha hi hd hr hs hc hf, ?_, fun u hu => ?_⟩
    · have keeps := KeepsQueues.foldl (fun s t => keepsQueues_nodeBoundary s e.ctx t) (s.nodeTiles p e.ctx a i) s
      rw [State.partAt_applyMasks, State.queue_updEntry, keeps.partAt]
    · rw [State.tileAt_applyMasks]
      exact State.released_foldl (c := e.ctx) _ (.inl hu)
  case graph =>
    intro s p a e ha hd hp hn
    exact ⟨_, graphComplete_next ha hd, State.queue_completeGraph hp hn e 0,
      fun pa hs hh hc ht hw => State.readNat_completeGraph hp hs hh hc ht hw p 0⟩
  case width =>
    intro s p a w e ha he hn hw
    refine ⟨_, widthChange_next ha he hn hw, ?_, fun x => ?_, fun h => ?_⟩
    · rw [State.queue_updEntry, State.partAt, (s.changeWidth_keeps p w e).1, State.partAt]
    · exact congrArg (Tab.get 0 · x) (s.changeWidth_keeps p w e).2
    · rw [if_pos h]; rfl
  case watchdog =>
    intro s p a i u k e ha ht hp hu hv hl hd
    exact ⟨_, nodeWatchdog_next ha ht hp hu hv hd, fun hb => State.watchdogTask_traps (s := s.updEntry p e _) hl hb hv,
      fun hb => State.watchdogTask_waits (s := s.updEntry p e _) hl hb⟩

end Sys2Proof.Machine
end
